-- ==== Sys2Proof/Word.lean ====
section
/-! DEFINITION. Word and byte types and their plainest arithmetic (R2), and the sparse table that every indexed
part of the state uses. -/
namespace Sys2Proof

/-- A word is 32 bits (R2). -/
abbrev Word := BitVec 32
/-- A byte is 8 bits (R2). -/
abbrev Byte := BitVec 8
/-- An instruction word, a format-A or format-W word (R326, R331). -/
abbrev DWord := BitVec 64

/-- A sparse table: entries in strictly rising key order, none equal to the default value. An unlisted key holds
the default that the reader names, so equal tables are equal lists. -/
abbrev Tab (α : Type) := List (Nat × α)

/-- The value of key `k`; `d` where the key is not listed. -/
def Tab.get {α : Type} (d : α) : Tab α → Nat → α
  | [], _ => d
  | (j, v) :: t, k => if k = j then v else Tab.get d t k

/-- Insert, keeping rising order, without looking at the default. -/
def Tab.put {α : Type} : Tab α → Nat → α → Tab α
  | [], k, v => [(k, v)]
  | (j, u) :: t, k, v =>
    if k < j then (k, v) :: (j, u) :: t
    else if k = j then (k, v) :: t
    else (j, u) :: Tab.put t k v

/-- Remove a key. -/
def Tab.del {α : Type} : Tab α → Nat → Tab α
  | [], _ => []
  | (j, u) :: t, k => if k = j then t else (j, u) :: Tab.del t k

/-- Set key `k`; writing the default removes the entry, so the form stays canonical. -/
def Tab.set {α : Type} [DecidableEq α] (d : α) (t : Tab α) (k : Nat) (v : α) : Tab α :=
  if v = d then Tab.del t k else Tab.put t k v

/-- The keys of a table rise strictly from above `lo`. -/
def Tab.risingFrom {α : Type} : Nat → Tab α → Bool
  | _, [] => true
  | lo, (j, _) :: t => decide (lo ≤ j) && Tab.risingFrom (j + 1) t

/-- Canonical form: keys strictly rising, no entry equal to the default. -/
def Tab.wf {α : Type} [DecidableEq α] (d : α) (t : Tab α) : Bool :=
  Tab.risingFrom 0 t && t.all (fun e => decide (e.2 ≠ d))

/-- Bits [hi:lo] of `x` as an unsigned value (R7). -/
def bitsOf (x hi lo : Nat) : Nat := (x >>> lo) % 2 ^ (hi + 1 - lo)

/-- A field value of `n` bits read as two's complement (R306, sext). -/
def sextNat (n v : Nat) : Int := if 2 ^ (n - 1) ≤ v % 2 ^ n then (v % 2 ^ n : Int) - 2 ^ n else (v % 2 ^ n : Int)

/-- An integer modulo 2^n, as a natural number. -/
def modPow (n : Nat) (x : Int) : Nat := (x % (2 ^ n : Int)).toNat

end Sys2Proof
end

