-- ==== Sys2Proof/Syntax.lean ====
section
/-! DEFINITION. The steps of the Jarurn: operator instructions (R325-R332), queue bytecodes (R95), command packets
(R83), matrix micro-operations (R440) and the unit events of the table, one constructor per row of the opcode table,
with the types their fields have. A field that comes from outside the device (a frame on a wire, a measured voltage,
the outcome of an error check) is an argument of the event that receives it. -/
namespace Sys2Proof

/-- Privilege level (R107). -/
inductive Level where
  | t | s | h
  deriving DecidableEq, Repr, Inhabited

/-- Who writes a FWCTL or FWHB register during live replacement (R125): the running image, the new one, the holm. -/
inductive Writer where
  | old | new | holm
  deriving DecidableEq, Repr, Inhabited

/-- Type code of an instruction word (R311). -/
inductive TyCode where
  | i32 | vi16 | vi8 | vi32 | f32 | vf32 | vf16 | vbf16
  deriving DecidableEq, Repr, Inhabited

/-- Predicate mode (R328); code 11 is reserved. -/
inductive PredMode where
  | always | ifNonzero | ifZero
  deriving DecidableEq, Repr, Inhabited

/-- Mismatch mode (R185); code 11 is reserved. -/
inductive MisMode where
  | trap | trunc | pad
  deriving DecidableEq, Repr, Inhabited

/-- Operand position of a slot. -/
inductive Pos where
  | a | b | c | p
  deriving DecidableEq, Repr, Inhabited

/-- A target field (R327). -/
inductive Target where
  | none
  | keep (k : BitVec 3)
  | exit (x : BitVec 3)
  | operand (pos : Pos) (slot : BitVec 7)
  | vc (v : BitVec 5)
  deriving DecidableEq, Repr, Inhabited

/-- The fields of a format-A word below MAJ and SUB (R326); format M is the same with T1 the completion edge. -/
structure OpA where
  ty : TyCode := .i32
  pred : PredMode := .always
  mm : MisMode := .trap
  t0 : Target := .none
  t1 : Target := .none
  ib : Bool := false
  md : BitVec 6 := 0
  imm : BitVec 16 := 0
  deriving DecidableEq, Repr, Inhabited

/-- The fields of a format-W word below MAJ and SUB (R331). -/
structure OpW where
  ty : TyCode := .i32
  pred : PredMode := .always
  mm : MisMode := .trap
  t0 : Target := .none
  imm : Word := 0
  deriving DecidableEq, Repr, Inhabited

/-- A command packet: its header word and its payload words w0, w1, ... (R83). -/
structure Packet where
  hdr : Word
  ws : List Word
  deriving DecidableEq, Repr, Inhabited

/-- What the outside decides at a boot (R112): whether the correction of the PUF's reading works (R28), the dies whose
repair record fails verification (R27), and the (strait, rail) whose lane training fails (R34). -/
structure BootIn where
  pufOk : Bool
  badRecords : List Nat
  badRails : List (Nat × Nat)
  deriving DecidableEq, Repr, Inhabited

/-- A KCP frame as received or sent on a port (R50); `vlans` counts its 802.1Q tags. -/
structure KcpFrame where
  port : Nat
  ethertype : Nat := 0x89D2
  vlans : Nat := 0
  ver : Nat
  typ : Nat
  sess : Nat
  seq : Nat
  len : Nat
  frag : Nat
  frags : Nat
  msgid : Nat
  payload : List Byte
  tag : List Byte
  deriving DecidableEq, Repr, Inhabited

/-- A PTP message that the time unit sends: its bytes, and whether it goes to the forwardable multicast address (R76). -/
structure PtpSend where
  forwardable : Bool
  body : List Byte
  deriving DecidableEq, Repr, Inhabited

/-- One U-plane section of a received fronthaul packet (R70-R72). -/
structure FhSection where
  sectionId : Nat
  rb : Nat
  symInc : Nat
  startPrbu : Nat
  numPrbu : Nat
  /-- per PRB: the exponent and the 24 mantissas (I, Q of 12 REs), as they stand on the wire -/
  prbs : List (Nat × List Nat)
  deriving DecidableEq, Repr, Inhabited

/-- A received fronthaul frame with its wire fields read out (R64-R67). -/
structure FhFrame where
  lp : Nat
  size : Nat
  ethertype : Nat
  subtype : Nat
  revision : Nat
  concat : Bool
  msgType : Nat
  eBit : Bool
  seqId : Nat
  eaxc : Nat
  direction : Nat
  frameId : Nat
  subframeId : Nat
  slotId : Nat
  symbolId : Nat
  sections : List FhSection
  /-- message type 5: action type, measurement ID, timestamp in seconds and nanoseconds, compensation in 2^-16 ns -/
  action : Nat
  measId : Nat
  secs : Nat
  nanos : Nat
  comp : Int
  /-- payload of a PTP or ESMC frame -/
  body : List Byte
  deriving DecidableEq, Repr, Inhabited

/-- What a reroute installs a path for (R9, R44): a leg of a circuit, or what two places of the package exchange (ring
positions 0 to 7, 8 the IOD; the lower first). -/
inductive Reroute where
  | leg (n : Nat)
  | dies (a b : Nat)
  deriving DecidableEq, Repr, Inhabited

/-- Result of the check-bit test of a read (R203, R288). -/
inductive Ecc where
  | ok | corrected | uncorrectable
  deriving DecidableEq, Repr, Inhabited

/-- A failure of a cell (R272, R276): the failing firing's slot and number, whether the shadow reported it, and the bits by
which an upset made the cell's and the shadow's outputs of the firing wrong. -/
structure ReplayIn where
  island : Nat
  slot : Nat
  unit : Nat
  firing : Nat
  fromShadow : Bool
  errCell : BitVec 256
  errShadow : BitVec 256
  deriving DecidableEq, Repr, Inhabited

/-- A second failure of a cell (R277, R281): the failing firing, or none for a repeated parity failure, whether the cell failed
again during its replay, the bank words found uncorrectable while they are copied (R285), whether the shadow reported it, and the
bits by which an upset made the cell's and the shadow's outputs of the firing wrong (R276). -/
structure MigrateIn where
  island : Nat
  slot : Nat
  unit : Option Nat
  firing : Nat
  again : Bool
  poisoned : List Nat
  fromShadow : Bool := false
  errCell : BitVec 256 := 0
  errShadow : BitVec 256 := 0
  deriving DecidableEq, Repr, Inhabited

/-- One constructor per row of the opcode table: the rows that are encoded (operators, queue bytecodes,
micro-operations, packets) first, then the unit events. -/
inductive Instr where
  /-- HCALL (R434): HCALL reads its argument block and queues a holm call, returning its status later. -/
  | hcall (w : OpA)
  /-- HRET (R434): HRET delivers a status to the open holm call with the named ticket. -/
  | hret (w : OpA)
  /-- ADD (R361): ADD forms A + B, wrapped or saturated. -/
  | add (w : OpA)
  /-- SUB (R361): SUB forms A − B. -/
  | sub (w : OpA)
  /-- ADDS (R362): ADDS adds unsigned and delivers the sum on T0 and the carry on T1. -/
  | adds (w : OpA)
  /-- NEG (R361): NEG forms −A. -/
  | neg (w : OpA)
  /-- ABS (R361): ABS forms |A|. -/
  | abs (w : OpA)
  /-- MIN (R361): MIN forms min(A, B). -/
  | minOp (w : OpA)
  /-- MAX (R361): MAX forms max(A, B). -/
  | maxOp (w : OpA)
  /-- MUL (R361): MUL forms A·B. -/
  | mul (w : OpA)
  /-- MULH (R361): MULH forms the high half of A·B. -/
  | mulh (w : OpA)
  /-- MULA (R361): MULA forms A·B + C. -/
  | mula (w : OpA)
  /-- DIV (R363): DIV divides truncating towards zero. -/
  | div (w : OpA)
  /-- REM (R363): REM gives the remainder of truncating division. -/
  | rem (w : OpA)
  /-- AND (R364): AND ands the patterns. -/
  | andOp (w : OpA)
  /-- OR (R364): OR ors the patterns. -/
  | orOp (w : OpA)
  /-- XOR (R364): XOR xors the patterns. -/
  | xorOp (w : OpA)
  /-- NOT (R364): NOT inverts the pattern. -/
  | notOp (w : OpA)
  /-- ANDN (R364): ANDN ands A with not B. -/
  | andn (w : OpA)
  /-- ORN (R364): ORN ors A with not B. -/
  | orn (w : OpA)
  /-- SHL (R365): SHL shifts left. -/
  | shl (w : OpA)
  /-- SHR (R365): SHR shifts right logically. -/
  | shr (w : OpA)
  /-- SAR (R365): SAR shifts right arithmetically. -/
  | sar (w : OpA)
  /-- ROL (R365): ROL rotates left. -/
  | rol (w : OpA)
  /-- ROR (R365): ROR rotates right. -/
  | ror (w : OpA)
  /-- BFX (R366): BFX extracts a bit field. -/
  | bfx (w : OpA)
  /-- BFI (R366): BFI inserts a bit field from c. -/
  | bfi (w : OpA)
  /-- BREV (R366): BREV reverses the low bits. -/
  | brev (w : OpA)
  /-- CLZ (R366): CLZ counts leading zeros. -/
  | clz (w : OpA)
  /-- CTZ (R366): CTZ counts trailing zeros. -/
  | ctz (w : OpA)
  /-- POPC (R366): POPC counts set bits. -/
  | popc (w : OpA)
  /-- BSWAP (R366): BSWAP reverses the bytes. -/
  | bswap (w : OpA)
  /-- CMPEQ (R367): CMPEQ delivers 1 if A = B. -/
  | cmpeq (w : OpA)
  /-- CMPNE (R367): CMPNE delivers 1 if A ≠ B. -/
  | cmpne (w : OpA)
  /-- CMPLT (R367): CMPLT delivers 1 if A < B. -/
  | cmplt (w : OpA)
  /-- CMPLE (R367): CMPLE delivers 1 if A ≤ B. -/
  | cmple (w : OpA)
  /-- CMPGT (R367): CMPGT delivers 1 if A > B. -/
  | cmpgt (w : OpA)
  /-- CMPGE (R367): CMPGE delivers 1 if A ≥ B. -/
  | cmpge (w : OpA)
  /-- SEL (R368): SEL picks lanes of a or b by c. -/
  | sel (w : OpA)
  /-- CLAMP (R368): CLAMP bounds A between B and C. -/
  | clamp (w : OpA)
  /-- MOVI (R369): MOVI delivers a 32-bit constant for each trigger. -/
  | movi (w : OpW)
  /-- ADDI (R369): ADDI adds a 32-bit immediate. -/
  | addi (w : OpW)
  /-- ANDI (R369): ANDI ands a 32-bit immediate. -/
  | andi (w : OpW)
  /-- ORI (R369): ORI ors a 32-bit immediate. -/
  | ori (w : OpW)
  /-- XORI (R369): XORI xors a 32-bit immediate. -/
  | xori (w : OpW)
  /-- CMPLTI (R369): CMPLTI compares A below a 32-bit immediate. -/
  | cmplti (w : OpW)
  /-- FAN (R370): FAN copies a to both targets. -/
  | fan (w : OpA)
  /-- STEER (R370): STEER routes a to T0 or T1 by b. -/
  | steer (w : OpA)
  /-- GATE (R370): GATE passes a only if b is nonzero. -/
  | gate (w : OpA)
  /-- MERGE (R371): MERGE takes a token from a or b as the decider c selects. -/
  | merge (w : OpA)
  /-- CARRY (R373): CARRY carries a loop value from its initial value and feedback. -/
  | carry (w : OpA)
  /-- INVAR (R374): INVAR presents a value for each token of a loop instance. -/
  | invar (w : OpA)
  /-- SORT2 (R370): SORT2 routes a by one key bit of c. -/
  | sort2 (w : OpA)
  /-- SINK (R372): SINK consumes tokens and emits CTL ticks. -/
  | sink (w : OpA)
  /-- CTR (R377): CTR emits indices 0 to trip − 1 and a stop on each loop entry. -/
  | ctr (w : OpA)
  /-- ITER (R376): ITER emits the iteration point once per frame entry. -/
  | iter (w : OpA)
  /-- PERMIT (R378): PERMIT passes a data token only by taking a permit. -/
  | permit (w : OpA)
  /-- STOPGEN (R379): STOPGEN replaces each data token by a stop. -/
  | stopgen (w : OpA)
  /-- CNTSTOP (R379): CNTSTOP closes each run of n data tokens with a stop. -/
  | cntstop (w : OpA)
  /-- STOPLVL (R379): STOPLVL shifts stop levels down or up. -/
  | stoplvl (w : OpA)
  /-- ACC (R381): ACC sums a group and delivers it at its stop. -/
  | acc (w : OpA)
  /-- ACCMIN (R381): ACCMIN keeps a group's minimum. -/
  | accmin (w : OpA)
  /-- ACCMAX (R381): ACCMAX keeps a group's maximum. -/
  | accmax (w : OpA)
  /-- ACCCNT (R381): ACCCNT counts a group's data tokens. -/
  | acccnt (w : OpA)
  /-- EXIT (R382): EXIT names its exit target under R190. -/
  | exitOp (w : OpA)
  /-- EXITSEL (R382): EXITSEL names exit xv, or the default. -/
  | exitsel (w : OpA)
  /-- FADD (R388): FADD adds and rounds once. -/
  | fadd (w : OpA)
  /-- FSUB (R388): FSUB subtracts and rounds once. -/
  | fsub (w : OpA)
  /-- FMUL (R388): FMUL multiplies and rounds once. -/
  | fmul (w : OpA)
  /-- FFMA (R388): FFMA forms A·B + C rounded once. -/
  | ffma (w : OpA)
  /-- FFMS (R388): FFMS forms A·B − C rounded once. -/
  | ffms (w : OpA)
  /-- FMIN (R389): FMIN gives the float minimum. -/
  | fmin (w : OpA)
  /-- FMAX (R389): FMAX gives the float maximum. -/
  | fmax (w : OpA)
  /-- FABS (R388): FABS clears the sign. -/
  | fabs (w : OpA)
  /-- FNEG (R388): FNEG flips the sign. -/
  | fneg (w : OpA)
  /-- FRCP (R388): FRCP gives the correctly rounded reciprocal. -/
  | frcp (w : OpA)
  /-- FRSQ (R388): FRSQ gives the correctly rounded reciprocal square root. -/
  | frsq (w : OpA)
  /-- FSQRT (R388): FSQRT gives the correctly rounded square root. -/
  | fsqrt (w : OpA)
  /-- FCMPEQ (R390): FCMPEQ compares for equality. -/
  | fcmpeq (w : OpA)
  /-- FCMPNE (R390): FCMPNE compares for inequality. -/
  | fcmpne (w : OpA)
  /-- FCMPLT (R390): FCMPLT compares less than. -/
  | fcmplt (w : OpA)
  /-- FCMPLE (R390): FCMPLE compares less or equal. -/
  | fcmple (w : OpA)
  /-- FCMPUN (R390): FCMPUN tests for a NaN operand. -/
  | fcmpun (w : OpA)
  /-- FCLASS (R390): FCLASS classifies a value or tests it against a mask. -/
  | fclass (w : OpA)
  /-- FCVT (R391): FCVT converts between float formats. -/
  | fcvt (w : OpA)
  /-- ICVT (R391): ICVT converts an integer to a float format. -/
  | icvt (w : OpA)
  /-- FTOI (R391): FTOI converts a float to an integer format. -/
  | ftoi (w : OpA)
  /-- FRND (R391): FRND rounds a float to an integral value. -/
  | frnd (w : OpA)
  /-- VADDMIN (R393): VADDMIN forms min(sat(A + B), C) per n16 lane. -/
  | vaddmin (w : OpA)
  /-- VMINIDX (R394): VMINIDX delivers a vector's minimum lane and its index. -/
  | vminidx (w : OpA)
  /-- VMAXIDX (R394): VMAXIDX delivers a vector's maximum lane and its index. -/
  | vmaxidx (w : OpA)
  /-- VLSH (R395): VLSH shifts lanes up with fill. -/
  | vlsh (w : OpA)
  /-- VLSR (R395): VLSR shifts lanes down with fill. -/
  | vlsr (w : OpA)
  /-- VPERM (R395): VPERM permutes lanes by indices in b. -/
  | vperm (w : OpA)
  /-- VBCAST (R395): VBCAST broadcasts a lane or scalar. -/
  | vbcast (w : OpA)
  /-- VEXTR (R395): VEXTR extracts a lane as a scalar. -/
  | vextr (w : OpA)
  /-- VINS (R395): VINS inserts a scalar into a lane. -/
  | vins (w : OpA)
  /-- VPACK (R396): VPACK narrows two vectors into one. -/
  | vpack (w : OpA)
  /-- VUNPK (R396): VUNPK widens a vector into two. -/
  | vunpk (w : OpA)
  /-- VRED (R397): VRED reduces lanes in a pairwise tree. -/
  | vred (w : OpA)
  /-- VSCAN (R397): VSCAN scans lanes upwards. -/
  | vscan (w : OpA)
  /-- VDOT4 (R398): VDOT4 adds four-lane dot products to an accumulator vector. -/
  | vdot4 (w : OpA)
  /-- CMUL (R399): CMUL multiplies complex values. -/
  | cmul (w : OpA)
  /-- CMAC (R399): CMAC multiplies complex values and adds c. -/
  | cmac (w : OpA)
  /-- CCONJ (R399): CCONJ conjugates. -/
  | cconj (w : OpA)
  /-- CMULJ (R399): CMULJ multiplies by the conjugate of b. -/
  | cmulj (w : OpA)
  /-- CMAG2 (R399): CMAG2 gives the squared magnitude. -/
  | cmag2 (w : OpA)
  /-- MAXABS (R400): MAXABS gives the largest part magnitude, per token or per group. -/
  | maxabs (w : OpA)
  /-- BFPENC (R401): BFPENC encodes twelve ci16 values as one cb16 unit. -/
  | bfpenc (w : OpA)
  /-- BFPDEC (R402): BFPDEC decodes a cb16 unit to ci16 lanes. -/
  | bfpdec (w : OpA)
  /-- PLANESPLIT (R404): PLANESPLIT turns i8 vectors and scales into an nb8 group stream. -/
  | planesplit (w : OpA)
  /-- PLANEJOIN (R405): PLANEJOIN turns an nb8 group stream into i8 vectors and scales. -/
  | planejoin (w : OpA)
  /-- ISECT (R407): ISECT intersects two coordinate fibres. -/
  | isect (w : OpA)
  /-- UNION (R407): UNION merges two coordinate fibres. -/
  | union (w : OpA)
  /-- LDC (R414): LDC loads from the cell bank. -/
  | ldc (w : OpA)
  /-- STC (R414): STC stores to the cell bank. -/
  | stc (w : OpA)
  /-- STCR (R414): STCR stores to another cell of the island and sets full. -/
  | stcr (w : OpA)
  /-- LDCF (R414): LDCF waits for a full cell word and reads it. -/
  | ldcf (w : OpA)
  /-- CLRE_CELL (R414): CLRE sets cell words empty. -/
  | clreCell (w : OpA)
  /-- LDS (R414): LDS loads from SBUF. -/
  | lds (w : OpA)
  /-- STS (R414): STS stores to SBUF. -/
  | sts (w : OpA)
  /-- LDSF (R414): LDSF waits for a full SBUF word and reads it. -/
  | ldsf (w : OpA)
  /-- CLRE_SBUF (R414): CLRE sets SBUF words empty. -/
  | clreSbuf (w : OpA)
  /-- LDG (R414): LDG loads from GLOB through translation. -/
  | ldg (w : OpA)
  /-- STG (R414): STG stores to GLOB through translation. -/
  | stg (w : OpA)
  /-- SYRD (R414): SYRD reads a SYS register at level S or H. -/
  | syrd (w : OpA)
  /-- SYWR (R414): SYWR writes a SYS register at level S or H. -/
  | sywr (w : OpA)
  /-- STREAM (R416): STREAM gathers twelve words and sends them to an address generator's specification port. -/
  | stream (w : OpA)
  /-- COPY (R416): COPY gathers eight words and sends a copy request to a copy engine. -/
  | copy (w : OpA)
  /-- CTRADD (R418): CTRADD adds to a completion counter, with release if .rel. -/
  | ctradd (w : OpA)
  /-- WAITGE (R419): WAITGE waits until a counter reaches its target or is poisoned, with acquire order. -/
  | waitge (w : OpA)
  /-- CTRRD (R418): CTRRD reads a 64-bit counter. -/
  | ctrrd (w : OpA)
  /-- QPUSH (R420): QPUSH gathers and pushes one entry into a spill queue. -/
  | qpush (w : OpA)
  /-- QPOP (R420): QPOP emits the next word of the oldest spill-queue entry. -/
  | qpop (w : OpA)
  /-- QCOUNT (R420): QCOUNT delivers a spill queue's entry count. -/
  | qcount (w : OpA)
  /-- OWN (R421): OWN makes the cell owner of a word range in its window. -/
  | own (w : OpA)
  /-- ATADD (R422): ATADD sends an atomic add to an owner. -/
  | atadd (w : OpA)
  /-- ATMIN (R422): ATMIN sends an atomic minimum. -/
  | atmin (w : OpA)
  /-- ATMAX (R422): ATMAX sends an atomic maximum. -/
  | atmax (w : OpA)
  /-- ATAND (R422): ATAND sends an atomic and. -/
  | atand (w : OpA)
  /-- ATOR (R422): ATOR sends an atomic or. -/
  | ator (w : OpA)
  /-- ATXOR (R422): ATXOR sends an atomic xor. -/
  | atxor (w : OpA)
  /-- ATXCHG (R422): ATXCHG sends an atomic exchange. -/
  | atxchg (w : OpA)
  /-- ATCAS (R422): ATCAS sends an atomic compare-and-swap. -/
  | atcas (w : OpA)
  /-- ATFADD (R422): ATFADD sends a float add, rounded or exact with .e. -/
  | atfadd (w : OpA)
  /-- ATFRD (R422): ATFRD reads an exact accumulator, optionally clearing it. -/
  | atfrd (w : OpA)
  /-- JOIN (R424): JOIN fires when every arc holds a token and emits them in arc order. -/
  | join (w : OpA)
  /-- GJOIN (R163): GJOIN adds the thread to a group. -/
  | gjoin (w : OpA)
  /-- GLEAVE (R163): GLEAVE removes the thread from a group. -/
  | gleave (w : OpA)
  /-- GARRIVE (R163): GARRIVE counts the thread's arrival and may complete the phase. -/
  | garrive (w : OpA)
  /-- GDROP (R163): GDROP arrives and leaves from the next phase. -/
  | gdrop (w : OpA)
  /-- GWAIT (R163): GWAIT waits for a phase beyond the thread's seen value. -/
  | gwait (w : OpA)
  /-- FENCE_I (R426): FENCE.I waits for covered accesses at island scope. -/
  | fenceI (w : OpA)
  /-- FENCE_D (R426): FENCE.D waits for covered accesses at die scope. -/
  | fenceD (w : OpA)
  /-- FENCE_P (R426): FENCE.P waits for covered accesses at package scope. -/
  | fenceP (w : OpA)
  /-- FENCE_S (R427): FENCE.S waits for covered accesses at system scope with host reads. -/
  | fenceS (w : OpA)
  /-- TIME (R428): TIME reads device time under the monotonic rule of R48. -/
  | time (w : OpA)
  /-- SLOTRD (R429): SLOTRD samples a slot clock's slot and symbol. -/
  | slotrd (w : OpA)
  /-- TRAP (R430): TRAP raises the resumable fault FLT_TRAP with a code. -/
  | trap (w : OpA)
  /-- TCPYIN (R431): TCPYIN copies bank rows into a tile. -/
  | tcpyin (w : OpA)
  /-- TCPYOUT (R431): TCPYOUT copies tile rows to the bank and sets them full. -/
  | tcpyout (w : OpA)
  /-- XLATE (R433): XLATE walks a space's tables and reports the result without faulting. -/
  | xlate (w : OpA)
  /-- RDLVL (R432): RDLVL delivers the privilege level. -/
  | rdlvl (w : OpA)
  /-- QP_PASS (R96): Queue program PASS ends the program and the packet goes on to its checks. -/
  | qpPass (a : BitVec 4) (i : BitVec 7)
  /-- QP_SKIP (R96): Queue program SKIP ends the program and discards the packet. -/
  | qpSkip (a : BitVec 4) (i : BitVec 7)
  /-- QP_FAIL (R96): Queue program FAIL raises QE_PROGFAIL with its immediate. -/
  | qpFail (a : BitVec 4) (i : BitVec 7)
  /-- QP_LDI (R96): LDI loads a sign-extended immediate into bA. -/
  | qpLdi (a : BitVec 4) (i : BitVec 7)
  /-- QP_MOV (R96): MOV copies bB to bA. -/
  | qpMov (a b : BitVec 4)
  /-- QP_ADD (R96): ADD adds bB to bA modulo 2^32. -/
  | qpAdd (a b : BitVec 4)
  /-- QP_SUB (R96): SUB subtracts bB from bA. -/
  | qpSub (a b : BitVec 4)
  /-- QP_AND (R96): AND ands bB into bA. -/
  | qpAnd (a b : BitVec 4)
  /-- QP_OR (R96): OR ors bB into bA. -/
  | qpOr (a b : BitVec 4)
  /-- QP_XOR (R96): XOR xors bB into bA. -/
  | qpXor (a b : BitVec 4)
  /-- QP_SHL (R96): SHL shifts bA left by bB[4:0]. -/
  | qpShl (a b : BitVec 4)
  /-- QP_SHR (R96): SHR shifts bA right logically by bB[4:0]. -/
  | qpShr (a b : BitVec 4)
  /-- QP_ADDI (R96): ADDI adds a sign-extended immediate to bA. -/
  | qpAddi (a : BitVec 4) (i : BitVec 7)
  /-- QP_ANDI (R96): ANDI ands an immediate into bA. -/
  | qpAndi (a : BitVec 4) (i : BitVec 7)
  /-- QP_ORI (R96): ORI ors an immediate into bA. -/
  | qpOri (a : BitVec 4) (i : BitVec 7)
  /-- QP_SHLI (R96): SHLI shifts bA left by an immediate. -/
  | qpShli (a : BitVec 4) (i : BitVec 5)
  /-- QP_SHRI (R96): SHRI shifts bA right logically by an immediate. -/
  | qpShri (a : BitVec 4) (i : BitVec 5)
  /-- QP_LDP (R96): LDP loads packet word bB into bA. -/
  | qpLdp (a b : BitVec 4)
  /-- QP_STP (R96): STP stores bA into packet word bB. -/
  | qpStp (a b : BitVec 4)
  /-- QP_LDPI (R96): LDPI loads packet word imm into bA. -/
  | qpLdpi (a : BitVec 4) (i : BitVec 7)
  /-- QP_STPI (R96): STPI stores bA into packet word imm. -/
  | qpStpi (a : BitVec 4) (i : BitVec 7)
  /-- QP_LDQ (R96): LDQ loads state word bB into bA. -/
  | qpLdq (a b : BitVec 4)
  /-- QP_STQ (R96): STQ stores bA into state word bB. -/
  | qpStq (a b : BitVec 4)
  /-- QP_LDQI (R96): LDQI loads state word imm into bA. -/
  | qpLdqi (a : BitVec 4) (i : BitVec 6)
  /-- QP_STQI (R96): STQI stores bA into state word imm. -/
  | qpStqi (a : BitVec 4) (i : BitVec 6)
  /-- QP_TEQ (R96): TEQ sets F if bA equals bB. -/
  | qpTeq (a b : BitVec 4)
  /-- QP_TLTU (R96): TLTU sets F if bA is below bB unsigned. -/
  | qpTltu (a b : BitVec 4)
  /-- QP_TEQI (R96): TEQI sets F if bA equals an immediate. -/
  | qpTeqi (a : BitVec 4) (i : BitVec 7)
  /-- QP_BRT (R96): BRT branches forward if F = 1. -/
  | qpBrt (i : BitVec 7)
  /-- QP_BRF (R96): BRF branches forward if F = 0. -/
  | qpBrf (i : BitVec 7)
  /-- QP_JMP (R96): JMP branches forward unconditionally. -/
  | qpJmp (i : BitVec 7)
  /-- QP_LOOPN (R96): LOOPN runs the next A + 1 bytecodes n times, counting passes in b15. -/
  | qpLoopn (a : BitVec 4) (n : BitVec 7)
  /-- MNOP (R441): MNOP does nothing. -/
  | mnop
  /-- MLDW (R448): MLDW loads the shadow weight set, optionally from a port. -/
  | mldw (ta : BitVec 4) (src : Bool) (port : BitVec 2) (row : BitVec 6) (wk pl : BitVec 3) (mid : Bool)
  /-- MSWAP (R450): MSWAP exchanges active and shadow weight sets. -/
  | mswap
  /-- MMUL (R452): MMUL multiplies activation rows by the active weights into a tile. -/
  | mmul (ta td : BitVec 4) (row nr : BitVec 6) (z alt : Bool)
  /-- MACC (R452): MACC multiplies and accumulates into a tile. -/
  | macc (ta td : BitVec 4) (row nr : BitVec 6) (z alt : Bool)
  /-- MZERO (R455): MZERO zeroes tile rows. -/
  | mzero (td : BitVec 4) (row nr : BitVec 6)
  /-- MOUT (R454): MOUT sends tile rows to a port or writes them to a quad cell's bank. -/
  | mout (ta : BitVec 4) (dst : Bool) (pq : BitVec 2) (pidx : BitVec 3) (fmt : BitVec 5) (row : BitVec 6) (nr : BitVec 5)
  /-- MCVT (R453): MCVT requantises rows into a destination format. -/
  | mcvt (ta td : BitVec 4) (row : BitVec 6) (nr : BitVec 5) (sk : Bool) (df rm : BitVec 3)
  /-- MTRANS (R455): MTRANS transposes a word or half block. -/
  | mtrans (ta td : BitVec 4) (row drow : BitVec 6) (es : Bool)
  /-- MCOPY (R455): MCOPY copies tile rows. -/
  | mcopy (ta td : BitVec 4) (row nr drow : BitVec 6)
  /-- MFILL (R455): MFILL fills tile rows with a parameter word. -/
  | mfill (td : BitVec 4) (row nr : BitVec 6) (pidx : BitVec 3)
  /-- MADD (R456): MADD adds two tiles word by word. -/
  | madd (ta tb td : BitVec 4) (row nr : BitVec 6) (kd : BitVec 2)
  /-- MLDA (R454): MLDA writes beats from a port into tile rows. -/
  | mlda (td : BitVec 4) (port : BitVec 2) (row nr : BitVec 6)
  /-- MMASK (R451): MMASK sets the active column and k counts. -/
  | mmask (nact : BitVec 5) (kact : BitVec 7)
  /-- MACT (R456): MACT applies RELU or CLIP to tile rows. -/
  | mact (ta td : BitVec 4) (row nr : BitVec 6) (fn : BitVec 3) (ki : Bool)
  /-- MBFLY (R462): MBFLY runs one butterfly stage in place on a chain. -/
  | mbfly (ta : BitVec 4) (nt rad : BitVec 2) (sc : BitVec 3) (inv : Bool) (pidx : BitVec 3)
  /-- MBREV (R461): MBREV digit-reverses a chain into another. -/
  | mbrev (ta td : BitVec 4) (nt : BitVec 2) (pidx : BitVec 3)
  /-- MTWID (R460): MTWID writes twiddle factors to a chain. -/
  | mtwid (td : BitVec 4) (nt : BitVec 2) (inv : Bool) (pidx : BitVec 3)
  /-- MSCALE (R465): MSCALE shifts complex rows and adjusts the block exponent. -/
  | mscale (ta : BitVec 4) (row nr : BitVec 6) (sh : BitVec 4)
  /-- MBEXP_SET (R465): MBEXP.set sets a tile's block exponent. -/
  | mbexpSet (ta : BitVec 4) (v : BitVec 8)
  /-- MBEXP_OUT (R465): MBEXP.out sends a tile's block exponent and saturation flag. -/
  | mbexpOut (ta : BitVec 4) (oport : BitVec 2)
  /-- MSATCLR (R465): MSATCLR clears a tile's saturation flag. -/
  | msatclr (ta : BitVec 4)
  /-- MCMUL (R456): MCMUL multiplies complex tiles point by point. -/
  | mcmul (ta tb td : BitVec 4) (row nr : BitVec 6) (cj : Bool)
  /-- MCONJ (R456): MCONJ conjugates complex tile rows. -/
  | mconj (ta td : BitVec 4) (row nr : BitVec 6)
  /-- SPACC (R458): SPACC accumulates coordinate-value pairs into a sparse tile. -/
  | spacc (td : BitVec 4) (pc pv : BitVec 2) (l : BitVec 3)
  /-- SPZERO (R459): SPZERO clears a sparse tile's occupancy. -/
  | spzero (td : BitVec 4)
  /-- SPOUT (R459): SPOUT sends a sparse tile's occupied columns. -/
  | spout (ta : BitVec 4) (oc ov : BitVec 2) (l : BitVec 3) (clr : Bool)
  /-- SPMERGE (R459): SPMERGE merges one sparse tile into another. -/
  | spmerge (ta td : BitVec 4)
  /-- MSIG (R466): MSIG sends a CTL token after earlier bank writes, or forwards a stop. -/
  | msig (oport : BitVec 2) (k : Bool) (iport : BitVec 2)
  /-- NOP (R90): A NOP packet is issued and completes at once. -/
  | nopPacket (p : Packet)
  /-- LAUNCH (R90): A LAUNCH packet resolves its deadline and creates a thread descriptor, or waits for a free descriptor. -/
  | launch (p : Packet)
  /-- PRELOAD (R152): A PRELOAD packet loads and arms an entry frame's contexts at a chosen origin, evicting or waiting as needed. -/
  | preload (p : Packet)
  /-- COPY_PACKET (R215): A COPY packet submits a copy request to a copy engine for the queue's partition. -/
  | copyPacket (p : Packet)
  /-- SIGNAL (R90): A SIGNAL packet adds a value to a counter with release order and may raise an MSI-X vector. -/
  | signal (p : Packet)
  /-- WAITGE_PACKET (R90): A WAITGE packet completes when its counter reaches the target, or faults the queue on poison. -/
  | waitgePacket (p : Packet)
  /-- CALL (R93): A CALL packet pushes the return position and continues parsing an indirect buffer. -/
  | callPacket (p : Packet)
  /-- RETURN (R93): A RETURN packet returns to the caller, or raises QE_DEPTH at depth 0. -/
  | returnPacket (p : Packet)
  /-- LEND (R157): A LEND packet lends partition-0 islands to a tenant partition and completes when slots 4–7 are clear. -/
  | lend (p : Packet)
  /-- RECLAIM (R158): A RECLAIM packet takes back lent islands, parks the borrowers and activates HELD baseband threads. -/
  | reclaim (p : Packet)
  /-- STEER_PACKET (R90): A STEER packet performs a steering-table write under R69, or raises QE_STEER. -/
  | steerPacket (p : Packet)
  /-- FENCE (R90): A FENCE packet completes when the stores of earlier completed packets are visible at its scope. -/
  | fencePacket (p : Packet)
  /-- WAITTIME (R91): A WAITTIME packet completes when device time reaches its value or a resolved symbol boundary. -/
  | waittime (p : Packet)
  /-- MARK (R90): A MARK packet sets QMARK and posts EV_MARK at issue. -/
  | mark (p : Packet)
  /-- PACKAGE_RESET (R21): A VAUX power-on, a PKGRST write or a thermal trip resets the whole package and starts the boot sequence. -/
  | packageReset (b : BootIn)
  /-- PKGRST_GO (R24): The holm writes PKGRST.GO = 1 and begins a package reset. -/
  | pkgrstGo (v : Word) (b : BootIn)
  /-- DIERST_GO (R24): The holm writes DIERST.GO and a core reset of the named fabric die is queued or started. -/
  | dierstGo (v : Word)
  /-- DIE_RESET_DONE (R22): A fabric-die core reset ends after 200 µs, INRESET clears, and any queued die reset begins. -/
  | dieResetDone (die : Nat)
  /-- AVS_CHECK (R16): Every 10 µs a die checks its timing margin and requests a VDDC step or posts PWR_MARGIN. -/
  | avsCheck (die : Nat) (margin : Int)
  /-- POWER_SAMPLE (R18): Every 10 µs the IOD measures module power and limits matrix issue by class if the 100 µs average exceeds CAPW. -/
  | powerSample (watts : Nat)
  /-- PWR_OVERCAP (R18): After 1 ms above CAPW with every limitable island at its floor, the device posts PWR_OVERCAP. -/
  | pwrOvercap
  /-- POWER_LIMIT_LIFT (R18): Every 100 µs while power is more than 5 % below CAPW one limiting step is lifted. -/
  | powerLimitLift
  /-- PWRCAP_WRITE (R17): A write to PWRCAP stores CAPW clamped to 300–600 W. -/
  | pwrcapWrite (l : Level) (v : Word)
  /-- THERM_SAMPLE (R20): Every 1 ms each die reports its hottest junction temperature and the device warns at 100 °C or trips at 110 °C. -/
  | thermSample (die temp : Nat)
  /-- STRIPE_SEND (R32): A leg sender packs waiting records of a circuit into a stripe and sends it when the stripe is full or the rail has a free slot. -/
  | stripeSend (leg : Nat)
  /-- STRIPE_RECEIVE (R33): A hop checks the five CRCs of an arriving stripe, rebuilds, uses, transits or discards it, and accepts data stripes by sequence. -/
  | stripeReceive (hop : Nat) (err : List (Nat × Nat × BitVec 8))
  /-- ACK_RECEIVE (R40): A leg sender receives an acknowledgement, frees the stripes it covers and resends later stripes if RSND = 1. -/
  | ackReceive (leg : Nat)
  /-- ACK_TIMER (R39): 2 µs after the last acceptance with unacknowledged stripes, the receiver sends a cumulative acknowledgement. -/
  | ackTimer (leg : Nat)
  /-- RAIL_RETRAIN (R34): Every 10 ms a failed rail is retrained and on success returns to service with LINK_RESTORED. -/
  | railRetrain (fin rail : Nat) (ok : Bool)
  /-- TIME_PROBE (R47): At training and every 1 ms each strait end sends a time probe to measure the strait's delay. -/
  | timeProbe (fin : Nat)
  /-- TIME_REPLY (R47): A received time reply gives a new half-round-trip value H for the strait. -/
  | timeReply (fin : Nat) (trip turn : Nat)
  /-- REROUTE_INSTALL (R44): Service firmware installs a new path for a leg round the other side of the ring and the sender resends from its last acknowledged stripe. -/
  | rerouteInstall (what : Reroute) (path : List Nat)
  /-- LINK_SEVERED_TIMEOUT (R45): A leg with no path, or no path installed 1 ms after LINK_DOWN, stops its thread with FLT_LINK_SEVERED and a completion map. -/
  | linkSeveredTimeout (leg : Nat)
  /-- STQREL_LOOKUP (R42): STQREL with OP = 0 finds a thread's strait queue and fills STQRES and STQPOS. -/
  | stqrelLookup (l : Level) (v : Word)
  /-- STQREL_RELEASE (R42): STQREL with OP = 1 frees one kept queue, or all of a stopped thread's queues, and discards their contents. -/
  | stqrelRelease (l : Level) (v : Word)
  /-- CMD_LINK_CHANGE (R49): A command-link port goes up or down. -/
  | cmdLinkChange (port : Nat) (up : Bool)
  /-- NOTE_PORT_SWITCH (R49): Event notices move to CP1 after CP0 has been down 10 ms, and back after CP0 has been up 1 s. -/
  | notePortSwitch
  /-- KCP_FRAME_RECEIVE (R51): A KCP frame is received, its TAG and sequence are checked and it joins its message's reassembly. -/
  | kcpFrameReceive (f : KcpFrame)
  /-- KCP_REASSEMBLY_TIMEOUT (R50): A message whose fragments are not all received within 100 ms is discarded. -/
  | kcpReassemblyTimeout (sess msgid : Nat)
  /-- HELLO (R54): A HELLO opens a session: the device encapsulates to the host key and answers ACCEPT, or NAK. -/
  | hello
  /-- CONFIRM (R54): A CONFIRM is checked under the session key and the session opens with CONFIRMED, or is freed with NAK. -/
  | confirm
  /-- CLOSE (R55): A CLOSE from either side closes the session. -/
  | close (dev : Option Nat)
  /-- SESSION_OPEN_TIMEOUT (R54): A session not open 1 s after HELLO is freed. -/
  | sessionOpenTimeout (sess : Nat)
  /-- SESSION_TIMEOUT (R55): A session closes after 60 s without an accepted host frame or after 24 h. -/
  | sessionTimeout (sess : Nat)
  /-- KICK (R81): A KCP KICK is applied to its queue: ignored as stale, refused with QE_KICKOVER, or accepted to set QPI. -/
  | kick
  /-- REGRD (R52): A REGRD reads a SYS register of a named die and answers REGDATA or NAK. -/
  | regrd
  /-- REGWR (R52): A REGWR writes a SYS register of a named die and answers REGDATA with the value read back, or NAK. -/
  | regwr
  /-- STAGE (R117): A STAGE stores image bytes in the staging area and optionally clears, verifies and persists, then answers STAGEACK. -/
  | stage
  /-- ATTREQ (R119): An ATTREQ is answered by a signed ATTREP with the measurement registers and log entries. -/
  | attreq
  /-- DOORBELL_WRITE (R59): A 4-byte BAR0 doorbell write kicks its queue under R81, or is ignored and raises BADDB. -/
  | doorbellWrite (fn off size : Nat) (v : Word)
  /-- PCIE_LINK_CHANGE (R60): The PCIe link trains or goes down. -/
  | pcieLinkChange (up : Bool) (rate width : Nat)
  /-- VF_FLR (R62): A function-level reset of a VF stops its doorbells and fetches and masks its vectors. -/
  | vfFlr (vf : Nat)
  /-- PF_FLR (R63): A function-level reset of the PF stops its doorbells and fetches, sets PFFLR and resets every VF. -/
  | pfFlr
  /-- FLR_DONE (R63): A function-level reset completes within 100 ms, PFFLR clears and the PF is rebound to partition 0. -/
  | flrDone (fn : Nat)
  /-- HOST_REQUEST_TIMEOUT (R61): A host request with no completion after 50 ms faults with FLT_HOST_ABORT. -/
  | hostRequestTimeout (acc : Nat)
  /-- FH_FRAME_RECEIVE (R64): A fronthaul frame is received and dispatched by EtherType to steering, the time unit or the frequency unit, or dropped. -/
  | fhFrameReceive (f : FhFrame)
  /-- FHDLYREQ_GO (R75): A write of FHDLYREQ.GO sends a type-5 delay request on the named logical port. -/
  | fhdlyreqGo (l : Level) (v : Word)
  /-- DOWNLINK_SEND (R74): When a downlink entry's next record is full and device time reaches its launch time, the record is sent, or dropped, and its units set empty. -/
  | downlinkSend (entry : Nat)
  /-- FHSTCMD_WRITE (R69): FHSTCMD OP 0 writes a steering entry from FHSTW0–7, or refuses it with ERR. -/
  | fhstcmdWrite (l : Level) (v : Word)
  /-- FHSTCMD_READ (R69): FHSTCMD OP 1 reads an entry into FHSTW0–7, HITS and FHSTPOS. -/
  | fhstcmdRead (l : Level) (v : Word)
  /-- FHSTCMD_INVALIDATE (R69): FHSTCMD OP 2 invalidates a steering entry between packets. -/
  | fhstcmdInvalidate (l : Level) (v : Word)
  /-- FHLPCFG_WRITE (R75): A write to FHLPCFG is refused if it would make a second slave port or a second SyncE source. -/
  | fhlpcfgWrite (l : Level) (lp : Nat) (v : Word)
  /-- PTP_MESSAGE (R76): A PTP message is received and timestamped for the time unit. -/
  | ptpMessage (lp : Nat) (m : List Byte)
  /-- ESMC_MESSAGE (R76): An ESMC message is received and its quality level taken by the frequency unit. -/
  | esmcMessage (lp ql : Nat)
  /-- TIME_LOCK (R46): The time unit locks: at the first lock device time steps forward or starts to slew, and TIME_LOCKED follows when the offset is removed. -/
  | timeLock (ptp : Nat)
  /-- TIME_HOLDOVER (R77): Loss of the PTP master or SyncE reference puts device time in holdover and posts TIME_HOLDOVER. -/
  | timeHoldover (cause : Nat)
  /-- TIME_SLEW_END (R77): A slew removes the last of the offset and TIME_LOCKED is posted. -/
  | timeSlewEnd
  /-- QUEUE_ENABLE (R79): A QCFG write setting EN from 0 to 1 stores the configuration and enables the queue, or is refused with CFGERR. -/
  | queueEnable (l : Level) (q : Nat) (v : Word)
  /-- QUEUE_DISABLE (R79): A QCFG write clearing EN puts the queue in DISABLED at once and abandons parsing. -/
  | queueDisable (l : Level) (q : Nat) (v : Word)
  /-- QCTL_RETRY (R85): QCTL OP 1 retries a faulted queue's faulting packet from step 1. -/
  | qctlRetry (l : Level) (q : Nat) (v : Word)
  /-- QCTL_SKIP (R85): QCTL OP 2 skips a faulted queue's faulting packet. -/
  | qctlSkip (l : Level) (q : Nat) (v : Word)
  /-- QCTL_RESET (R85): QCTL OP 3, or any GO on a disabled queue, sets depth 0 and QCI to QPI. -/
  | qctlReset (l : Level) (q : Nat) (v : Word)
  /-- QPWIN_WRITE (R99): A QPWIN write stores two bytecodes at QPCTL.INDEX and adds 2 to INDEX. -/
  | qpwinWrite (l : Level) (q : Nat) (v : Word)
  /-- QPCTL_LOAD (R99): A QPCTL write with LOAD = 1 verifies the program and sets PLEN and clears the state window, or records VERR. -/
  | qpctlLoad (l : Level) (q : Nat) (v : Word)
  /-- PACKET_PARSE (R84): On its turn a queue reads a packet header and payload, runs the queue program, checks the packet, and issues it or waits. -/
  | packetParse (q : Nat)
  /-- WAITGE_PACKET_TIMEOUT (R89): A WAITGE packet's timeout passes and QE_TIMEOUT faults the queue. -/
  | waitgePacketTimeout (q : Nat)
  /-- EVENT_RING_ENABLE (R102): Enabling an event ring stores its configuration and receives any held device-event overflow. -/
  | eventRingEnable (l : Level) (e : Nat) (v : Word)
  /-- EVENT_RECORD_WRITE (R104): The device writes an event record, updates control word 1 and raises the vector, or holds the event when the ring is full. -/
  | eventRecordWrite (e : Nat)
  /-- EVENT_RING_RETRY (R106): Every 1 µs while a ring is full or unreachable the device re-reads RD and writes held events as space appears. -/
  | eventRingRetry (e : Nat)
  /-- FWCTL_START (R125): FWCTL OP 1 starts a live replacement: the new image is copied, mapped and started on SI3. -/
  | fwctlStart (w : Writer) (v : Word)
  /-- FWCTL_ABORT (R125): FWCTL OP 2 aborts a replacement and discards the new image. -/
  | fwctlAbort (w : Writer) (v : Word)
  /-- FWCTL_READY (R125): FWCTL OP 3 from the new image enters SERIALISING. -/
  | fwctlReady (w : Writer) (v : Word)
  /-- FWCTL_SERIALISED (R126): FWCTL OP 4 from the old image checks the full records and moves towards HANDOVER, or aborts. -/
  | fwctlSerialised (w : Writer) (v : Word)
  /-- FWCTL_DELTA_DONE (R126): FWCTL OP 5 from the old image checks the delta records. -/
  | fwctlDeltaDone (w : Writer) (v : Word)
  /-- FWCTL_TAKEN_OVER (R125): FWCTL OP 6 from the new image switches SI0–SI2 to the new bank and enters PROBATION. -/
  | fwctlTakenOver (w : Writer) (v : Word)
  /-- FWCTL_REPLAYED (R125): FWCTL OP 7 from the old image ends FALLBACK and resumes intake in STEADY. -/
  | fwctlReplayed (w : Writer) (v : Word)
  /-- HANDOVER_BEGIN (R125): HANDOVER begins at once or at the next slot boundary and intake pauses. -/
  | handoverBegin
  /-- START_TIMEOUT (R125): STARTING lasting 100 ms aborts the replacement. -/
  | startTimeout
  /-- SERIAL_TIMEOUT (R125): SERIALISING lasting 50 ms aborts the replacement. -/
  | serialTimeout
  /-- HANDOVER_TIMEOUT (R125): HANDOVER lasting 40 µs aborts the replacement. -/
  | handoverTimeout
  /-- FALLBACK_TIMEOUT (R125): FALLBACK lasting 5 ms enters SAFE. -/
  | fallbackTimeout
  /-- FWHB_WRITE (R128): A write to FWHB from the active image counts as a heartbeat if it is the next value. -/
  | fwhbWrite (w : Writer) (v : Word)
  /-- HEARTBEAT_MISS (R128): A missed heartbeat falls back in PROBATION, or after commit posts FW_HANG and restarts the flash image. -/
  | heartbeatMiss
  /-- COMMIT (R131): One second of PROBATION without a missed heartbeat commits the new image. -/
  | commit
  /-- HCQPOP (R434): The holm writes HCQPOP to take the oldest pending call, which stays open until HRET. -/
  | hcqpop (l : Level) (v : Word)
  /-- ALLOT (R435): The ALLOT holm call allots a physical range to a space, or refuses it. -/
  | allot (ticket : Nat)
  /-- RELEASE (R435): The RELEASE holm call releases an allotted range. -/
  | release (ticket : Nat)
  /-- PTMAP (R435): The PTMAP holm call maps a page in a space's table tree. -/
  | ptmap (ticket : Nat)
  /-- PTUNMAP (R435): The PTUNMAP holm call clears a leaf and invalidates the TLBs. -/
  | ptunmap (ticket : Nat)
  /-- PTEN (R435): The PTEN holm call enables or disables a space's table tree. -/
  | pten (ticket : Nat)
  /-- SBWIN (R435): The SBWIN holm call sets a partition's SBUF window. -/
  | sbwin (ticket : Nat)
  /-- ISLOWN (R435): The ISLOWN holm call changes an island's owner partition. -/
  | islown (ticket : Nat)
  /-- PARTEN (R435): The PARTEN holm call enables or disables a partition. -/
  | parten (ticket : Nat)
  /-- KEYLOAD (R435): The KEYLOAD holm call loads an operator key slot. -/
  | keyload (ticket : Nat)
  /-- KEYCLR (R435): The KEYCLR holm call clears an operator key slot. -/
  | keyclr (ticket : Nat)
  /-- SLOT_CLOCK_ENABLE (R143): A write setting SCCFG.EN starts a slot clock, or is refused with ERR. -/
  | slotClockEnable (l : Level) (c : Nat) (v : Word)
  /-- SCHEDULER_SELECT (R147): Every 32 cycles the scheduler places the first waiting thread that has a placement, pre-empting lower classes if needed. -/
  | schedulerSelect
  /-- CONTEXT_LOAD_DONE (R153): The context loader finishes loading and checking a frame's contexts, arming or poisoning them. -/
  | contextLoadDone (load : Nat)
  /-- CONTEXT_SAVE (R266): Once a thread's outstanding operations complete, its image is written to the save area and its slots freed. -/
  | contextSave (thread : Nat)
  /-- LOAD_WAIT_TIMEOUT (R177): A load waiting 10 µs on tokens of a PREEMPTED or PARKED thread causes that thread to be saved. -/
  | loadWaitTimeout (load : Nat)
  /-- DEADLINE_PASS (R148): Device time passes a thread's deadline: MISSED is set, SCHED_DEADLINE_MISS posted and a pending firm thread lapses. -/
  | deadlinePass (thread : Nat)
  /-- ARBITER_WINDOW (R182): Every 256 cycles from activation the arbiter recomputes each slot's weight from buffer occupancy. -/
  | arbiterWindow (isl cell : Nat)
  /-- TOKEN_ACCEPT (R176): A buffer accepts an arriving token under the reservation rule after checking its parity. -/
  | tokenAccept (n : Nat) (fails : Nat)
  /-- FRAME_COMMIT (R192): A frame whose exit is resolved and that is quiescent commits: predictor, iteration point, successor and discards. -/
  | frameCommit (thread : Nat)
  /-- ESCAPE_VISIT (R197): The recovery token visits a switchbox and may grant a blocked item passage to an escape latch. -/
  | escapeVisit (die : Nat)
  /-- CTR_BOUND_ARRIVAL (R377): A token reaching CTR's bound input is taken off at once as the pending bound. -/
  | ctrBoundArrival (isl slot unit : Nat)
  /-- PERMIT_RETURN (R378): A permit token reaching PERMIT's b is taken off and raises the count, or faults FLT_PERMIT_EXCESS. -/
  | permitReturn (isl slot unit : Nat)
  /-- OWNER_UPDATE_APPLY (R423): An update group at an owner cell is applied when the bank accepts it and may return a reply. -/
  | ownerUpdateApply (isl slot cell vc : Nat)
  /-- SPILL_REFILL (R221): While active, a spill queue moves its oldest ring entry to the resident store every 4 cycles. -/
  | spillRefill (isl slot idx : Nat)
  /-- STREAM_ELEMENT (R206): An address generator moves the next element of its stream in walk order, or faults. -/
  | streamElement (die ag : Nat)
  /-- COPY_UNIT (R216): A copy engine moves a 64-byte unit and, after the last, updates the completion counter. -/
  | copyUnit (die ce : Nat)
  /-- COPY_RESUME (R216): A set-aside copy resumes when its stream endpoint's context becomes active. -/
  | copyResume (die ce : Nat)
  /-- ACCESS_COMPLETE (R231): A memory access is performed or returns and its data and completion token enter their reserved entries. -/
  | accessComplete (id : Nat) (ecc : Ecc)
  /-- FULL_EMPTY_WAKE (R202): A waiting LDCF, LDSF, SYNC read or WAITFULL copy finds its word full and reads it. -/
  | fullEmptyWake (id : Nat)
  /-- WAITGE_WAKE (R419): A counter update lets a waiting WAITGE retest and release. -/
  | waitgeWake (id : Nat)
  /-- GWAIT_WAKE (R164): A phase change releases a waiting GWAIT, which receives its token. -/
  | gwaitWake (id : Nat)
  /-- TLBINV_GO (R251): The holm writes TLBINV.GO to remove TLB entries of a space or VA. -/
  | tlbinvGo (l : Level) (v : Word)
  /-- TLBINV_COMPLETE (R251): A TLB invalidation completes when old-entry accesses have been performed, and GO reads 0. -/
  | tlbinvComplete
  /-- FAULT_PARK (R261): A resumable fault halts every island of the thread within 90 cycles and the thread parks. -/
  | faultPark (thread : Nat)
  /-- THREAD_STOP (R264): A terminal fault stops the thread: halt, drain issued accesses, discard contexts and report. -/
  | threadStop (thread : Nat)
  /-- FLTPOP (R257): A write of FLTPOP.GO removes and delivers the oldest fault record. -/
  | fltpop (l : Level) (v : Word)
  /-- FAULT_RESUME (R263): FLTRESP with ACTION 0 resumes a delivered resumable fault and retries the held access. -/
  | faultResume (l : Level) (v : Word)
  /-- FAULT_TERMINATE (R259): FLTRESP with ACTION 1 makes a resumable fault terminal and stops the thread. -/
  | faultTerminate (l : Level) (v : Word)
  /-- SHADOW_MOVE (R275): Every 2^INTLOG2 cycles the row shadow moves to the next column. -/
  | shadowMove (die row : Nat)
  /-- CELL_REPLAY (R278): On a first failure the cell restores state to before the failing firing and re-executes its issued firings. -/
  | cellReplay (cell : Nat) (r : ReplayIn)
  /-- CELL_MIGRATION (R282): On a second failure the cell's state is moved to its row's skerry cell and the island resumes. -/
  | cellMigration (cell : Nat) (r : MigrateIn)
  /-- SUSP_DECAY (R277): After 2^30 cycles without failure a cell's SUSP falls by 1. -/
  | suspDecay (cell : Nat)
  /-- RELCFG_WRITE (R286): A RELCFG write stores its fields, refusing a change of DEBUG unless every slot of the die is FREE. -/
  | relcfgWrite (l : Level) (die : Nat) (v : Word)
  /-- SYS_REGISTER_WRITE (R204): A write to a SYS register with no behaviour of its own stores writable fields under the access codes. -/
  | sysRegisterWrite (l : Level) (addr : Nat) (v : Word)
  /-- ENGINE_HANDLER_DISPATCH (R438): A packet header and its parameter words on the command port start the handler of its tag. -/
  | engineHandlerDispatch (isl e : Nat)
  /-- STREAM_SPEC_ACCEPT (R206): An address generator accepts a full specification, checks it and starts the stream. -/
  | streamSpecAccept (die ag : Nat)
  /-- COPY_REQUEST_START (R216): A copy engine starts its next pending request in arrival order. -/
  | copyRequestStart (die ce : Nat)
  /-- FH_LINK_TRAINING (R75): A fronthaul port trains its link, or its link goes up or down, and a pending change of FHLPCFG.SPLIT takes effect. -/
  | fhLinkTraining (port : Nat) (up : Bool)
  /-- FUNCTION_BIND (R58): Service firmware binds a partition to a PCIe function, after which held event records for that function are written and its requests succeed again. -/
  | functionBind (part fn : Nat)
  /-- PTP_MESSAGE_SEND (R76): The time unit sends a PTP message on a logical port in master role at the interval that the G.8275.1 profile sets. -/
  | ptpMessageSend (lp : Nat) (m : PtpSend)
  /-- ESMC_MESSAGE_SEND (R76): The frequency unit sends an ESMC quality-level message at the interval that ITU-T G.8264 sets. -/
  | esmcMessageSend (lp ql : Nat)
  deriving DecidableEq, Repr, Inhabited

/-! ## Inputs from outside, and who moves next -/

/-- What reaches the device from outside beside the unit events: an upset of a stored bank word or HBM4 line (R203, R288; kinds 1
correctable, 2 uncorrectable at one read, 3 uncorrectable) or of a context slot (R195), an uncorrectable error in a buffer that
a firing has consumed (R272), a write of the host to its memory (R241),
an abort that the next read of a function meets (R61), an access of the host to BAR0 of a function (R58, R59), the mask of a
function's vectors and VF Enable (R63). -/
inductive Input where
  | upset (key kind : Nat)
  | upsetCtx (isl slot : Nat)
  | upsetFiring (isl slot cell k firing : Nat)
  | hostWrite (addr : Nat) (l : List Byte)
  | hostAbort (fn : Nat)
  | barRead (fn off size : Nat)
  | barWrite (fn off size v : Nat)
  | vectorMask (fn vec : Nat) (on : Bool)
  | vfEnable (on : Bool)
  | straitsTrained
  deriving DecidableEq, Repr, Inhabited

/-- What a move does: an operator fires, the oldest firing in a cell's check stage passes it (R273), the queue interpreter
runs one bytecode, a parsed packet is checked and issued, an engine runs one work row of its handler, a unit event happens, or
an input arrives. -/
inductive Action where
  | fire (isl cell k : Nat)
  | check (isl cell : Nat)
  | bytecode (q : Nat)
  | issue (q : Nat)
  | micro (isl e : Nat)
  | event (i : Instr)
  | input (x : Input)
  deriving DecidableEq, Repr, Inhabited

/-- A move: the cycles (R6) and device-time units (R46) that pass before it, and what moves. -/
structure Move where
  cycles : Nat
  dt : Nat
  act : Action
  deriving DecidableEq, Repr, Inhabited

end Sys2Proof
end

