-- ==== Sys2Proof/Config.lean ====
section
/-! DEFINITION. What the spec leaves open or names by another standard: constants without a body, so that nothing in
Lean can evaluate them or prove a value of them. Free values are applied to the counter `State.freeCount`. -/
namespace Sys2Proof

/-- Which agent moves next, and with which inputs, when the agenda is empty (the spec fixes no order of agents). -/
opaque Config.freeMove : Nat → Move

/-- A 32-bit value that the spec leaves open. -/
opaque Config.freeWord : Nat → Word

/-- A byte that the spec leaves open. -/
opaque Config.freeByte : Nat → Byte

/-- SHA-256 of a byte string (R50, R54, R110), by the standard that the spec names. -/
opaque Config.sha256 : List Byte → List Byte

/-- HMAC-SHA-256 of a key and a message (R50, R54). -/
opaque Config.hmac : List Byte → List Byte → List Byte

/-- ML-KEM encapsulation to a public key with randomness: shared secret and ciphertext (R54). -/
opaque Config.kemEncaps : List Byte → Nat → List Byte × List Byte

/-- The signature check of R113 to R115: key, message, signature. -/
opaque Config.sigVerify : List Byte → List Byte → List Byte → Bool

/-- The Zaerma root key and image key, whose digests the ROM and the holm image hold (R115). -/
opaque Config.rootKey : List Byte
opaque Config.imageKey : List Byte

/-- Signing with the identity key of a seed (R28, R119). -/
opaque Config.sign : List Byte → List Byte → List Byte

/-- The seed that the device's PUF array gives with helper data (R28). -/
opaque Config.pufSeed : List Byte → BitVec 256

/-- The silicon stepping that a repair record gives (R11). -/
opaque Config.dieStepping : List Byte → Byte

/-- The identity public key that a seed gives (R28). -/
opaque Config.idPublic : List Byte → List Byte

/-- L of R48: the fixed internal latency of a die, which its repair record gives. -/
opaque Config.dieLatency : Nat → Nat

/-- The PHY latency of a fronthaul logical port in device units, which the IOD's repair record gives (R76). -/
opaque Config.phyLatency : List Byte → Nat → Nat

/-- Device randomness (R54). -/
opaque Config.freeBytes : Nat → List Byte

end Sys2Proof
end

