-- ==== Sys2Proof/WellFormed.lean ====
section
/-! DEFINITION. The structural checks of an instruction word on its own (R343): type, predicate, mismatch mode,
immediate, modifier bits and targets of each form, and the limits its description sets (R355-R435); the checks of
queue bytecodes (R98) and of micro-operation words (R443). -/
namespace Sys2Proof

abbrev tyI : List TyCode := [.i32, .vi16, .vi8, .vi32]
abbrev tyF : List TyCode := [.f32, .vf32, .vf16, .vbf16]
abbrev tyV : List TyCode := [.vi16, .vi8, .vi32, .vf32, .vf16, .vbf16]
abbrev tyS : List TyCode := [.i32]
abbrev tyFS : List TyCode := [.f32]
abbrev tyAll : List TyCode := [.i32, .vi16, .vi8, .vi32, .f32, .vf32, .vf16, .vbf16]
abbrev tyAcc : List TyCode := [.i32, .f32]
abbrev tyFcvt : List TyCode := [.f32, .vf32, .vf16, .vbf16, .vi8]
abbrev tyV16 : List TyCode := [.vi16]
abbrev tyPack : List TyCode := [.vi16, .vi32]
abbrev tyUnpk : List TyCode := [.vi8, .vi16]
abbrev tyDot : List TyCode := [.vi8, .vf16]

/-- Whether a type code is a vector type (R311). -/
def TyCode.isVec : TyCode → Bool
  | .i32 | .f32 => false
  | _ => true

/-- Lane width of a type code (R311, R368). -/
def TyCode.width : TyCode → Nat
  | .i32 | .vi32 | .f32 | .vf32 => 32
  | .vi16 | .vf16 | .vbf16 => 16
  | .vi8 => 8

/-- Whether a type code is one of 100-111. -/
def TyCode.isFloat : TyCode → Bool
  | .f32 | .vf32 | .vf16 | .vbf16 => true
  | _ => false

/-- Lanes of a 512-bit vector of the type (R293). -/
def TyCode.lanes (t : TyCode) : Nat := 512 / t.width

/-- Whether a format code is assigned (R309). -/
def fmtAssigned (f : Nat) : Bool :=
  [0, 1, 2, 3, 4, 5, 6, 8, 9, 10, 11, 12, 16, 17, 18, 20, 31].contains f

/-- Width in bits of a float or integer format code (R292, R295); 0 for the others. -/
def fmtWidth (f : Nat) : Nat :=
  if [1, 4, 11, 12].contains f then 8 else if [2, 5, 9, 10].contains f then 16 else if [3, 6, 8].contains f then 32 else 0

/-! Modifier rules (R330): `md` is bits [21:16]. -/
def modNone (w : OpA) : Bool := w.md == 0
def modSat (w : OpA) : Bool := w.md.toNat < 2
def modRnd (w : OpA) : Bool := w.md.toNat < 16 && w.md.toNat % 8 ≤ 4
def modRm (w : OpA) : Bool := w.md.toNat ≤ 4
def modFsat (w : OpA) : Bool := w.md == 0 || w.md == 8
def modAcc (w : OpA) : Bool := if w.ty = .i32 then modSat w else modRnd w
def modVsum (w : OpA) : Bool := if w.imm == 0 then (if w.ty.isFloat then modRnd w else modSat w) else modNone w
def modDot (w : OpA) : Bool := if w.ty = .vi8 then modSat w else modRnd w
def modVec (w : OpA) : Bool := w.md == 0 || w.md == 2
def modConsVec (w : OpA) : Bool := w.md.toNat < 4
def modVecW (w : OpA) : Bool := w.md == 0 || w.md == 2 || w.md == 4
/-- CTRADD and WAITGE (R418): an immediate b only with W64 = 0. -/
def modCtr (w : OpA) : Bool := (w.md == 0 || w.md == 4 || w.md == 8 || w.md == 12) && !(w.ib && w.md.getLsbD 2)
def modAcq (w : OpA) : Bool := (w.md == 8 || w.md == 12) && !(w.ib && w.md.getLsbD 2)
def modOsat (w : OpA) : Bool := w.md == 0 || w.md == 4
def modE (w : OpA) : Bool := w.md.toNat < 2
def modFrd (w : OpA) : Bool := w.md == 1 || w.md == 3

/-! Immediate rules. -/
def immAny (_ : OpA) : Bool := true
def immZero (w : OpA) : Bool := w.imm == 0
def immB (w : OpA) : Bool := w.ib || w.mm == .pad || w.imm == 0
def immBelow (n : Nat) (w : OpA) : Bool := w.imm.toNat < n
def immLow2 : OpA → Bool := immBelow 4
def immLow3 : OpA → Bool := immBelow 8
def immBit0 : OpA → Bool := immBelow 2
def immOne (w : OpA) : Bool := w.imm == 1
def immLevel (w : OpA) : Bool := 1 ≤ w.imm.toNat && w.imm.toNat < 8
def immSort (w : OpA) : Bool := w.imm.toNat < 32 && w.t0 != .none && w.t1 != .none
def immSink (w : OpA) : Bool := w.imm.toNat < 16 && (w.imm != 0 || (w.t0 == .none && w.t1 == .none))
def immCtr (w : OpA) : Bool := w.imm.toNat < 128 && w.imm.toNat % 8 != 0
def immIter (w : OpA) : Bool :=
  w.imm.toNat < 64 && w.imm.toNat % 8 ≤ 4 && w.imm.toNat / 8 ≤ 4 && (w.t1 != .none || w.imm.toNat / 8 == 0)
def immPermit (w : OpA) : Bool := 1 ≤ w.imm.toNat && w.imm.toNat < 16
def immCnt (w : OpA) : Bool := w.imm.toNat % 8 != 0 && w.imm.toNat / 8 != 0
def immStoplvl (w : OpA) : Bool := w.imm.toNat < 16 && 1 ≤ w.imm.toNat % 8 && w.imm.toNat % 8 ≤ 6
def immClass : OpA → Bool := immBelow 512
/-- PART of a conversion (R392): 0 but where a vector is widened, and then below w_out / w_in. -/
def immPart (w : OpA) : Bool :=
  let part := w.imm.toNat / 32 % 4
  let wo := fmtWidth (w.imm.toNat % 32)
  if w.ty.isVec && w.ty.width < wo then part < wo / w.ty.width else part == 0
def immFcvt (w : OpA) : Bool := w.imm.toNat < 128 && [8, 9, 10, 11, 12].contains (w.imm.toNat % 32) && immPart w
def immFtoi (w : OpA) : Bool := w.imm.toNat < 128 && [1, 2, 3, 4, 5, 6].contains (w.imm.toNat % 32) && immPart w
def immFrnd (w : OpA) : Bool :=
  w.imm.toNat == (if w.ty = .vf16 then 9 else if w.ty = .vbf16 then 10 else 8)
def immShift (w : OpA) : Bool := w.imm.toNat < 256 && w.imm.toNat % 128 ≤ w.ty.lanes
def immBcast (w : OpA) : Bool := w.imm.toNat < 128 && w.imm.toNat % 64 < w.ty.lanes
def immLane (w : OpA) : Bool := w.imm.toNat < 64 && w.imm.toNat < w.ty.lanes
def immVsum (w : OpA) : Bool := w.imm.toNat ≤ 5 && (w.imm.toNat < 3 || !w.ty.isFloat)
def immDot (w : OpA) : Bool := if w.ty = .vi8 then w.imm == 0 else w.imm.toNat < 2
def immBfp (w : OpA) : Bool := w.imm == 0 || (8 ≤ w.imm.toNat && w.imm.toNat < 16)
def immSplit (w : OpA) : Bool := 1 ≤ w.imm.toNat % 16 && w.imm.toNat % 16 ≤ 8
def immJoinPl (w : OpA) : Bool := w.imm.toNat % 32 == 0
def immCoord (w : OpA) : Bool :=
  let n := w.imm.toNat
  n < 128 && n % 4 ≤ 2 && n / 4 % 4 ≤ 2 && 1 ≤ n / 16 && (w.t1 != .none || n / 4 % 4 == 0)
/-- The format a load delivers (R412). -/
def immLoadFmt (f : Nat) (vec : Bool) : Bool := fmtAssigned f && f != 20 && f != 31 && (f != 18 || vec)
def immLoad (w : OpA) : Bool :=
  let f := w.imm.toNat % 32
  immLoadFmt f (w.md.getLsbD 1) && (!w.md.getLsbD 2 || f == 0 || f == 6)
def immSyrd (w : OpA) : Bool := w.imm.toNat % 32 == 0 || w.imm.toNat % 32 == 6
def immStore (w : OpA) : Bool := if w.ib then w.md.toNat / 2 == 0 else w.imm.toNat % 32 == 0
def immStcr (w : OpA) : Bool := w.imm.toNat % 32 < 16
def immOwn (w : OpA) : Bool := immLoadFmt (w.imm.toNat % 32) false && (w.ib || w.imm.toNat < 32)
def immJoin (w : OpA) : Bool := 2 ≤ w.imm.toNat && w.imm.toNat ≤ 16
def immGroup : OpA → Bool := immBelow 2048
def immTcpy (w : OpA) : Bool := w.imm.toNat < 32768 && w.imm.toNat / 16 % 64 + w.imm.toNat / 1024 + 1 ≤ 64
def immCall : OpA → Bool := immBelow 256
def immTicket : OpA → Bool := immBelow 1024
def immSpace (w : OpA) : Bool := w.imm.toNat ≤ 16

/-! Target rules (R327, R332, R383, R409). -/
def tAny : Target → Bool
  | .exit _ => false
  | _ => true
def tNone (t : Target) : Bool := t == .none
def tComp : Target → Bool
  | .none | .operand _ _ | .vc _ => true
  | _ => false
def tVal : Target → Bool
  | .operand _ _ | .vc _ => true
  | _ => false
def tVc : Target → Bool
  | .vc _ => true
  | _ => false
def tVcN : Target → Bool
  | .vc _ | .none => true
  | _ => false
def tExit : Target → Bool
  | .exit _ => true
  | _ => false

/-- What the description of a form allows: its types, the operands it uses, whether IB, PRED, MM (0 none, 1 trap and
truncate, 2 all) may be used, and its rules for modifier bits, IMM and targets. -/
structure Form where
  types : List TyCode
  uses : String
  ib : Bool
  pred : Bool
  mm : Nat
  mdRule : OpA → Bool
  immRule : OpA → Bool
  t0Rule : Target → Bool
  t1Rule : Target → Bool

/-- The opcode map (R338): major, sub-opcode, fields and form of each format-A instruction. -/
def Instr.form : Instr → Option (Nat × Nat × OpA × Form)
  | .add w => some (1, 0, w, ⟨tyI, "ab", true, true, 2, modSat, immB, tAny, tAny⟩)
  | .sub w => some (1, 1, w, ⟨tyI, "ab", true, true, 2, modSat, immB, tAny, tAny⟩)
  | .adds w => some (1, 2, w, ⟨tyI, "ab", true, true, 2, modNone, immB, tAny, tAny⟩)
  | .neg w => some (1, 3, w, ⟨tyI, "a", false, true, 0, modSat, immB, tAny, tAny⟩)
  | .abs w => some (1, 4, w, ⟨tyI, "a", false, true, 0, modSat, immB, tAny, tAny⟩)
  | .minOp w => some (1, 5, w, ⟨tyI, "ab", true, true, 2, modNone, immB, tAny, tAny⟩)
  | .maxOp w => some (1, 6, w, ⟨tyI, "ab", true, true, 2, modNone, immB, tAny, tAny⟩)
  | .mul w => some (2, 0, w, ⟨tyI, "ab", true, true, 2, modSat, immB, tAny, tAny⟩)
  | .mulh w => some (2, 1, w, ⟨tyI, "ab", true, true, 2, modNone, immB, tAny, tAny⟩)
  | .mula w => some (2, 2, w, ⟨tyI, "abc", true, true, 2, modSat, immB, tAny, tAny⟩)
  | .div w => some (2, 3, w, ⟨tyI, "ab", true, true, 2, modSat, immB, tAny, tAny⟩)
  | .rem w => some (2, 4, w, ⟨tyI, "ab", true, true, 2, modNone, immB, tAny, tAny⟩)
  | .andOp w => some (3, 0, w, ⟨tyI, "ab", true, true, 2, modNone, immB, tAny, tAny⟩)
  | .orOp w => some (3, 1, w, ⟨tyI, "ab", true, true, 2, modNone, immB, tAny, tAny⟩)
  | .xorOp w => some (3, 2, w, ⟨tyI, "ab", true, true, 2, modNone, immB, tAny, tAny⟩)
  | .notOp w => some (3, 3, w, ⟨tyI, "a", false, true, 0, modNone, immB, tAny, tAny⟩)
  | .andn w => some (3, 4, w, ⟨tyI, "ab", true, true, 2, modNone, immB, tAny, tAny⟩)
  | .orn w => some (3, 5, w, ⟨tyI, "ab", true, true, 2, modNone, immB, tAny, tAny⟩)
  | .shl w => some (4, 0, w, ⟨tyI, "ab", true, true, 2, modSat, immB, tAny, tAny⟩)
  | .shr w => some (4, 1, w, ⟨tyI, "ab", true, true, 2, modNone, immB, tAny, tAny⟩)
  | .sar w => some (4, 2, w, ⟨tyI, "ab", true, true, 2, modNone, immB, tAny, tAny⟩)
  | .rol w => some (4, 3, w, ⟨tyI, "ab", true, true, 2, modNone, immB, tAny, tAny⟩)
  | .ror w => some (4, 4, w, ⟨tyI, "ab", true, true, 2, modNone, immB, tAny, tAny⟩)
  | .bfx w => some (5, 0, w, ⟨tyS, "ab", true, true, 2, modNone, immB, tAny, tAny⟩)
  | .bfi w => some (5, 1, w, ⟨tyS, "abc", true, true, 2, modNone, immB, tAny, tAny⟩)
  | .brev w => some (5, 2, w, ⟨tyS, "ab", true, true, 2, modNone, immB, tAny, tAny⟩)
  | .clz w => some (5, 3, w, ⟨tyS, "a", false, true, 0, modNone, immB, tAny, tAny⟩)
  | .ctz w => some (5, 4, w, ⟨tyS, "a", false, true, 0, modNone, immB, tAny, tAny⟩)
  | .popc w => some (5, 5, w, ⟨tyS, "a", false, true, 0, modNone, immB, tAny, tAny⟩)
  | .bswap w => some (5, 6, w, ⟨tyS, "a", false, true, 0, modNone, immB, tAny, tAny⟩)
  | .cmpeq w => some (6, 0, w, ⟨tyI, "ab", true, true, 2, modNone, immB, tAny, tAny⟩)
  | .cmpne w => some (6, 1, w, ⟨tyI, "ab", true, true, 2, modNone, immB, tAny, tAny⟩)
  | .cmplt w => some (6, 2, w, ⟨tyI, "ab", true, true, 2, modNone, immB, tAny, tAny⟩)
  | .cmple w => some (6, 3, w, ⟨tyI, "ab", true, true, 2, modNone, immB, tAny, tAny⟩)
  | .cmpgt w => some (6, 4, w, ⟨tyI, "ab", true, true, 2, modNone, immB, tAny, tAny⟩)
  | .cmpge w => some (6, 5, w, ⟨tyI, "ab", true, true, 2, modNone, immB, tAny, tAny⟩)
  | .sel w => some (7, 0, w, ⟨tyAll, "abc", true, true, 2, modNone, immB, tAny, tAny⟩)
  | .clamp w => some (7, 1, w, ⟨tyAll, "abc", true, true, 2, modNone, immB, tAny, tAny⟩)
  | .fan w => some (9, 0, w, ⟨tyAll, "a", false, false, 0, modNone, immZero, tAny, tAny⟩)
  | .steer w => some (9, 1, w, ⟨tyAll, "ab", true, false, 0, modNone, immB, tAny, tAny⟩)
  | .gate w => some (9, 2, w, ⟨tyAll, "ab", true, false, 0, modNone, immB, tAny, tAny⟩)
  | .merge w => some (9, 3, w, ⟨tyAll, "abc", true, false, 0, modNone, immB, tAny, tAny⟩)
  | .carry w => some (9, 4, w, ⟨tyAll, "abc", false, false, 0, modNone, immLevel, tAny, tAny⟩)
  | .invar w => some (9, 5, w, ⟨tyAll, "ac", false, false, 0, modNone, immLevel, tAny, tAny⟩)
  | .sort2 w => some (9, 6, w, ⟨tyAll, "ac", false, false, 0, modNone, immSort, tAny, tAny⟩)
  | .sink w => some (9, 7, w, ⟨tyAll, "a", false, false, 0, modNone, immSink, tAny, tAny⟩)
  | .ctr w => some (10, 0, w, ⟨tyS, "a", false, false, 0, modNone, immCtr, tAny, tAny⟩)
  | .iter w => some (10, 1, w, ⟨tyS, "", false, false, 0, modNone, immIter, tAny, tAny⟩)
  | .permit w => some (10, 2, w, ⟨tyS, "ab", false, false, 0, modNone, immPermit, tAny, tAny⟩)
  | .stopgen w => some (10, 3, w, ⟨tyS, "a", false, false, 0, modNone, immLevel, tAny, tAny⟩)
  | .cntstop w => some (10, 4, w, ⟨tyS, "a", false, false, 0, modNone, immCnt, tAny, tAny⟩)
  | .stoplvl w => some (10, 5, w, ⟨tyS, "a", false, false, 0, modNone, immStoplvl, tAny, tAny⟩)
  | .acc w => some (11, 0, w, ⟨tyAcc, "a", false, false, 0, modAcc, immLevel, tAny, tAny⟩)
  | .accmin w => some (11, 1, w, ⟨tyAcc, "a", false, false, 0, modNone, immLevel, tAny, tAny⟩)
  | .accmax w => some (11, 2, w, ⟨tyAcc, "a", false, false, 0, modNone, immLevel, tAny, tAny⟩)
  | .acccnt w => some (11, 3, w, ⟨tyS, "a", false, false, 0, modSat, immLevel, tAny, tAny⟩)
  | .exitOp w => some (12, 0, w, ⟨tyS, "a", false, false, 0, modNone, immZero, tExit, tNone⟩)
  | .exitsel w => some (12, 1, w, ⟨tyS, "a", false, false, 0, modNone, immLow3, tNone, tNone⟩)
  | .fadd w => some (32, 0, w, ⟨tyF, "ab", true, true, 2, modRnd, immB, tAny, tAny⟩)
  | .fsub w => some (32, 1, w, ⟨tyF, "ab", true, true, 2, modRnd, immB, tAny, tAny⟩)
  | .fmul w => some (32, 2, w, ⟨tyF, "ab", true, true, 2, modRnd, immB, tAny, tAny⟩)
  | .ffma w => some (32, 3, w, ⟨tyF, "abc", true, true, 2, modRnd, immB, tAny, tAny⟩)
  | .ffms w => some (32, 4, w, ⟨tyF, "abc", true, true, 2, modRnd, immB, tAny, tAny⟩)
  | .fmin w => some (32, 5, w, ⟨tyF, "ab", true, true, 2, modNone, immB, tAny, tAny⟩)
  | .fmax w => some (32, 6, w, ⟨tyF, "ab", true, true, 2, modNone, immB, tAny, tAny⟩)
  | .fabs w => some (32, 7, w, ⟨tyF, "a", false, true, 0, modNone, immB, tAny, tAny⟩)
  | .fneg w => some (32, 8, w, ⟨tyF, "a", false, true, 0, modNone, immB, tAny, tAny⟩)
  | .frcp w => some (32, 9, w, ⟨tyF, "a", false, true, 0, modRnd, immB, tAny, tAny⟩)
  | .frsq w => some (32, 10, w, ⟨tyF, "a", false, true, 0, modRnd, immB, tAny, tAny⟩)
  | .fsqrt w => some (32, 11, w, ⟨tyF, "a", false, true, 0, modRnd, immB, tAny, tAny⟩)
  | .fcmpeq w => some (33, 0, w, ⟨tyF, "ab", true, true, 2, modNone, immB, tAny, tAny⟩)
  | .fcmpne w => some (33, 1, w, ⟨tyF, "ab", true, true, 2, modNone, immB, tAny, tAny⟩)
  | .fcmplt w => some (33, 2, w, ⟨tyF, "ab", true, true, 2, modNone, immB, tAny, tAny⟩)
  | .fcmple w => some (33, 3, w, ⟨tyF, "ab", true, true, 2, modNone, immB, tAny, tAny⟩)
  | .fcmpun w => some (33, 4, w, ⟨tyF, "ab", true, true, 2, modNone, immB, tAny, tAny⟩)
  | .fclass w => some (33, 5, w, ⟨tyF, "a", false, true, 0, modNone, immClass, tAny, tAny⟩)
  | .fcvt w => some (34, 0, w, ⟨tyFcvt, "a", false, true, 0, modRnd, immFcvt, tAny, tAny⟩)
  | .icvt w => some (34, 1, w, ⟨tyI, "a", false, true, 0, modRnd, immFcvt, tAny, tAny⟩)
  | .ftoi w => some (34, 2, w, ⟨tyFcvt, "a", false, true, 0, modRnd, immFtoi, tAny, tAny⟩)
  | .frnd w => some (34, 3, w, ⟨tyF, "a", false, true, 0, modRm, immFrnd, tAny, tAny⟩)
  | .vaddmin w => some (35, 0, w, ⟨tyV16, "abc", true, true, 2, modNone, immB, tAny, tAny⟩)
  | .vminidx w => some (35, 1, w, ⟨tyV16, "a", false, true, 0, modNone, immZero, tAny, tAny⟩)
  | .vmaxidx w => some (35, 2, w, ⟨tyV16, "a", false, true, 0, modNone, immZero, tAny, tAny⟩)
  | .vlsh w => some (36, 0, w, ⟨tyV, "a", false, false, 0, modNone, immShift, tAny, tAny⟩)
  | .vlsr w => some (36, 1, w, ⟨tyV, "a", false, false, 0, modNone, immShift, tAny, tAny⟩)
  | .vperm w => some (36, 2, w, ⟨tyV, "ab", false, false, 0, modNone, immZero, tAny, tAny⟩)
  | .vbcast w => some (36, 3, w, ⟨tyV, "a", false, false, 0, modNone, immBcast, tAny, tAny⟩)
  | .vextr w => some (36, 4, w, ⟨tyV, "a", false, false, 0, modNone, immLane, tAny, tAny⟩)
  | .vins w => some (36, 5, w, ⟨tyV, "ab", false, false, 0, modNone, immLane, tAny, tAny⟩)
  | .vpack w => some (36, 6, w, ⟨tyPack, "ab", false, false, 0, modNone, immBit0, tAny, tAny⟩)
  | .vunpk w => some (36, 7, w, ⟨tyUnpk, "a", false, false, 0, modNone, immZero, tAny, tAny⟩)
  | .vred w => some (37, 0, w, ⟨tyV, "a", false, false, 0, modVsum, immVsum, tAny, tAny⟩)
  | .vscan w => some (37, 1, w, ⟨tyV, "a", false, false, 0, modVsum, immVsum, tAny, tAny⟩)
  | .vdot4 w => some (38, 0, w, ⟨tyDot, "abc", false, true, 0, modDot, immDot, tAny, tAny⟩)
  | .cmul w => some (39, 0, w, ⟨tyS, "ab", false, true, 1, modRnd, immZero, tAny, tAny⟩)
  | .cmac w => some (39, 1, w, ⟨tyS, "abc", false, true, 1, modRnd, immZero, tAny, tAny⟩)
  | .cconj w => some (39, 2, w, ⟨tyS, "a", false, true, 0, modFsat, immZero, tAny, tAny⟩)
  | .cmulj w => some (39, 3, w, ⟨tyS, "ab", false, true, 1, modRnd, immZero, tAny, tAny⟩)
  | .cmag2 w => some (39, 4, w, ⟨tyS, "a", false, true, 0, modRnd, immZero, tAny, tAny⟩)
  | .maxabs w => some (40, 0, w, ⟨tyS, "a", false, false, 0, modNone, immLow3, tAny, tAny⟩)
  | .bfpenc w => some (40, 1, w, ⟨tyS, "a", false, false, 0, modRm, immBfp, tAny, tAny⟩)
  | .bfpdec w => some (40, 2, w, ⟨tyS, "a", false, false, 0, modRm, immZero, tAny, tAny⟩)
  | .planesplit w => some (41, 0, w, ⟨tyS, "ab", false, false, 0, modNone, immSplit, tAny, tNone⟩)
  | .planejoin w => some (41, 1, w, ⟨tyS, "a", false, false, 0, modNone, immJoinPl, tAny, tAny⟩)
  | .isect w => some (42, 0, w, ⟨tyS, "ab", false, false, 0, modNone, immCoord, tAny, tAny⟩)
  | .union w => some (42, 1, w, ⟨tyS, "ab", false, false, 0, modNone, immCoord, tAny, tAny⟩)
  | .ldc w => some (64, 0, w, ⟨tyS, "a", false, true, 0, modVec, immLoad, tAny, tComp⟩)
  | .stc w => some (64, 1, w, ⟨tyS, "ab", true, true, 0, modVec, immStore, tNone, tComp⟩)
  | .stcr w => some (64, 2, w, ⟨tyS, "ab", false, true, 0, modVec, immStcr, tNone, tComp⟩)
  | .ldcf w => some (64, 3, w, ⟨tyS, "a", false, true, 0, modConsVec, immLoad, tAny, tComp⟩)
  | .clreCell w => some (64, 4, w, ⟨tyS, "a", false, true, 0, modVec, immStore, tNone, tComp⟩)
  | .lds w => some (65, 0, w, ⟨tyS, "a", false, true, 0, modVecW, immLoad, tAny, tComp⟩)
  | .sts w => some (65, 1, w, ⟨tyS, "ab", true, true, 0, modVecW, immStore, tNone, tComp⟩)
  | .ldsf w => some (65, 2, w, ⟨tyS, "a", false, true, 0, modConsVec, immLoad, tAny, tComp⟩)
  | .clreSbuf w => some (65, 3, w, ⟨tyS, "a", false, true, 0, modVec, immStore, tNone, tComp⟩)
  | .ldg w => some (66, 0, w, ⟨tyS, "ac", false, true, 0, modVecW, immLoad, tAny, tComp⟩)
  | .stg w => some (66, 1, w, ⟨tyS, "abc", true, true, 0, modVecW, immStore, tNone, tComp⟩)
  | .syrd w => some (67, 0, w, ⟨tyS, "a", false, true, 0, modNone, immSyrd, tAny, tComp⟩)
  | .sywr w => some (67, 1, w, ⟨tyS, "ab", true, true, 0, modNone, immStore, tNone, tComp⟩)
  | .stream w => some (68, 0, w, ⟨tyS, "a", false, false, 0, modNone, immZero, tVc, tComp⟩)
  | .copy w => some (68, 1, w, ⟨tyS, "a", false, false, 0, modNone, immZero, tVc, tComp⟩)
  | .ctradd w => some (69, 0, w, ⟨tyS, "abc", true, true, 0, modCtr, immB, tNone, tComp⟩)
  | .waitge w => some (69, 1, w, ⟨tyS, "abc", true, false, 0, modAcq, immB, tAny, tComp⟩)
  | .ctrrd w => some (69, 2, w, ⟨tyS, "ac", false, false, 0, modNone, immZero, tAny, tComp⟩)
  | .qpush w => some (70, 0, w, ⟨tyS, "a", false, false, 0, modNone, immZero, tAny, tAny⟩)
  | .qpop w => some (70, 1, w, ⟨tyS, "", false, false, 0, modNone, immZero, tAny, tAny⟩)
  | .qcount w => some (70, 2, w, ⟨tyS, "a", false, false, 0, modNone, immLow3, tAny, tAny⟩)
  | .own w => some (71, 0, w, ⟨tyS, "ab", true, false, 0, modNone, immOwn, tVcN, tComp⟩)
  | .atadd w => some (71, 1, w, ⟨tyS, "ab", false, true, 0, modOsat, immBit0, tVc, tComp⟩)
  | .atmin w => some (71, 2, w, ⟨tyS, "ab", false, true, 0, modNone, immBit0, tVc, tComp⟩)
  | .atmax w => some (71, 3, w, ⟨tyS, "ab", false, true, 0, modNone, immBit0, tVc, tComp⟩)
  | .atand w => some (71, 4, w, ⟨tyS, "ab", false, true, 0, modNone, immBit0, tVc, tComp⟩)
  | .ator w => some (71, 5, w, ⟨tyS, "ab", false, true, 0, modNone, immBit0, tVc, tComp⟩)
  | .atxor w => some (71, 6, w, ⟨tyS, "ab", false, true, 0, modNone, immBit0, tVc, tComp⟩)
  | .atxchg w => some (71, 7, w, ⟨tyS, "ab", false, true, 0, modNone, immBit0, tVc, tComp⟩)
  | .atcas w => some (71, 8, w, ⟨tyS, "abc", false, true, 0, modNone, immBit0, tVc, tComp⟩)
  | .atfadd w => some (71, 9, w, ⟨tyFS, "ab", false, true, 0, modE, immBit0, tVc, tComp⟩)
  | .atfrd w => some (71, 10, w, ⟨tyFS, "a", false, true, 0, modFrd, immOne, tVc, tComp⟩)
  | .join w => some (72, 0, w, ⟨tyS, "a", false, false, 0, modNone, immJoin, tAny, tAny⟩)
  | .gjoin w => some (73, 0, w, ⟨tyS, "a", false, false, 0, modNone, immGroup, tAny, tAny⟩)
  | .gleave w => some (73, 1, w, ⟨tyS, "a", false, false, 0, modNone, immGroup, tAny, tAny⟩)
  | .garrive w => some (73, 2, w, ⟨tyS, "a", false, false, 0, modNone, immGroup, tAny, tAny⟩)
  | .gdrop w => some (73, 3, w, ⟨tyS, "a", false, false, 0, modNone, immGroup, tAny, tAny⟩)
  | .gwait w => some (73, 4, w, ⟨tyS, "a", false, false, 0, modNone, immGroup, tAny, tAny⟩)
  | .fenceI w => some (74, 0, w, ⟨tyS, "a", false, false, 0, modNone, immZero, tAny, tAny⟩)
  | .fenceD w => some (74, 1, w, ⟨tyS, "a", false, false, 0, modNone, immZero, tAny, tAny⟩)
  | .fenceP w => some (74, 2, w, ⟨tyS, "a", false, false, 0, modNone, immZero, tAny, tAny⟩)
  | .fenceS w => some (74, 3, w, ⟨tyS, "a", false, false, 0, modNone, immZero, tAny, tAny⟩)
  | .time w => some (75, 0, w, ⟨tyS, "a", false, false, 0, modNone, immZero, tVal, tComp⟩)
  | .slotrd w => some (75, 1, w, ⟨tyS, "a", false, false, 0, modNone, immLow2, tAny, tAny⟩)
  | .trap w => some (76, 0, w, ⟨tyS, "a", false, true, 0, modNone, immAny, tAny, tAny⟩)
  | .tcpyin w => some (77, 0, w, ⟨tyS, "a", false, false, 0, modNone, immTcpy, tNone, tComp⟩)
  | .tcpyout w => some (77, 1, w, ⟨tyS, "a", false, false, 0, modNone, immTcpy, tNone, tComp⟩)
  | .hcall w => some (78, 0, w, ⟨tyS, "ac", false, false, 0, modNone, immCall, tAny, tAny⟩)
  | .hret w => some (78, 1, w, ⟨tyS, "a", false, false, 0, modNone, immTicket, tAny, tAny⟩)
  | .xlate w => some (78, 2, w, ⟨tyS, "ac", false, false, 0, modNone, immSpace, tAny, tAny⟩)
  | .rdlvl w => some (78, 3, w, ⟨tyS, "a", false, false, 0, modNone, immZero, tAny, tAny⟩)
  | _ => none

/-- The wide-immediate forms (R369): sub-opcode and fields. -/
def Instr.wide : Instr → Option (Nat × OpW)
  | .movi w => some (0, w)
  | .addi w => some (1, w)
  | .andi w => some (2, w)
  | .ori w => some (3, w)
  | .xori w => some (4, w)
  | .cmplti w => some (5, w)
  | _ => none

/-- A form's fields other than its targets obey its description (R343). -/
def Form.fieldsOk (f : Form) (w : OpA) : Bool :=
  f.types.contains w.ty && (!w.ib || f.ib) && (w.pred == .always || f.pred)
    && (w.mm == .trap || (!w.ib && (f.mm == 2 || (f.mm == 1 && w.mm == .trunc))))
    && f.mdRule w && f.immRule w

/-- A form's fields obey its description (R343); two targets never name the same operand (R327). -/
def Form.ok (f : Form) (w : OpA) : Bool :=
  f.fieldsOk w && f.t0Rule w.t0 && f.t1Rule w.t1
    && !(w.t0 == w.t1 && (match w.t0 with | .operand _ _ => true | _ => false))

/-- A wide form's fields obey R331 and R369. -/
def OpW.ok (w : OpW) : Bool := w.ty == .i32 && w.mm == .trap && tAny w.t0

/-- Micro-operation words: codes, rows and ports (R442, R443) that can be judged on the word alone. -/
def Instr.microOk : Instr → Bool
  | .mldw _ _ _ _ wk pl mid => wk != 7 && (wk == 2 || (pl == 7 && !mid))
  | .mmul _ _ row nr _ _ => row.toNat + nr.toNat + 1 ≤ 64
  | .macc _ _ row nr _ _ => row.toNat + nr.toNat + 1 ≤ 64
  | .mzero _ row nr => row.toNat + nr.toNat + 1 ≤ 64
  | .mout _ _ _ _ fmt row nr => row.toNat + nr.toNat + 1 ≤ 64 && fmtAssigned fmt.toNat
  | .mcvt ta td row nr _ _ rm => row.toNat + nr.toNat + 1 ≤ 64 && rm.toNat < 4 && ta != td
  | .mtrans ta td row drow es =>
    (if es then row == 0 && drow == 0 && ta != td
     else row.toNat ≤ 32 && drow.toNat ≤ 32 && (ta != td || row.toNat + 32 ≤ drow.toNat || drow.toNat + 32 ≤ row.toNat))
  | .mcopy ta td row nr drow =>
    row.toNat + nr.toNat + 1 ≤ 64 && drow.toNat + nr.toNat + 1 ≤ 64
      && (ta != td || row.toNat + nr.toNat < drow.toNat || drow.toNat + nr.toNat < row.toNat)
  | .mfill _ row nr _ => row.toNat + nr.toNat + 1 ≤ 64
  | .madd _ _ _ row nr kd => row.toNat + nr.toNat + 1 ≤ 64 && kd != 3
  | .mlda _ port row nr => row.toNat + nr.toNat + 1 ≤ 64 && port != 0
  | .mact _ _ row nr fn _ => row.toNat + nr.toNat + 1 ≤ 64 && fn.toNat < 2
  | .mbfly ta nt _ sc _ _ => sc.toNat ≤ 4 && ta.toNat + nt.toNat ≤ 15
  | .mbrev ta td nt pidx =>
    pidx.toNat ≤ 6 && ta.toNat + nt.toNat ≤ 15 && td.toNat + nt.toNat ≤ 15
      && (ta.toNat + nt.toNat < td.toNat || td.toNat + nt.toNat < ta.toNat)
  | .mtwid td nt _ _ => td.toNat + nt.toNat ≤ 15
  | .mscale _ row nr _ => row.toNat + nr.toNat + 1 ≤ 64
  | .mcmul _ _ _ row nr _ => row.toNat + nr.toNat + 1 ≤ 64
  | .mconj _ _ row nr => row.toNat + nr.toNat + 1 ≤ 64
  | .spacc _ pc pv _ => pc != 0 && pv != 0
  | .msig _ k iport => !k || iport != 0
  | _ => true

/-- Queue bytecodes (R98): b15 is no destination, STPI names a word of 1 or more, LOOPN has a count. -/
def Instr.qpOk : Instr → Bool
  | .qpLdi a _ => a != 15
  | .qpMov a _ => a != 15
  | .qpAdd a _ => a != 15
  | .qpSub a _ => a != 15
  | .qpAnd a _ => a != 15
  | .qpOr a _ => a != 15
  | .qpXor a _ => a != 15
  | .qpShl a _ => a != 15
  | .qpShr a _ => a != 15
  | .qpAddi a _ => a != 15
  | .qpAndi a _ => a != 15
  | .qpOri a _ => a != 15
  | .qpShli a _ => a != 15
  | .qpShri a _ => a != 15
  | .qpLdp a _ => a != 15
  | .qpLdpi a _ => a != 15
  | .qpLdq a _ => a != 15
  | .qpLdqi a _ => a != 15
  | .qpStpi _ i => i != 0
  | .qpLoopn _ n => n != 0
  | _ => true

/-- Which instruction a term is well-formed as: operator words by their form, others by their own checks. -/
def Instr.wf (i : Instr) : Bool :=
  (match i.form with
   | some (_, _, w, f) => f.ok w
   | none => true)
    && (match i.wide with
        | some (_, w) => w.ok
        | none => true)
    && i.microOk && i.qpOk

end Sys2Proof
end

