-- ==== Sys2Proof/Decode.lean ====
section
/-! DEFINITION. The decoder and the encoder of the three kinds of instruction word: 16-bit queue bytecodes (R95, R96),
32-bit micro-operations (R440, R441) and 64-bit operator words (R326, R331, R338), and of command packets (R83, R90). -/
namespace Sys2Proof

/-- Why bits are no instruction. -/
inductive DecodeError where
  /-- fewer bytes than the word has -/
  | truncated
  /-- the major opcode, sub-opcode or MOP is not assigned (R338, R340, R341) -/
  | unassigned
  /-- a bit that is stated as 0 is 1, or a field code is reserved (R327, R328, R331, R95, R441) -/
  | reserved
  /-- the fields break the form's description (R343, R98, R443) -/
  | illFormed
  deriving DecidableEq, Repr

/-- The `n`-bit field of `v` at bit `lo`. -/
def fld (v lo n : Nat) : BitVec n := BitVec.ofNat n (v / 2 ^ lo)

/-- Bit `lo` of `v`. -/
def bit (v lo : Nat) : Bool := v / 2 ^ lo % 2 == 1

/-! ## Operator words -/

/-- TYPE field (R311). -/
def TyCode.code : TyCode → Nat
  | .i32 => 0 | .vi16 => 1 | .vi8 => 2 | .vi32 => 3 | .f32 => 4 | .vf32 => 5 | .vf16 => 6 | .vbf16 => 7

def tyOf (n : Nat) : TyCode :=
  match n % 8 with
  | 0 => .i32 | 1 => .vi16 | 2 => .vi8 | 3 => .vi32 | 4 => .f32 | 5 => .vf32 | 6 => .vf16 | _ => .vbf16

def PredMode.code : PredMode → Nat
  | .always => 0 | .ifNonzero => 1 | .ifZero => 2

def predOf (n : Nat) : Option PredMode :=
  match n % 4 with
  | 0 => some .always | 1 => some .ifNonzero | 2 => some .ifZero | _ => none

def MisMode.code : MisMode → Nat
  | .trap => 0 | .trunc => 1 | .pad => 2

def mmOf (n : Nat) : Option MisMode :=
  match n % 4 with
  | 0 => some .trap | 1 => some .trunc | 2 => some .pad | _ => none

def Pos.code : Pos → Nat
  | .a => 0 | .b => 1 | .c => 2 | .p => 3

def posOf (n : Nat) : Pos :=
  match n % 4 with
  | 0 => .a | 1 => .b | 2 => .c | _ => .p

/-- A target field (R327). -/
def Target.code : Target → Nat
  | .none => 0
  | .keep k => 128 + k.toNat
  | .exit x => 256 + x.toNat
  | .operand pos s => 512 + pos.code * 128 + s.toNat
  | .vc v => 1024 + v.toNat

def targetOf (n : Nat) : Option Target :=
  let n := n % 2048
  if n = 0 then some .none
  else if 128 ≤ n ∧ n < 136 then some (.keep (fld n 0 3))
  else if 256 ≤ n ∧ n < 264 then some (.exit (fld n 0 3))
  else if 512 ≤ n ∧ n < 1024 then some (.operand (posOf (n / 128)) (fld n 0 7))
  else if 1024 ≤ n ∧ n < 1056 then some (.vc (fld n 0 5))
  else none

/-- Bits [51:0] of a format-A word. -/
def OpA.code (w : OpA) : Nat :=
  w.ty.code * 2 ^ 49 + w.pred.code * 2 ^ 47 + w.mm.code * 2 ^ 45 + w.t0.code * 2 ^ 34 + w.t1.code * 2 ^ 23
    + (cond w.ib 1 0) * 2 ^ 22 + w.md.toNat * 2 ^ 16 + w.imm.toNat

def opaOf (v : Nat) : Option OpA :=
  match predOf (v / 2 ^ 47), mmOf (v / 2 ^ 45), targetOf (v / 2 ^ 34), targetOf (v / 2 ^ 23) with
  | some p, some m, some t0, some t1 => some ⟨tyOf (v / 2 ^ 49), p, m, t0, t1, bit v 22, fld v 16 6, fld v 0 16⟩
  | _, _, _, _ => none

/-- Bits [51:0] of a format-W word. -/
def OpW.code (w : OpW) : Nat :=
  w.ty.code * 2 ^ 49 + w.pred.code * 2 ^ 47 + w.mm.code * 2 ^ 45 + w.t0.code * 2 ^ 34 + w.imm.toNat

def opwOf (v : Nat) : Option OpW :=
  match predOf (v / 2 ^ 47), mmOf (v / 2 ^ 45), targetOf (v / 2 ^ 34) with
  | some p, some m, some t0 => if v / 2 ^ 32 % 4 = 0 then some ⟨tyOf (v / 2 ^ 49), p, m, t0, fld v 0 32⟩ else none
  | _, _, _ => none

/-- The opcode map read the other way (R338): the constructor of a major and sub-opcode of format A. -/
def opOf (maj sub : Nat) : Option (OpA → Instr) :=
  match maj, sub with
  | 1, 0 => some .add
  | 1, 1 => some .sub
  | 1, 2 => some .adds
  | 1, 3 => some .neg
  | 1, 4 => some .abs
  | 1, 5 => some .minOp
  | 1, 6 => some .maxOp
  | 2, 0 => some .mul
  | 2, 1 => some .mulh
  | 2, 2 => some .mula
  | 2, 3 => some .div
  | 2, 4 => some .rem
  | 3, 0 => some .andOp
  | 3, 1 => some .orOp
  | 3, 2 => some .xorOp
  | 3, 3 => some .notOp
  | 3, 4 => some .andn
  | 3, 5 => some .orn
  | 4, 0 => some .shl
  | 4, 1 => some .shr
  | 4, 2 => some .sar
  | 4, 3 => some .rol
  | 4, 4 => some .ror
  | 5, 0 => some .bfx
  | 5, 1 => some .bfi
  | 5, 2 => some .brev
  | 5, 3 => some .clz
  | 5, 4 => some .ctz
  | 5, 5 => some .popc
  | 5, 6 => some .bswap
  | 6, 0 => some .cmpeq
  | 6, 1 => some .cmpne
  | 6, 2 => some .cmplt
  | 6, 3 => some .cmple
  | 6, 4 => some .cmpgt
  | 6, 5 => some .cmpge
  | 7, 0 => some .sel
  | 7, 1 => some .clamp
  | 9, 0 => some .fan
  | 9, 1 => some .steer
  | 9, 2 => some .gate
  | 9, 3 => some .merge
  | 9, 4 => some .carry
  | 9, 5 => some .invar
  | 9, 6 => some .sort2
  | 9, 7 => some .sink
  | 10, 0 => some .ctr
  | 10, 1 => some .iter
  | 10, 2 => some .permit
  | 10, 3 => some .stopgen
  | 10, 4 => some .cntstop
  | 10, 5 => some .stoplvl
  | 11, 0 => some .acc
  | 11, 1 => some .accmin
  | 11, 2 => some .accmax
  | 11, 3 => some .acccnt
  | 12, 0 => some .exitOp
  | 12, 1 => some .exitsel
  | 32, 0 => some .fadd
  | 32, 1 => some .fsub
  | 32, 2 => some .fmul
  | 32, 3 => some .ffma
  | 32, 4 => some .ffms
  | 32, 5 => some .fmin
  | 32, 6 => some .fmax
  | 32, 7 => some .fabs
  | 32, 8 => some .fneg
  | 32, 9 => some .frcp
  | 32, 10 => some .frsq
  | 32, 11 => some .fsqrt
  | 33, 0 => some .fcmpeq
  | 33, 1 => some .fcmpne
  | 33, 2 => some .fcmplt
  | 33, 3 => some .fcmple
  | 33, 4 => some .fcmpun
  | 33, 5 => some .fclass
  | 34, 0 => some .fcvt
  | 34, 1 => some .icvt
  | 34, 2 => some .ftoi
  | 34, 3 => some .frnd
  | 35, 0 => some .vaddmin
  | 35, 1 => some .vminidx
  | 35, 2 => some .vmaxidx
  | 36, 0 => some .vlsh
  | 36, 1 => some .vlsr
  | 36, 2 => some .vperm
  | 36, 3 => some .vbcast
  | 36, 4 => some .vextr
  | 36, 5 => some .vins
  | 36, 6 => some .vpack
  | 36, 7 => some .vunpk
  | 37, 0 => some .vred
  | 37, 1 => some .vscan
  | 38, 0 => some .vdot4
  | 39, 0 => some .cmul
  | 39, 1 => some .cmac
  | 39, 2 => some .cconj
  | 39, 3 => some .cmulj
  | 39, 4 => some .cmag2
  | 40, 0 => some .maxabs
  | 40, 1 => some .bfpenc
  | 40, 2 => some .bfpdec
  | 41, 0 => some .planesplit
  | 41, 1 => some .planejoin
  | 42, 0 => some .isect
  | 42, 1 => some .union
  | 64, 0 => some .ldc
  | 64, 1 => some .stc
  | 64, 2 => some .stcr
  | 64, 3 => some .ldcf
  | 64, 4 => some .clreCell
  | 65, 0 => some .lds
  | 65, 1 => some .sts
  | 65, 2 => some .ldsf
  | 65, 3 => some .clreSbuf
  | 66, 0 => some .ldg
  | 66, 1 => some .stg
  | 67, 0 => some .syrd
  | 67, 1 => some .sywr
  | 68, 0 => some .stream
  | 68, 1 => some .copy
  | 69, 0 => some .ctradd
  | 69, 1 => some .waitge
  | 69, 2 => some .ctrrd
  | 70, 0 => some .qpush
  | 70, 1 => some .qpop
  | 70, 2 => some .qcount
  | 71, 0 => some .own
  | 71, 1 => some .atadd
  | 71, 2 => some .atmin
  | 71, 3 => some .atmax
  | 71, 4 => some .atand
  | 71, 5 => some .ator
  | 71, 6 => some .atxor
  | 71, 7 => some .atxchg
  | 71, 8 => some .atcas
  | 71, 9 => some .atfadd
  | 71, 10 => some .atfrd
  | 72, 0 => some .join
  | 73, 0 => some .gjoin
  | 73, 1 => some .gleave
  | 73, 2 => some .garrive
  | 73, 3 => some .gdrop
  | 73, 4 => some .gwait
  | 74, 0 => some .fenceI
  | 74, 1 => some .fenceD
  | 74, 2 => some .fenceP
  | 74, 3 => some .fenceS
  | 75, 0 => some .time
  | 75, 1 => some .slotrd
  | 76, 0 => some .trap
  | 77, 0 => some .tcpyin
  | 77, 1 => some .tcpyout
  | 78, 0 => some .hcall
  | 78, 1 => some .hret
  | 78, 2 => some .xlate
  | 78, 3 => some .rdlvl
  | _, _ => none

/-- The constructor of a wide-immediate sub-opcode (R369). -/
def wideOf : Nat → Option (OpW → Instr)
  | 0 => some .movi
  | 1 => some .addi
  | 2 => some .andi
  | 3 => some .ori
  | 4 => some .xori
  | 5 => some .cmplti
  | _ => none

/-- Decode a 64-bit operator word. -/
def decodeOp (v : Nat) : Except DecodeError Instr :=
  let maj := v / 2 ^ 56 % 256
  let sub := v / 2 ^ 52 % 16
  if maj = 8 then
    match wideOf sub, opwOf v with
    | some c, some w => if (c w).wf then .ok (c w) else .error .illFormed
    | some _, none => .error .reserved
    | none, _ => .error .unassigned
  else
    match opOf maj sub, opaOf v with
    | some c, some w => if (c w).wf then .ok (c w) else .error .illFormed
    | some _, none => .error .reserved
    | none, _ => .error .unassigned

/-- The 64-bit word of an operator instruction. -/
def encodeOp (i : Instr) : Option Nat :=
  match i.form with
  | some (maj, sub, w, _) => some (maj * 2 ^ 56 + sub * 2 ^ 52 + w.code)
  | none =>
    match i.wide with
    | some (sub, w) => some (8 * 2 ^ 56 + sub * 2 ^ 52 + w.code)
    | none => none

/-! ## Micro-operation words -/

/-- The 32-bit word of a micro-operation (R441). -/
def encodeMicro : Instr → Option Nat
  | .mnop => some (0)
  | .mldw ta src port row wk pl mid => some (67108864 + ta.toNat * 4194304 + (cond src 1 0) * 2097152 + port.toNat * 524288 + row.toNat * 4096 + wk.toNat * 512 + pl.toNat * 64 + (cond mid 1 0) * 32)
  | .mswap => some (134217728)
  | .mmul ta td row nr z alt => some (201326592 + ta.toNat * 4194304 + td.toNat * 262144 + row.toNat * 4096 + nr.toNat * 64 + (cond z 1 0) * 32 + (cond alt 1 0) * 16)
  | .macc ta td row nr z alt => some (268435456 + ta.toNat * 4194304 + td.toNat * 262144 + row.toNat * 4096 + nr.toNat * 64 + (cond z 1 0) * 32 + (cond alt 1 0) * 16)
  | .mzero td row nr => some (335544320 + td.toNat * 262144 + row.toNat * 4096 + nr.toNat * 64)
  | .mout ta dst pq pidx fmt row nr => some (402653184 + ta.toNat * 4194304 + (cond dst 1 0) * 2097152 + pq.toNat * 524288 + pidx.toNat * 65536 + fmt.toNat * 2048 + row.toNat * 32 + nr.toNat)
  | .mcvt ta td row nr sk df rm => some (469762048 + ta.toNat * 4194304 + td.toNat * 262144 + row.toNat * 4096 + nr.toNat * 128 + (cond sk 1 0) * 64 + df.toNat * 8 + rm.toNat)
  | .mtrans ta td row drow es => some (536870912 + ta.toNat * 4194304 + td.toNat * 262144 + row.toNat * 4096 + drow.toNat * 64 + (cond es 1 0) * 32)
  | .mcopy ta td row nr drow => some (603979776 + ta.toNat * 4194304 + td.toNat * 262144 + row.toNat * 4096 + nr.toNat * 64 + drow.toNat)
  | .mfill td row nr pidx => some (671088640 + td.toNat * 262144 + row.toNat * 4096 + nr.toNat * 64 + pidx.toNat * 8)
  | .madd ta tb td row nr kd => some (738197504 + ta.toNat * 4194304 + tb.toNat * 262144 + td.toNat * 16384 + row.toNat * 256 + nr.toNat * 4 + kd.toNat)
  | .mlda td port row nr => some (805306368 + td.toNat * 4194304 + port.toNat * 1048576 + row.toNat * 4096 + nr.toNat * 64)
  | .mmask nact kact => some (872415232 + nact.toNat * 2097152 + kact.toNat * 16384)
  | .mact ta td row nr fn ki => some (939524096 + ta.toNat * 4194304 + td.toNat * 262144 + row.toNat * 4096 + nr.toNat * 64 + fn.toNat * 8 + (cond ki 1 0) * 4)
  | .mbfly ta nt rad sc inv pidx => some (1073741824 + ta.toNat * 4194304 + nt.toNat * 1048576 + rad.toNat * 262144 + sc.toNat * 32768 + (cond inv 1 0) * 16384 + pidx.toNat * 2048)
  | .mbrev ta td nt pidx => some (1140850688 + ta.toNat * 4194304 + td.toNat * 262144 + nt.toNat * 65536 + pidx.toNat * 8192)
  | .mtwid td nt inv pidx => some (1207959552 + td.toNat * 4194304 + nt.toNat * 1048576 + (cond inv 1 0) * 16384 + pidx.toNat * 2048)
  | .mscale ta row nr sh => some (1275068416 + ta.toNat * 4194304 + row.toNat * 4096 + nr.toNat * 64 + sh.toNat * 4)
  | .mbexpSet ta v => some (1342177280 + ta.toNat * 4194304 + v.toNat * 2048)
  | .mbexpOut ta oport => some (1344274432 + ta.toNat * 4194304 + oport.toNat * 524288)
  | .msatclr ta => some (1409286144 + ta.toNat * 4194304)
  | .mcmul ta tb td row nr cj => some (1476395008 + ta.toNat * 4194304 + tb.toNat * 262144 + td.toNat * 16384 + row.toNat * 256 + nr.toNat * 4 + (cond cj 1 0) * 2)
  | .mconj ta td row nr => some (1543503872 + ta.toNat * 4194304 + td.toNat * 262144 + row.toNat * 4096 + nr.toNat * 64)
  | .spacc td pc pv l => some (1610612736 + td.toNat * 4194304 + pc.toNat * 1048576 + pv.toNat * 262144 + l.toNat * 32768)
  | .spzero td => some (1677721600 + td.toNat * 4194304)
  | .spout ta oc ov l clr => some (1744830464 + ta.toNat * 4194304 + oc.toNat * 1048576 + ov.toNat * 262144 + l.toNat * 32768 + (cond clr 1 0) * 16384)
  | .spmerge ta td => some (1811939328 + ta.toNat * 4194304 + td.toNat * 262144)
  | .msig oport k iport => some (2147483648 + oport.toNat * 16777216 + (cond k 1 0) * 8388608 + iport.toNat * 2097152)
  | _ => none

/-- The rows of R441: match, mask, and the instruction its fields give. -/
def microRow (v : Nat) : Option (Nat × Instr) :=
  match v / 2 ^ 26 % 64 with
  | 0 => some (0xfc000000, .mnop)
  | 1 => some (0xfffbffe0, .mldw (fld v 22 4) (bit v 21) (fld v 19 2) (fld v 12 6) (fld v 9 3) (fld v 6 3) (bit v 5))
  | 2 => some (0xfc000000, .mswap)
  | 3 => some (0xfffffff0, .mmul (fld v 22 4) (fld v 18 4) (fld v 12 6) (fld v 6 6) (bit v 5) (bit v 4))
  | 4 => some (0xfffffff0, .macc (fld v 22 4) (fld v 18 4) (fld v 12 6) (fld v 6 6) (bit v 5) (bit v 4))
  | 5 => some (0xfc3fffc0, .mzero (fld v 18 4) (fld v 12 6) (fld v 6 6))
  | 6 => some (0xffffffff, .mout (fld v 22 4) (bit v 21) (fld v 19 2) (fld v 16 3) (fld v 11 5) (fld v 5 6) (fld v 0 5))
  | 7 => some (0xffffffff, .mcvt (fld v 22 4) (fld v 18 4) (fld v 12 6) (fld v 7 5) (bit v 6) (fld v 3 3) (fld v 0 3))
  | 8 => some (0xffffffe0, .mtrans (fld v 22 4) (fld v 18 4) (fld v 12 6) (fld v 6 6) (bit v 5))
  | 9 => some (0xffffffff, .mcopy (fld v 22 4) (fld v 18 4) (fld v 12 6) (fld v 6 6) (fld v 0 6))
  | 10 => some (0xfc3ffff8, .mfill (fld v 18 4) (fld v 12 6) (fld v 6 6) (fld v 3 3))
  | 11 => some (0xffffffff, .madd (fld v 22 4) (fld v 18 4) (fld v 14 4) (fld v 8 6) (fld v 2 6) (fld v 0 2))
  | 12 => some (0xfff3ffc0, .mlda (fld v 22 4) (fld v 20 2) (fld v 12 6) (fld v 6 6))
  | 13 => some (0xffffc000, .mmask (fld v 21 5) (fld v 14 7))
  | 14 => some (0xfffffffc, .mact (fld v 22 4) (fld v 18 4) (fld v 12 6) (fld v 6 6) (fld v 3 3) (bit v 2))
  | 16 => some (0xfffff800, .mbfly (fld v 22 4) (fld v 20 2) (fld v 18 2) (fld v 15 3) (bit v 14) (fld v 11 3))
  | 17 => some (0xffffe000, .mbrev (fld v 22 4) (fld v 18 4) (fld v 16 2) (fld v 13 3))
  | 18 => some (0xfff07800, .mtwid (fld v 22 4) (fld v 20 2) (bit v 14) (fld v 11 3))
  | 19 => some (0xffc3fffc, .mscale (fld v 22 4) (fld v 12 6) (fld v 6 6) (fld v 2 4))
  | 21 => some (0xffc00000, .msatclr (fld v 22 4))
  | 22 => some (0xfffffffe, .mcmul (fld v 22 4) (fld v 18 4) (fld v 14 4) (fld v 8 6) (fld v 2 6) (bit v 1))
  | 23 => some (0xffffffc0, .mconj (fld v 22 4) (fld v 18 4) (fld v 12 6) (fld v 6 6))
  | 24 => some (0xffff8000, .spacc (fld v 22 4) (fld v 20 2) (fld v 18 2) (fld v 15 3))
  | 25 => some (0xffc00000, .spzero (fld v 22 4))
  | 26 => some (0xffffc000, .spout (fld v 22 4) (fld v 20 2) (fld v 18 2) (fld v 15 3) (bit v 14))
  | 27 => some (0xfffc0000, .spmerge (fld v 22 4) (fld v 18 4))
  | 32 => some (0xffe00000, .msig (fld v 24 2) (bit v 23) (fld v 21 2))
  | 20 => if bit v 21 then some (0xfffff800, .mbexpOut (fld v 22 4) (fld v 19 2)) else some (0xfffff800, .mbexpSet (fld v 22 4) (fld v 11 8))
  | _ => none

/-- Decode a 32-bit micro-operation: every bit outside MOP and the named fields is 0. -/
def decodeMicro (v : Nat) : Except DecodeError Instr :=
  match microRow v with
  | none => .error .unassigned
  | some (mask, i) =>
    if v &&& mask ≠ v then .error .reserved else if i.wf then .ok i else .error .illFormed

/-! ## Queue bytecodes -/

/-- The 16-bit word of a queue bytecode (R96). -/
def encodeQp : Instr → Option Nat
  | .qpPass a i => some (0 + a.toNat * 128 + i.toNat)
  | .qpSkip a i => some (2048 + a.toNat * 128 + i.toNat)
  | .qpFail a i => some (4096 + a.toNat * 128 + i.toNat)
  | .qpLdi a i => some (6144 + a.toNat * 128 + i.toNat)
  | .qpMov a b => some (8192 + a.toNat * 128 + b.toNat)
  | .qpAdd a b => some (10240 + a.toNat * 128 + b.toNat)
  | .qpSub a b => some (12288 + a.toNat * 128 + b.toNat)
  | .qpAnd a b => some (14336 + a.toNat * 128 + b.toNat)
  | .qpOr a b => some (16384 + a.toNat * 128 + b.toNat)
  | .qpXor a b => some (18432 + a.toNat * 128 + b.toNat)
  | .qpShl a b => some (20480 + a.toNat * 128 + b.toNat)
  | .qpShr a b => some (22528 + a.toNat * 128 + b.toNat)
  | .qpAddi a i => some (24576 + a.toNat * 128 + i.toNat)
  | .qpAndi a i => some (26624 + a.toNat * 128 + i.toNat)
  | .qpOri a i => some (28672 + a.toNat * 128 + i.toNat)
  | .qpShli a i => some (30720 + a.toNat * 128 + i.toNat)
  | .qpShri a i => some (32768 + a.toNat * 128 + i.toNat)
  | .qpLdp a b => some (34816 + a.toNat * 128 + b.toNat)
  | .qpStp a b => some (36864 + a.toNat * 128 + b.toNat)
  | .qpLdpi a i => some (38912 + a.toNat * 128 + i.toNat)
  | .qpStpi a i => some (40960 + a.toNat * 128 + i.toNat)
  | .qpLdq a b => some (43008 + a.toNat * 128 + b.toNat)
  | .qpStq a b => some (45056 + a.toNat * 128 + b.toNat)
  | .qpLdqi a i => some (47104 + a.toNat * 128 + i.toNat)
  | .qpStqi a i => some (49152 + a.toNat * 128 + i.toNat)
  | .qpTeq a b => some (51200 + a.toNat * 128 + b.toNat)
  | .qpTltu a b => some (53248 + a.toNat * 128 + b.toNat)
  | .qpTeqi a i => some (55296 + a.toNat * 128 + i.toNat)
  | .qpBrt i => some (57344 + i.toNat)
  | .qpBrf i => some (59392 + i.toNat)
  | .qpJmp i => some (61440 + i.toNat)
  | .qpLoopn a n => some (63488 + a.toNat * 128 + n.toNat)
  | _ => none

/-- The rows of R96: the bits that fields or the opcode take, and the instruction. -/
def qpRow (v : Nat) : Nat × Instr :=
  match v / 2 ^ 11 % 32 with
  | 0 => (0xffff, .qpPass (fld v 7 4) (fld v 0 7))
  | 1 => (0xffff, .qpSkip (fld v 7 4) (fld v 0 7))
  | 2 => (0xffff, .qpFail (fld v 7 4) (fld v 0 7))
  | 3 => (0xffff, .qpLdi (fld v 7 4) (fld v 0 7))
  | 4 => (0xff8f, .qpMov (fld v 7 4) (fld v 0 4))
  | 5 => (0xff8f, .qpAdd (fld v 7 4) (fld v 0 4))
  | 6 => (0xff8f, .qpSub (fld v 7 4) (fld v 0 4))
  | 7 => (0xff8f, .qpAnd (fld v 7 4) (fld v 0 4))
  | 8 => (0xff8f, .qpOr (fld v 7 4) (fld v 0 4))
  | 9 => (0xff8f, .qpXor (fld v 7 4) (fld v 0 4))
  | 10 => (0xff8f, .qpShl (fld v 7 4) (fld v 0 4))
  | 11 => (0xff8f, .qpShr (fld v 7 4) (fld v 0 4))
  | 12 => (0xffff, .qpAddi (fld v 7 4) (fld v 0 7))
  | 13 => (0xffff, .qpAndi (fld v 7 4) (fld v 0 7))
  | 14 => (0xffff, .qpOri (fld v 7 4) (fld v 0 7))
  | 15 => (0xff9f, .qpShli (fld v 7 4) (fld v 0 5))
  | 16 => (0xff9f, .qpShri (fld v 7 4) (fld v 0 5))
  | 17 => (0xff8f, .qpLdp (fld v 7 4) (fld v 0 4))
  | 18 => (0xff8f, .qpStp (fld v 7 4) (fld v 0 4))
  | 19 => (0xffff, .qpLdpi (fld v 7 4) (fld v 0 7))
  | 20 => (0xffff, .qpStpi (fld v 7 4) (fld v 0 7))
  | 21 => (0xff8f, .qpLdq (fld v 7 4) (fld v 0 4))
  | 22 => (0xff8f, .qpStq (fld v 7 4) (fld v 0 4))
  | 23 => (0xffbf, .qpLdqi (fld v 7 4) (fld v 0 6))
  | 24 => (0xffbf, .qpStqi (fld v 7 4) (fld v 0 6))
  | 25 => (0xff8f, .qpTeq (fld v 7 4) (fld v 0 4))
  | 26 => (0xff8f, .qpTltu (fld v 7 4) (fld v 0 4))
  | 27 => (0xffff, .qpTeqi (fld v 7 4) (fld v 0 7))
  | 28 => (0xf87f, .qpBrt (fld v 0 7))
  | 29 => (0xf87f, .qpBrf (fld v 0 7))
  | 30 => (0xf87f, .qpJmp (fld v 0 7))
  | _ => (0xffff, .qpLoopn (fld v 7 4) (fld v 0 7))

/-- Decode a 16-bit bytecode. -/
def decodeQp (v : Nat) : Except DecodeError Instr :=
  let (mask, i) := qpRow v
  if v &&& mask ≠ v then .error .reserved else if i.wf then .ok i else .error .illFormed

/-! ## Packets -/

/-- TYPE of a packet header (R83). -/
def Packet.typ (p : Packet) : Nat := p.hdr.toNat % 256

/-- COUNT of a packet header. -/
def Packet.count (p : Packet) : Nat := p.hdr.toNat / 256 % 4096

/-- The packet types (R90). -/
def decodePacket (p : Packet) : Except DecodeError Instr :=
  if p.ws.length ≠ p.count then .error .truncated else
  match p.typ with
  | 0 => .ok (.nopPacket p) | 1 => .ok (.launch p) | 2 => .ok (.preload p) | 3 => .ok (.copyPacket p)
  | 4 => .ok (.signal p) | 5 => .ok (.waitgePacket p) | 6 => .ok (.callPacket p) | 7 => .ok (.returnPacket p)
  | 8 => .ok (.lend p) | 9 => .ok (.reclaim p) | 10 => .ok (.steerPacket p) | 11 => .ok (.fencePacket p)
  | 12 => .ok (.waittime p) | 13 => .ok (.mark p)
  | _ => .error .unassigned

/-! ## Bytes -/

/-- Little-endian value of bytes (R2). -/
def leNat : List Byte → Nat
  | [] => 0
  | b :: t => b.toNat + 256 * leNat t

/-- The `n` bytes of a value, little-endian. -/
def leBytes : Nat → Nat → List Byte
  | 0, _ => []
  | n + 1, v => BitVec.ofNat 8 v :: leBytes n (v / 256)

/-- The three kinds of instruction word. -/
inductive WordKind where
  | bytecode | micro | operator
  deriving DecidableEq, Repr

/-- Bytes of a word of each kind. -/
def WordKind.size : WordKind → Nat
  | .bytecode => 2 | .micro => 4 | .operator => 8

/-- Decode the instruction word at the head of some bytes; the rest of the bytes comes back. -/
def decode (k : WordKind) (bytes : List Byte) : Except DecodeError (Instr × List Byte) :=
  if bytes.length < k.size then .error .truncated else
  let v := leNat (bytes.take k.size)
  let r := match k with
    | .bytecode => decodeQp v
    | .micro => decodeMicro v
    | .operator => decodeOp v
  match r with
  | .ok i => .ok (i, bytes.drop k.size)
  | .error e => .error e

/-- The bytes of a well-formed instruction that has a word. -/
def encode (i : Instr) : Option (WordKind × List Byte) :=
  match encodeOp i with
  | some v => some (.operator, leBytes 8 v)
  | none =>
    match encodeMicro i with
    | some v => some (.micro, leBytes 4 v)
    | none => (encodeQp i).map fun v => (.bytecode, leBytes 2 v)

/-- The instruction word of `nbits` bits as the opcode table numbers them: 16 a bytecode, 32 a micro-operation, 64 an
operator; its bytes in storage order go to the decoder. -/
def decodeTableWord (nbits w : Nat) : Option Instr :=
  let k : Option WordKind := if nbits = 16 then some .bytecode else if nbits = 32 then some .micro
    else if nbits = 64 then some .operator else none
  match k with
  | none => none
  | some k => match decode k (leBytes k.size w) with
    | .ok (i, _) => some i
    | .error _ => none

end Sys2Proof
end

