-- ==== Sys2Proof/Machine/State.lean ====
section
/-! DEFINITION. The state of the Jarurn as plain data: every piece of state the spec gives the machine, each with the
rule that names it. Everything indexed is a sparse table (`Tab`); one memory holds all byte-addressed storage. -/
namespace Sys2Proof.Machine

/-- Why the machine stops. Faults of the spec (FLT_..., QE_...) are taken inside the machine and are no stop. -/
inductive Fault where
  /-- `step`: the word at the site that moves next is no instruction word. R345: the loader lets none reach a cell,
  engine or interpreter, so no run started by the spec's own loads raises it. Safe. -/
  | illegalWord
  deriving DecidableEq, Repr

/-- Why an instruction has no meaning. -/
inductive Refusal where
  /-- `exec`: an instruction whose meaning is not written yet. Safe. -/
  | notModelled (mnemonic : String)
  deriving DecidableEq, Repr

/-- Where the executing step happens: the cell's slot, the queue, or the engine. -/
structure Site where
  isl : Nat := 0
  slot : Nat := 0
  cell : Nat := 0
  k : Nat := 0
  q : Nat := 0
  eng : Nat := 0
  deriving DecidableEq, Repr

/-! ## Tokens (R172) -/

/-- KIND of a token's sideband. -/
inductive TokKind where
  | scalar | vector | bound | permit
  deriving DecidableEq, Repr

/-- A token or one vector beat. `src` names the edge it came over (slot-operand edges: 2·producing slot + target; VC
edges: 256 + VC; other producers 512), `deps` the accesses it derives from (R232, R233). CTX is the owning context,
VC is part of the place it stands in, PAR is a function of the rest. -/
structure Tok where
  data : BitVec 256 := 0
  stop : Nat := 0
  kind : TokKind := .scalar
  src : Nat := 0
  deps : List Nat := []
  deriving DecidableEq, Repr

/-- Where a token in flight is bound. Buffer keys inside a context: operand buffer 4·(8C+K)+pos; VC input buffer
512 + 32·C + VC; escape latch 1088 + C (its token's `src` is 256 + VC); engine input port 1152 + 4·e + port. -/
inductive Dest where
  | buf (isl slot key : Nat)
  | gen (die ag port : Nat)
  | ce (die n : Nat)
  | sport (die sp : Nat)
  | circuit (leg : Nat)
  deriving DecidableEq, Repr

/-- A token on its way to `dest`. It holds an entry (R176) of context `slot` at island `isl`: `place` is the buffer key
it is bound for, 2048 + 8·C + side for the output buffer of cell C's switchbox, in which it waits (side 0 N, 1 E, 2 S,
3 W, 4 another island of the IOD), 3584 + 32·C + VC where it waits for a unit or the uplink, or 3072 (for a unit 8192 +
3584 + 32·C + VC) in the strait domain of the receiving die. `age` is its blocked age (R197); `chk` the firing whose check stage holds it (R273). -/
structure Flight where
  dest : Dest
  tok : Tok
  isl : Nat
  slot : Nat
  place : Nat
  age : Nat := 0
  chk : Option Nat := none
  deriving DecidableEq, Repr

/-- A firing whose outputs have not all passed the check stage of its cell (R273): its number in the order of issue, its
slot's context, cell and K, its firing sequence number, the cycle of its issue, the exit that it names (R190), the words that it
delivers to keeps (R359), the entry that it pushes onto a spill queue: descriptor, words and stop level (R221), the ticket
and status of a holm call that it answers (R434), the words that a PLANE form writes, by key (R403), and the number that the next
access had. -/
structure ChkRec where
  tag : Nat
  isl : Nat
  slot : Nat
  cell : Nat
  k : Nat
  firing : Nat
  cycle : Nat
  exit : Option Nat := none
  keeps : List (Nat × Word) := []
  push : Option (Nat × List Word × Nat) := none
  ret : Option (Nat × Nat) := none
  area : List (Nat × List Word) := []
  accNo : Nat := 0
  deriving DecidableEq, Repr

/-! ## Contexts (R168-R181, R317-R337) -/

/-- State of an island context slot (R178). -/
inductive SlotSt where
  | free | loading | armed | poisoned | active | halted
  deriving DecidableEq, Repr

/-- Cell record of a block (R323). -/
structure CellCfg where
  cell : Nat
  wbase : Nat
  wlen : Nat
  keeps : List Word
  scales : List Word
  deriving DecidableEq, Repr

/-- Handler record of a block (R337). -/
structure HndCfg where
  eng : Nat
  tag : Nat
  words : List Word
  deriving DecidableEq, Repr

/-- A block's loaded configuration (R321-R324, R333-R337). -/
structure Block where
  insts : List DWord := []
  routes : List DWord := []
  vcs : List Word := []
  hnds : List HndCfg := []
  spills : List (DWord × DWord) := []
  cells : List CellCfg := []
  seed : Word := 0
  deriving DecidableEq, Repr

/-- A fault held by a poisoned slot (R195): code and detail 1. -/
structure HeldFault where
  code : Nat
  detail : Nat
  addr : Nat := 0
  deriving DecidableEq, Repr

/-- Runtime of one spill queue of a context (R220, R472). `mark` holds, of the cycle in which the queue last changed, its number
plus 1 and nr and ns at its start (R473). -/
structure SpillQ where
  rhead : Nat := 0
  rtail : Nat := 0
  nr : Nat := 0
  reshead : Nat := 0
  rtag : List Nat := []
  deps : List Nat := []
  mark : Nat × Nat × Nat := (0, 0, 0)
  deriving DecidableEq, Repr

/-- A weight set of an engine: planes as (plane·1024 + 32·i + n ↦ 1) and its descriptor (R448, R449). -/
structure WeightSet where
  planes : Tab Bool := []
  desc : Word := 0
  deriving DecidableEq, Repr

/-- A piece of engine work waiting or running (R439). -/
inductive Work where
  | handler
  | tcpy (acc : Nat)
  deriving DecidableEq, Repr

/-- Engine state of one context (R436, R469). `left` holds the words of a row that MOUT has not written yet (R236), `deps`: what the tokens that the engine took derive from. -/
structure EngCtx where
  act : WeightSet := {}
  shadow : WeightSet := {}
  pw : Tab Word := []
  msk : Word := 0xFFF
  mop : Nat := 0
  busy : Bool := false
  pass2 : Bool := false
  autoS : Nat := 0
  row : Nat := 0
  tag : Nat := 0
  nparam : Nat := 0
  got : Nat := 0
  left : List Nat := []
  taken : Bool := false
  work : List Work := []
  deps : List Nat := []
  deriving DecidableEq, Repr

/-- A firing kept in a cell's input-latch history (R278): the operand tokens that it took, the operator state and the keeps
before it, and the words that its load has returned. -/
structure HistRec where
  k : Nat
  firing : Nat
  taken : List Tok
  opst : List Word
  keeps : List Word := []
  loads : List Word := []
  deriving DecidableEq, Repr

/-- One island context slot. `opst` holds 16 words for each slot of each cell, key 16·(8C+K) + word (R268);
`fmts` the format record of each operand edge as the loader found it, key 4·(8C+K)+pos (R313); `legs` the circuit leg
of each cross-die edge, key 32·C + VC for an edge that a VC of a cell feeds and 512 + the number of its route word for one
that a unit feeds (R36, R334); `sdeps` the accesses that a slot's operator state derives from; `begun` that an operator has
fired since the frame was entered (R45); `windows` the windows that each cell's arbiter has counted since it became active (R182);
`early`, of a counter at which a bound arrived, the number of that cycle plus 1 and the bound that was pending as it began (R189). -/
structure Ctx where
  st : SlotSt := .free
  thread : Option Nat := none
  cls : Nat := 3
  part : Nat := 0
  frame : Nat := 0
  frameId : Nat := 0
  blkIdx : Nat := 0
  h : Nat := 1
  w : Nat := 1
  exen : Nat := 0
  exits : List Nat := []
  block : Block := {}
  held : Option HeldFault := none
  keeps : Tab Word := []
  scales : Tab Word := []
  opst : Tab Word := []
  fmts : Tab Nat := []
  bufs : Tab (List Tok) := []
  sdeps : Tab (List Nat) := []
  legs : Tab Nat := []
  eng : Tab EngCtx := []
  spills : Tab SpillQ := []
  hist : Tab (List HistRec) := []
  arb : Tab (Nat × Int × Nat) := []
  occ : Tab Nat := []
  windows : Tab Nat := []
  early : Tab (Nat × Option Word) := []
  since : Nat := 0
  lastUse : Nat := 0
  begun : Bool := false
  deriving DecidableEq, Repr

/-- A load of a frame's contexts in progress (R153, R177, R195). `slots` is empty while the load waits for slots; `exec`
marks a load of the frame that the thread executes, `restore` one from a save image (R266). -/
structure Load where
  thread : Option Nat
  part : Nat
  frame : Nat
  h : Nat
  w : Nat
  orow : Nat
  ocol : Nat
  slots : List (Nat × Nat)
  packet : Option (Nat × Nat)
  since : Nat
  cls : Nat := 3
  restore : Bool := false
  exec : Bool := false
  deriving DecidableEq, Repr

/-! ## Accesses and waits (R225-R236, R410) -/

/-- Space of an access after addressing. -/
inductive Space where
  | cell | sbuf | hbm | host | sys
  deriving DecidableEq, Repr

/-- What a pending operation of a slot does. `emit`: a stop of that level (0: a completion token) that waits for the
results of earlier firings (R408, R426, R488); `late`: a token of a save image that stood behind a withdrawn wait (R266); `trap`: a's token after FLT_TRAP (R430); `request`: the T1 token of STREAM
or COPY (R417); `update`: an owner update that its owner has not applied (R222, R240); `tile`: a tile copy (R431). -/
inductive AccKind where
  | load | store | loadFull | clear | storeFull | ctrAdd | ctrRead | waitGe | gwait | time | group (op : Nat) | hcall
  | fence (scope : Nat) | emit (level : Nat) | late (level : Nat) | trap | request | update | tile (out : Bool) (reg row nr : Nat)
  deriving DecidableEq, Repr

/-- How far an access has come: in its cell's check stage (R273), held at a fault, issued, waiting (for a full word, a counter, a phase), past the island
queue, past the die queue, performed (R228). -/
inductive AccPhase where
  | check | held | issued | waiting | island | die | performed
  deriving DecidableEq, Repr

/-- A pending access of a cell. `addr` is the key in the one memory (or the SYS address, group number ...), `n` the
words, `val` the words to store or the target, `res` the words read. `va` is the address as the program gave it, `deps`
what the firing derives from, `rel` a release, `cons` the consume modifier, `done1` its results have left (R488), `asked` the number of the next posted write when it issued the reads of R241. -/
structure Acc where
  id : Nat
  site : Site
  thread : Nat
  firing : Nat
  kind : AccKind
  space : Space
  addr : Nat
  va : Nat
  n : Nat
  val : List Word := []
  res : List Word := []
  phase : AccPhase := .issued
  t0 : Target := .none
  t1 : Target := .none
  vec : Bool := false
  deps : List Nat := []
  since : Nat := 0
  rel : Bool := false
  cons : Bool := false
  done1 : Bool := false
  asked : Option Nat := none
  part : Nat := 0
  chk : Option Nat := none
  deriving DecidableEq, Repr

/-! ## Threads, groups and scheduling (R133-R167) -/

/-- State of a thread descriptor (R137). -/
inductive ThSt where
  | free | pending | loading | held | running | preempted | parked | saved | stopped
  deriving DecidableEq, Repr

/-- A fault of a thread (R255, R262, R264). `parked`: a resumable one whose record is written (as number `fseq`), or a
terminal one whose thread has halted; `record`: a terminal one still needs its record; `map` the completion map (R45). -/
structure StopRec where
  code : Nat
  atEntry : Bool := false
  save : Bool := false
  kind : Nat := 0
  others : Nat := 0
  firing : Nat := 0
  block : Nat := 0
  slot : Nat := 255
  unit : Nat := 0
  elem : Nat := 0
  addr : Nat := 0
  detail1 : Nat := 0
  detail2 : Nat := 0
  time : Nat := 0
  record : Bool := true
  parked : Bool := false
  fseq : Nat := 0
  map : Option (List Byte) := none
  deriving DecidableEq, Repr

/-- A thread descriptor (R133-R137) with what the home sequencer keeps (R190, R193) and the last TIME value (R48).
`blocked` lists the slots (128·block + slot) that fire no more after a fault (R255); `slots` the contexts of the executing
frame (island, slot) in the region's order; `saving` that a save is ordered (R156, R177); `begun` the
islands on which an operator has fired in an earlier frame of the current iteration point (R45). -/
structure Thread where
  st : ThSt := .free
  cls : Nat := 0
  part : Nat := 0
  queue : Nat := 0
  level : Nat := 0
  missed : Bool := false
  h : Nat := 0
  w : Nat := 0
  orow : Nat := 0
  ocol : Nat := 0
  nslot : Nat := 0
  entry : Nat := 0
  ex : Nat := 0
  ey : Nat := 0
  ez : Nat := 0
  x : Nat := 0
  y : Nat := 0
  z : Nat := 0
  dl : Nat := 0
  seq : Nat := 0
  arg : Nat := 0
  ctr : Nat := 0
  inc : Nat := 0
  frame : Nat := 0
  frameId : Nat := 0
  notify : Bool := false
  pos : Nat := 0
  hdr : Nat := 0
  hist : Nat := 0
  exit : Option Nat := none
  lastTime : Nat := 0
  slots : List (Nat × Nat) := []
  blocked : List Nat := []
  resumable : List StopRec := []
  stop : Option StopRec := none
  saving : Bool := false
  begun : List Nat := []
  packet : Nat := 0
  deriving DecidableEq, Repr

/-- A member of a group: arrived flag and seen value (R163). -/
structure Member where
  arrived : Bool := false
  seen : Nat := 0
  deriving DecidableEq, Repr

/-- A group table entry (R163); members by thread number. -/
structure Group where
  valid : Bool := false
  part : Nat := 0
  phase : Nat := 0
  expect : Nat := 0
  arr : Nat := 0
  dropNext : Nat := 0
  members : List (Nat × Member) := []
  deriving DecidableEq, Repr

/-- A slot clock (R142, R143). -/
structure SlotClock where
  epoch : Nat := 0
  len : Nat := 0
  en : Bool := false
  xcp : Bool := false
  err : Bool := false
  sym : Tab Nat := []
  deriving DecidableEq, Repr

/-- PTCFG of a partition (R139); partition 0 is enabled from reset. -/
structure PtCfg where
  en : Bool := false
  sc : Nat := 0
  maxthr : Nat := 4096
  deriving DecidableEq, Repr

/-- A LEND or RECLAIM applied and not complete (R157-R161); `fresh` the islands that the LEND has lent. -/
structure IslOp where
  lend : Bool
  islands : List Nat
  fresh : List Nat := []
  part : Nat
  queue : Nat
  packet : Nat
  applied : Bool := false
  deriving DecidableEq, Repr

/-- The launch scheduler; `groupOp` is the cycle in which the group unit applied its last operation, and the thread of that
operation (R164). -/
structure Sched where
  threads : Tab Thread := []
  nextSeq : Nat := 0
  ptcfg : Tab PtCfg := [(0, { en := true })]
  owner : Tab Nat := []
  lent : Tab Nat := []
  clocks : Tab SlotClock := []
  groups : Tab Group := []
  islOps : List IslOp := []
  loads : Tab Load := []
  nextLoad : Nat := 0
  patterns : Tab (Nat × Nat) := []
  groupOp : Nat × Nat := (0, 0)
  deriving DecidableEq, Repr

/-! ## Front end (R78-R106, R495) -/

/-- State of a queue (R80). -/
inductive QState where
  | disabled | idle | run | wait | fault
  deriving DecidableEq, Repr

/-- A queue program in progress (R94-R97): next bytecode, registers, flag, steps, and the loop being run
(index of its LOOPN, last bytecode of the body, passes left). -/
structure QRun where
  pc : Nat := 0
  regs : Tab Word := []
  f : Bool := false
  steps : Nat := 0
  loop : Option (Nat × Nat × Nat) := none
  deriving DecidableEq, Repr

/-- An indirect buffer being parsed (R92, R93): its address, length and the word reached. -/
structure BufPos where
  addr : Nat
  len : Nat
  pos : Nat
  deriving DecidableEq, Repr

/-- An event record before it is written (R100). -/
structure Event where
  code : Nat
  src : Nat := 255
  b11 : Nat := 0
  pos : Nat := 0
  hdr : Nat := 0
  detail : List Byte := []
  time : Nat := 0
  cycle : Nat := 0
  faults : Bool := false
  deriving DecidableEq, Repr

/-- A command queue (R78-R99). `pend` holds the numbers of issued packets not complete; `pkt` the packet parsed or, in
FAULT, the faulting packet as far as it was read; `ahead` the words read of a packet that is not there as a whole (R82); `staged` the bytecodes written through QPWIN, `prog` the loaded
program (R99); `stack` the buffers being parsed, innermost first. -/
structure Queue where
  base : Nat := 0
  en : Bool := false
  level : Nat := 0
  part : Nat := 0
  evr : Nat := 0
  sizeLog2 : Nat := 10
  plen : Nat := 0
  pi : Word := 0
  ci : Word := 0
  st : QState := .disabled
  evPend : Bool := false
  cfgErr : Bool := false
  lastErr : Nat := 0
  stale : Nat := 0
  op : Nat := 0
  index : Nat := 0
  vok : Bool := false
  verr : Nat := 0
  mark : Word := 0
  prog : Tab Word := []
  staged : Tab Word := []
  win : Tab Word := []
  run : Option QRun := none
  pkt : Option Packet := none
  ahead : List Word := []
  stack : List BufPos := []
  nextPkt : Nat := 0
  pend : List Nat := []
  waitSince : Option Nat := none
  waitTime : Option Nat := none
  asked : Option Nat := none
  notify : List (Nat × Nat × Nat) := []
  deriving DecidableEq, Repr

/-- An event ring (R103-R106, R130). -/
structure Ring where
  base : Nat := 0
  en : Bool := false
  sizeLog2 : Nat := 2
  part : Nat := 0
  irq : Bool := false
  vec : Nat := 0
  lost : Nat := 0
  wr : Word := 0
  waiting : List Event := []
  overflow : List Event := []
  heldFw : Option (Event × Nat) := none
  lastNote : Option Nat := none
  deriving DecidableEq, Repr

/-! ## Straits (R30-R48) -/

/-- A stripe (R32). `leg` names the leg it belongs to, `circ` its circuit number; a record of `recs` is one token, or the
two beats of an engine data unit; `route` the hops it has still to cross after this one; `free` the payload of an
acknowledgement (free slots) or of a time reply (turnaround); `ctx` the context tag in its records' sidebands. -/
structure Stripe where
  leg : Nat
  kind : Nat
  rsnd : Bool
  seq : Nat
  len : Nat
  src : Nat
  dst : Nat
  reserved : Nat := 0
  recs : List (List Tok) := []
  free : Nat := 0
  circ : Nat := 0
  ctx : Nat := 0
  route : List Nat := []
  deriving DecidableEq, Repr

/-- One end of a strait (R34, R35, R47). `bad` counts consecutive CRC failures of a rail, `failedAt` when a rail failed or
was last retrained, `probe` when the outstanding time probe left, `reply` the turnaround that its reply carries. -/
structure StraitEnd where
  railOk : Nat := 31
  badHdr : Nat := 0
  bad : Tab Nat := []
  failedAt : Tab Nat := []
  downAt : Option Nat := none
  half : Nat := 0
  probe : Option Nat := none
  reply : Option Nat := none
  deriving DecidableEq, Repr

/-- A leg of a circuit (R37, R39, R40): sender and receiver halves. `queue` is the QID of the strait queue it feeds (leg A)
or drains (leg B); a `direct` one is the whole circuit of an edge of a unit, without a queue (R334); `isl`, `slot`, `via` the
island, context slot and place at which the producer's tokens wait; `path` its hops; `thread` none while the frame is preloaded; `units` that a copy engine sends 64-byte data
units on it (R32); `owes` that an accepted stripe has not been acknowledged (R39). -/
structure Leg where
  thread : Option Nat := none
  circ : Nat := 0
  src : Nat := 0
  dst : Nat := 0
  path : List Nat := []
  pathOk : Bool := true
  legB : Bool := false
  direct : Bool := false
  units : Bool := false
  owes : Bool := false
  queue : Nat := 0
  isl : Nat := 0
  slot : Nat := 0
  via : Nat := 0
  dest : Option Dest := none
  waiting : List Tok := []
  nextSeq : Nat := 0
  unacked : List Stripe := []
  lastAck : Nat := 65535
  credit : Nat := 0
  resentAt : Option (Nat × Nat) := none
  ackIn : List Stripe := []
  expect : Nat := 0
  sinceAck : Nat := 0
  lastAccept : Option Nat := none
  deriving DecidableEq, Repr

/-- A strait queue in SBUF (R38, R41, R42). -/
structure SQueue where
  thread : Nat
  qid : Nat
  mdie : Nat
  base : Nat
  log2 : Nat
  fmt : Nat
  head : Nat
  held : List Stripe
  kept : Bool
  deriving DecidableEq, Repr

/-- The straits: ends by number (0-7 S0 lower end, 8-15 S0-S7 upper end, 16-19 IS lower, 20-23 IS upper), stripes on
each hop (2·strait + direction), legs and strait queues, and the paths between two dies that a reroute has installed in place
of their own (R9, R44), key 16·a + b for the dies a < b, from a to b. -/
structure Straits where
  ends : Tab StraitEnd := []
  wires : Tab (List Stripe) := []
  legs : Tab Leg := []
  nextLeg : Nat := 0
  queues : List SQueue := []
  paths : Tab (List Nat) := []
  stqrel : Word := 0
  stqres : Word := 0
  stqpos : Word := 0
  deriving DecidableEq, Repr

/-! ## Attachments (R49-R77) -/

/-- A KCP message being reassembled or complete (R50), with the level and partition of its session. -/
structure KcpMsg where
  port : Nat
  typ : Nat
  sess : Nat
  msgid : Nat
  frags : Nat
  parts : List (Nat × List Byte)
  since : Nat
  level : Level := .t
  part : Nat := 0
  deriving DecidableEq, Repr

/-- A session (R51, R54, R55). -/
structure Session where
  openS : Bool := false
  slot : Nat := 0
  level : Level := .t
  part : Nat := 0
  key : List Byte := []
  th : List Byte := []
  high : Nat := 0
  map : List Nat := []
  sendSeq : Nat := 1
  hello : Nat := 0
  openedAt : Nat := 0
  lastFrame : Nat := 0
  badTags : List Nat := []
  deriving DecidableEq, Repr

/-- An operator key slot (R54). -/
structure KeySlot where
  key : List Byte
  level : Level
  part : Nat
  deriving DecidableEq, Repr

/-- The command link and the holm's session state. -/
structure CmdLink where
  up0 : Bool := false
  up1 : Bool := false
  since0 : Nat := 0
  notePort : Nat := 0
  replay : Nat := 0
  badTag : Nat := 0
  sessions : Tab Session := []
  partial_ : List KcpMsg := []
  msgs : List KcpMsg := []
  keys : Tab (Option KeySlot) := []
  deriving DecidableEq, Repr

/-- A write that has passed the posted queue and may not be complete at the host (R241): the access, its function, its number in
the order of posting, the thread that made it, and whether it is covered by every fence of that thread (R233). -/
structure Posted where
  id : Nat
  fn : Nat
  no : Nat
  thread : Option Nat := none
  old : Bool := false
  deriving DecidableEq, Repr

/-- The PCIe endpoint (R57-R63). Functions 0 (PF) and 1-16; `bound` the function of each partition; `vfEn` VF Enable; `abort` that the next read
of a function ends with an abort, poisoned data or no completion (R61); `posted` the writes (access, function) that may not be
complete at the host (R241), `nextPost` the number of the next one. -/
structure Pcie where
  up : Bool := false
  rate : Nat := 0
  width : Nat := 0
  badDb : Nat := 0
  pfFlr : Bool := false
  vfEn : Bool := false
  flr : Tab Bool := []
  masked : Tab Bool := []
  unbound : Tab Bool := []
  abort : Tab Bool := []
  posted : List Posted := []
  nextPost : Nat := 0
  bound : Tab Nat := []
  deriving DecidableEq, Repr

/-- Runtime of a steering entry: ring position in 64-byte units and hits (R69, R75). -/
structure SteerRt where
  pos : Nat := 0
  hits : Nat := 0
  deriving DecidableEq, Repr

/-- Registers and state of a fronthaul logical port (R75). -/
structure LPort where
  drop : Nat := 0
  noMatch : Nat := 0
  overrun : Nat := 0
  src0 : Word := 0
  src1 : Word := 0
  dst0 : Word := 0
  dst1 : Word := 0
  cfg : Word := 0
  delay : Nat := 0
  newRes : Bool := false
  up : Bool := false
  split : Bool := false
  measStamp : Nat := 0
  deriving DecidableEq, Repr

/-- The fronthaul (R64-R76). -/
structure Fronthaul where
  table : Tab (List Word) := []
  rt : Tab SteerRt := []
  stw : Tab Word := []
  index : Nat := 0
  op : Nat := 0
  err : Bool := false
  hits : Nat := 0
  stpos : Nat := 0
  dlyreq : Word := 0
  ports : Tab LPort := []
  seqIds : Tab Nat := []
  turn : Nat := 0
  ql : Tab Nat := []
  deriving DecidableEq, Repr

/-- The time unit (R46, R76, R77): whether a first lock was, locked, in holdover, the device time at which a slew began,
whether it follows a relock, the offset of the lock, PTP messages received and PTP event messages sent with port and timestamp. -/
structure TimeUnit where
  everLocked : Bool := false
  locked : Bool := false
  holdover : Bool := false
  slew : Option Nat := none
  relock : Bool := false
  offset : Int := 0
  ptp : List (Nat × Nat × List Byte) := []
  sent : List (Nat × Nat × List Byte) := []
  deriving DecidableEq, Repr

/-! ## Firmware and the holm (R107-R132, R434, R435) -/

/-- State of live replacement (R123). -/
inductive LrState where
  | steady | verified | starting | serialising | handover | probation | fallback | safe
  deriving DecidableEq, Repr

/-- A pending or open holm call (R434). -/
structure HCall where
  ticket : Nat
  call : Nat
  space : Nat
  args : List Word
  acc : Option Nat
  waitInv : Bool := false
  deriving DecidableEq, Repr

/-- An allotment of a physical or host range to a space (R435). -/
structure Allot where
  space : Nat
  host : Bool
  base : Nat
  len : Nat
  deriving DecidableEq, Repr

/-- Flash (R26, R109): image slots, boot selectors, MINSVN, boot count, retired frames, the PUF's helper
data, a recorded thermal trip. -/
structure Flash where
  holmA : List Byte := []
  holmB : List Byte := []
  svcA : List Byte := []
  svcB : List Byte := []
  holmSel : Nat := 0
  svcSel : Nat := 0
  minHolm : Nat := 0
  minSvc : Nat := 0
  bootCount : Nat := 0
  repair : Tab (List Byte) := []
  retired : List Nat := []
  helper : List Byte := []
  trip : Option Nat := none
  deriving DecidableEq, Repr

/-- An entry of the journal of PROBATION (R132): a packet of a service queue, a message, a fault record delivered, or a SYS write
of the new image. -/
inductive JournalEntry where
  | packet (queue hdr : Nat)
  | message (typ sess msgid : Nat)
  | fault (fseq code : Nat)
  | sysWrite (addr : Nat) (v : Word)
  deriving DecidableEq, Repr

/-- A record of the hand-over area that stands (R124, R126): not superseded, deleted or discarded. -/
structure HandEntry where
  typ : Nat
  key : Nat
  pa : Nat
  deriving DecidableEq, Repr

/-- Firmware state of the holm. The measurement log, the staging area and the image areas lie in HBM4 (R494): `logLen` is
the number of log entries, `staged` the highest byte written plus 1, `area` the image area (0 A, 1 B) of the running
image, `holmImg` the holm image that booted, `marked` the slot index at OP 4 while HANDOVER waits for a boundary,
`newSlot` the flash slot that holds the verified image if it was persisted, `journal` the entries of PROBATION, `replay` those that
the old image has received at fall-back, `hand` the hand-over records that stand. -/
structure Firmware where
  lr : LrState := .steady
  op : Nat := 0
  align : Bool := true
  bank : Nat := 0
  resident : Bool := false
  lastErr : Nat := 0
  hb : Word := 0
  fwseq : Nat := 0
  since : Nat := 0
  lastBeat : Nat := 0
  paused : Bool := false
  m : Tab (List Byte) := []
  logLen : Nat := 0
  journal : List JournalEntry := []
  replay : List JournalEntry := []
  hand : List HandEntry := []
  calls : List HCall := []
  opened : List HCall := []
  nextTicket : Nat := 0
  allots : List Allot := []
  poolNext : Nat := 0
  holmImg : List Byte := []
  staged : Nat := 0
  stagedOk : Bool := false
  newSlot : Option Nat := none
  area : Nat := 0
  marked : Option Nat := none
  deltaDone : Bool := false
  deriving DecidableEq, Repr

/-! ## Package (R9-R28) -/

/-- Where the boot stands (R112, R120): in package reset, halted, stopped at the holm, with the straits in training (the (strait,
rail) whose training fails), or booted. -/
inductive BootSt where
  | reset | halted | restricted (code die : Nat) | training (bad : List (Nat × Nat)) | booted | tripped
  deriving DecidableEq, Repr

/-- Per-die state: DIEINFO fields, VDDC in mV, temperature. -/
structure Die where
  absent : Bool := false
  inReset : Bool := false
  stepping : Nat := 0
  vddc : Nat := 600
  temp : Nat := 0
  hot : Bool := false
  deriving DecidableEq, Repr

/-- Package state. `rstDie` is DIERST.DIE; `limits` holds the matrix-engine issues in eight that
islands of a class and partition lose (key 16·class + partition); `overSince` since when the average exceeds the cap with
nothing left to limit. -/
structure Pkg where
  boot : BootSt := .reset
  dies : Tab Die := []
  rstQueue : List Nat := []
  rstDie : Nat := 0
  rstSince : Nat := 0
  capw : Nat := 450
  samples : List Nat := []
  limits : Tab Nat := []
  overSince : Option Nat := none
  lifted : Nat := 0
  seed : List Byte := []
  idKey : List Byte := []
  deriving DecidableEq, Repr

/-! ## Generators and copy engines (R205-R218) -/

/-- What a stream has issued and not finished (R206, R225, R236): element `elem` with the keys of its 64-byte pieces, the
numbers of the words still to be moved, the words read or to be written and its address; or, with `stop` not 0, a stop that a
read stream emits in its place. `idx` is the index token that it came from, `deps` what it derives from, `id` a number of the
same row as the accesses', `asked` the pieces whose requests to host memory have left. -/
structure StreamItem where
  stop : Nat := 0
  elem : Nat := 0
  keys : List Nat := []
  left : List Nat := []
  words : Tab Word := []
  addr : Nat := 0
  idx : Option Tok := none
  deps : List Nat := []
  id : Nat := 0
  asked : List Nat := []
  deriving DecidableEq, Repr

/-- A stream in progress (R206): specification words, next element to be issued, the stops that a write stream expects before
it, what it has issued and not finished, whether the walk has ended, and the accesses it derives from. -/
structure Stream where
  spec : List Word
  elem : Nat := 0
  emit : List Nat := []
  pipe : List StreamItem := []
  ended : Bool := false
  deps : List Nat := []
  no : Nat := 0
  deriving DecidableEq, Repr

/-- An address generator (R205) and the tokens its three ports have accepted; `isl`, `slot` name a context of the frame
whose routes bind it. -/
structure Gen where
  thread : Option Nat := none
  isl : Nat := 0
  slot : Nat := 0
  specQ : List Tok := []
  idxQ : List Tok := []
  dataQ : List Tok := []
  run : Option Stream := none
  stalled : Bool := false
  deriving DecidableEq, Repr

/-- A unit of a copy in flight (R216): its number, the memory keys of its two ends (0 for a stream), the words read, and the
numbers of those still to be read and still to be written. `id` is a number of the same row as the accesses', `asked` and `sent`
that its requests to host memory, to read and to write, have left. -/
structure CopyUnit where
  unit : Nat
  src : Nat
  dst : Nat
  words : Tab Word := []
  left : List Nat := List.range 16
  todo : List Nat := List.range 16
  id : Nat := 0
  asked : Bool := false
  sent : Bool := false
  deriving DecidableEq, Repr

/-- A copy request (R212). `owner`: thread t, or 0x1000 + q; `pos`, `hdr` of its packet; `unit` the next unit to be
issued, `inFlight` those issued and not performed, `done` the number performed; `buf` the tokens of the next unit that a
stream source has delivered; `fault` a terminal fault (code, address, detail 1, unit) after which no unit is issued, and
`stalled` the address of a resumable one whose answer it waits for, `answered` the number of its record once the answer has
ended the copy (R259). -/
structure CopyReq where
  src : Nat
  dst : Nat
  len : Nat
  waitFull : Bool
  consume : Bool
  ctr : Nat
  owner : Nat
  packet : Nat
  site : Site
  pos : Nat := 0
  hdr : Nat := 3
  unit : Nat := 0
  inFlight : List CopyUnit := []
  done : Nat := 0
  buf : List Tok := []
  fault : Option (Nat × Nat × Nat × Nat) := none
  stalled : Option Nat := none
  answered : Option Nat := none
  deps : List Nat := []
  no : Nat := 0
  deriving DecidableEq, Repr

/-- A copy engine (R216): words gathered for each source with what they derive from, requests. -/
structure CopyEng where
  gather : List (Nat × List Word) := []
  gatherDeps : List Nat := []
  pendingQ : List CopyReq := []
  run : Option CopyReq := none
  aside : List CopyReq := []
  deriving DecidableEq, Repr

/-- A stream port of a memory-port die (R213). -/
structure SPort where
  isl : Nat := 0
  slot : Nat := 0
  thread : Option Nat := none
  inQ : List Tok := []
  deriving DecidableEq, Repr

/-! ## Translation (R245-R253) and faults (R254-R269) -/

/-- A cached translation: space, level, virtual page, physical base, permission bits RD WR HOST X. -/
structure TlbEnt where
  space : Nat
  level : Nat
  vpage : Nat
  base : Nat
  rd : Bool
  wr : Bool
  host : Bool
  x : Bool
  deriving DecidableEq, Repr

/-- Translation state: PTROOT, SVBASE, SBWIN, the invalidation in progress, the caches (0-3 MDk, 4 IOD, and
16 + 128·die + unit for stream TLBs), memory-port slot tables (R210; key 64·(4·die + port) + entry, value
128·(context key + 1) + stream) and their grants, oldest first (context key + 1, entry). -/
structure Xlat where
  ptroot : Tab Nat := []
  svbase : Tab Nat := []
  sbwin : Tab Word := []
  inv : Word := 0
  invVa : Nat := 0
  invOld : List Nat := []
  invAsked : Option Nat := none
  tlbs : Tab (List TlbEnt) := []
  slotTab : Tab Nat := []
  slotGrant : List (Nat × Nat) := []
  deriving DecidableEq, Repr

/-- A fault record (R254) with the completion map when MAP = 1 (R45). -/
structure FaultRec where
  code : Nat
  resumable : Bool
  atEntry : Bool
  save : Bool
  kind : Nat
  others : Nat
  owner : Nat
  part : Nat
  frameId : Nat
  firing : Nat
  block : Nat
  slot : Nat
  unit : Nat
  elem : Nat
  addr : Nat
  detail1 : Nat
  detail2 : Nat
  time : Nat
  fseq : Nat
  map : Option (List Byte) := none
  deriving DecidableEq, Repr

/-- Fault reporting (R257-R259). `delivered`: resumable records delivered and not answered. -/
structure Faults where
  queue : List FaultRec := []
  nextSeq : Nat := 1
  badResp : Bool := false
  respSeq : Word := 0
  respAct : Bool := false
  delivered : List FaultRec := []
  deriving DecidableEq, Repr

/-! ## Reliability (R272-R291) -/

/-- CELLREL of a cell (R287), with the time of its last failure and the columns its row's skerry cell shadows. -/
structure CellRel where
  cecnt : Nat := 0
  susp : Nat := 0
  state : Nat := 0
  mapx : Nat := 0
  replays : Nat := 0
  lastFail : Nat := 0
  moved : Nat := 0
  deriving DecidableEq, Repr

/-- RELCFG of a die (R286). -/
structure RelCfg where
  shen : Bool := true
  intLog2 : Nat := 20
  debug : Bool := false
  dbgErr : Bool := false
  deriving DecidableEq, Repr

/-- A failure of a cell that has not been handled: the failing firing (R272; k 255: none, a token failed its parity check twice) and
the keys of the words whose read it consumed. -/
structure Failure where
  isl : Nat
  slot : Nat
  cell : Nat
  k : Nat
  firing : Nat
  words : List Nat := []
  deriving DecidableEq, Repr

/-- A 64-byte unit that a port of a thread's executing frame has touched, as the hazard detector of a die has recorded it (R290):
whether the access wrote, and the number of the access. -/
structure Touch where
  thread : Nat
  die : Nat
  unit : Nat
  port : Nat
  wrote : Bool
  acc : Nat
  deriving DecidableEq, Repr

/-- Reliability state; `corr` counts corrected codewords per 8 KiB frame and `broke` names the frames that have had an uncorrectable
read (R289); `touched` is what the hazard detectors have recorded (R290); `token` the recovery token per die (R196). -/
structure Rel where
  cells : Tab CellRel := []
  cfg : Tab RelCfg := []
  corr : Tab Nat := []
  broke : Tab Bool := []
  touched : List Touch := []
  token : Tab Nat := []
  fails : List Failure := []
  deriving DecidableEq, Repr

/-! ## What leaves the device -/

/-- Addresses and tag of a fronthaul frame that is sent (R74, R75): the tag control field of an 802.1Q tag, if there is one. -/
structure FhHead where
  lp : Nat
  dst : List Byte
  src : List Byte
  tag : Option Nat
  ethertype : Nat
  deriving DecidableEq, Repr

/-- What a fronthaul frame carries: an eCPRI message of type 0 or 2 (R65), with the record's header (R72) and its PRBs from
`first` on or its C-plane payload; one of type 5 (R66); or a PTP or ESMC message (R76). -/
inductive FhBody where
  | data (revision : Nat) (concat : Bool) (msgType eaxc seqId : Nat) (eBit : Bool) (subSeq : Nat) (hdr : List Byte) (first : Nat)
      (prbs : List (Nat × List Nat)) (raw : List Byte)
  | delay (revision : Nat) (concat : Bool) (action measId secs nanos comp : Nat)
  | other (body : List Byte)
  deriving DecidableEq, Repr

/-- Messages to the outside world: KCP messages, MSI-X vectors, fronthaul frames, requests to the host. -/
inductive Output where
  | kcp (f : KcpFrame)
  | msix (fn vec : Nat)
  | fh (head : FhHead) (body : FhBody)
  | hostRead (fn : Nat)
  | hostReq (fn : Nat) (write : Bool) (addr n : Nat)
  | barData (fn off : Nat) (v : Word)
  | register (addr : Nat) (v : Word)
  deriving DecidableEq, Repr

/-- The whole machine. Memory keys: HBM4 at its PA; SBUF at 2^40 + address; cell banks at 2^41 + 65536·cell + byte;
tiles at 2^42 + 8192·(16·(4·island + engine) + tile) + byte; host memory at 2^61 + bus address. `full`, `poison` are
keyed by word (key / 4), `uncorr` by 64-byte HBM4 line; `soft` holds upsets not yet found (R203, R288), keyed by word, of a line by its first. `freeCount` is the model's own counter of free values. -/
structure State where
  agenda : List Move := []
  freeCount : Nat := 0
  cur : Site := {}
  cycle : Nat := 0
  dtime : Nat := 0
  mem : Tab Byte := []
  full : Tab Bool := []
  poison : Tab Bool := []
  uncorr : Tab Bool := []
  soft : Tab Nat := []
  ctxs : Tab Ctx := []
  physT : Tab (Nat × Bool × Nat) := []
  flights : List Flight := []
  chks : List ChkRec := []
  nextChk : Nat := 0
  accs : List Acc := []
  nextAcc : Nat := 0
  gens : Tab Gen := []
  ces : Tab CopyEng := []
  sports : Tab SPort := []
  queues : Tab Queue := []
  turn : Nat := 0
  rings : Tab Ring := []
  devOverflow : List Event := []
  sched : Sched := {}
  straits : Straits := {}
  link : CmdLink := {}
  pcie : Pcie := {}
  fh : Fronthaul := {}
  time : TimeUnit := {}
  fw : Firmware := {}
  flash : Flash := {}
  pkg : Pkg := {}
  xl : Xlat := {}
  faults : Faults := {}
  rel : Rel := {}
  out : List Output := []
  deriving DecidableEq, Repr

/-- The machine right after package reset (R21): every register at the value its Reset column gives, memory zero and
every full-empty bit empty (R25), device time 0 (R46), M0-M3 zero (R110). -/
def State.reset : State := {}

end Sys2Proof.Machine
end

