-- ==== Sys2Proof/Machine/Formats.lean ====
section
/-! DEFINITION. Number formats: integers (R292), floating point with exact decoding and rounding (R295 to R300),
lanes of a vector (R293) and format records (R308 to R312). -/
namespace Sys2Proof.Machine

/-! ## Lanes -/

/-- Lanes of `w` bits, lane 0 lowest, as one value (R293). -/
def packLanes (w : Nat) : List Nat → Nat
  | [] => 0
  | x :: t => x % 2 ^ w + packLanes w t * 2 ^ w

/-- The first `n` lanes of `w` bits of a value (R293). -/
def lanesOf (w : Nat) : Nat → Nat → List Nat
  | 0, _ => []
  | n + 1, v => v % 2 ^ w :: lanesOf w n (v / 2 ^ w)

/-- Lane `i`, 0 where there is none. -/
def lane (l : List Nat) (i : Nat) : Nat := l.getD i 0

/-! ## Integer formats -/

/-- An integer lane format: width and signedness (R292). -/
structure IntF where
  w : Nat
  signed : Bool
  deriving DecidableEq, Repr

/-- Largest value of a format. -/
def IntF.maxv (t : IntF) : Int := if t.signed then 2 ^ (t.w - 1) - 1 else 2 ^ t.w - 1

/-- Smallest value of a format. -/
def IntF.minv (t : IntF) : Int := if t.signed then -(2 ^ (t.w - 1)) else 0

/-- A pattern read in a format. -/
def IntF.read (t : IntF) (x : Nat) : Int := if t.signed then sextNat t.w x else (x % 2 ^ t.w : Nat)

/-- The pattern of a value, modulo 2^w. -/
def IntF.pat (t : IntF) (x : Int) : Nat := modPow t.w x

/-! ## Floating-point formats -/

/-- A floating-point format (R295): fraction bits, bias, width, whether it has infinities, the code of its largest
finite value and its canonical NaN. -/
structure FloatF where
  n : Nat
  bias : Nat
  w : Nat
  hasInf : Bool
  maxc : Nat
  nan : Nat
  deriving DecidableEq, Repr

def f32F : FloatF := ⟨23, 127, 32, true, 0x7F7FFFFF, 0x7FC00000⟩
def f16F : FloatF := ⟨10, 15, 16, true, 0x7BFF, 0x7E00⟩
def bf16F : FloatF := ⟨7, 127, 16, true, 0x7F7F, 0x7FC0⟩
def e4m3F : FloatF := ⟨3, 7, 8, false, 0x7E, 0x7F⟩
def e5m2F : FloatF := ⟨2, 15, 8, true, 0x7B, 0x7E⟩

/-- A decoded value: NaN, an infinity, or (−1)^neg · m · 2^e exactly (R295). -/
inductive FVal where
  | nan
  | inf (neg : Bool)
  | fin (neg : Bool) (m : Nat) (e : Int)
  deriving DecidableEq, Repr, Inhabited

/-- Decode a code (R295). -/
def FloatF.dec (f : FloatF) (c : Nat) : FVal :=
  let c := c % 2 ^ f.w
  let neg := decide (2 ^ (f.w - 1) ≤ c)
  let mag := c % 2 ^ (f.w - 1)
  let ex := mag / 2 ^ f.n
  let fr := mag % 2 ^ f.n
  if f.hasInf then
    if ex = 2 ^ (f.w - 1 - f.n) - 1 then (if fr = 0 then .inf neg else .nan)
    else if ex = 0 then .fin neg fr (1 - (f.bias : Int) - f.n)
    else .fin neg (2 ^ f.n + fr) ((ex : Int) - f.bias - f.n)
  else
    if mag = 2 ^ (f.w - 1) - 1 then .nan
    else if ex = 0 then .fin neg fr (1 - (f.bias : Int) - f.n)
    else .fin neg (2 ^ f.n + fr) ((ex : Int) - f.bias - f.n)

/-- The sign bit of a format. -/
def FloatF.sgn (f : FloatF) (neg : Bool) : Nat := if neg then 2 ^ (f.w - 1) else 0

/-- The code of an infinity; the canonical NaN where the format has none (R298). -/
def FloatF.infc (f : FloatF) (neg : Bool) : Nat := if f.hasInf then f.sgn neg + (f.maxc + 1) else f.nan

/-- Rounding modes (R297). -/
inductive RMode where
  | rne | rtz | rdn | rup | sr
  deriving DecidableEq, Repr, Inhabited

/-- The rounding mode of a code (R297); 5 to 7 are reserved and never reach a cell (R345). -/
def rmodeOf (c : Nat) : RMode :=
  match c with
  | 1 => .rtz | 2 => .rdn | 3 => .rup | 4 => .sr | _ => .rne

/-- Whether |x| = a + rem/den (in units of the last place) rounds away from zero, `neg` the sign, `g` the draw. -/
def roundsUp (m : RMode) (neg : Bool) (a rem den g : Nat) : Bool :=
  match m with
  | .rne => decide (den < 2 * rem) || (decide (2 * rem = den) && decide (a % 2 = 1))
  | .rtz => false
  | .rdn => neg && decide (rem ≠ 0)
  | .rup => !neg && decide (rem ≠ 0)
  | .sr => decide (g * den < rem * 2 ^ 32)

/-- Round a finite m · 2^e to a code (R297, R298). -/
def FloatF.rndFin (f : FloatF) (md : RMode) (sat : Bool) (g : Nat) (neg : Bool) (m : Nat) (e : Int) : Nat :=
  if m = 0 then f.sgn neg
  else
    let top : Int := (Nat.log2 m : Int) + e
    let emin : Int := 1 - (f.bias : Int)
    let q : Int := (if top < emin then emin else top) - f.n
    let a := if q ≤ e then m * 2 ^ (e - q).toNat else m / 2 ^ (q - e).toNat
    let den := 2 ^ (q - e).toNat
    let rem := if q ≤ e then 0 else m % den
    let r := if roundsUp md neg a rem den g then a + 1 else a
    let code : Nat := (q + f.bias + f.n - 1).toNat * 2 ^ f.n + r
    if f.maxc < code then (if sat then f.sgn neg + f.maxc else f.infc neg)
    else f.sgn neg + code

/-- rnd(x, F, m) with the overflow rule of R298; `g` is the draw when the mode is SR. -/
def FloatF.rnd (f : FloatF) (md : RMode) (sat : Bool) (g : Nat) (x : FVal) : Nat :=
  match x with
  | .nan => f.nan
  | .inf neg => if !f.hasInf && sat then f.sgn neg + f.maxc else f.infc neg
  | .fin neg m e => f.rndFin md sat g neg m e

/-- One draw of a slot's generator (R300). -/
def srdraw (g : Nat) : Nat :=
  let g := (g ^^^ (g * 2 ^ 13)) % 2 ^ 32
  let g := g ^^^ (g / 2 ^ 17)
  (g ^^^ (g * 2 ^ 5)) % 2 ^ 32

/-- The generator after a value that rounds under mode `m`: a draw under SR only (R300). -/
def drawFor (m : RMode) (g : Nat) : Nat := match m with | .sr => srdraw g | _ => g

/-- The seed of slot 8C + K's generator at frame entry (R300). -/
def srSeed (seed x y z : Nat) (slot : Nat) : Nat :=
  let h := (seed + 0x9E3779B9 * (1 + slot) + 0x85EBCA6B * x + 0xC2B2AE35 * y + 0x27D4EB2F * z) % 2 ^ 32
  if h = 0 then 0x6D2B79F5 else h

/-- Round values in order, each with its draw (R300): the codes and the generator after them. -/
def rndList (f : FloatF) (md : RMode) (sat : Bool) : Nat → List FVal → List Nat × Nat
  | g, [] => ([], g)
  | g, x :: t =>
    let g := drawFor md g
    let (l, g') := rndList f md sat g t
    (f.rnd md sat g x :: l, g')

/-! ## Exact arithmetic -/

def FVal.isNeg : FVal → Bool
  | .nan => false
  | .inf n => n
  | .fin n _ _ => n

def FVal.isZero : FVal → Bool
  | .fin _ m _ => decide (m = 0)
  | _ => false

def FVal.neg : FVal → FVal
  | .nan => .nan
  | .inf n => .inf !n
  | .fin n m e => .fin (!n) m e

def FVal.abs : FVal → FVal
  | .nan => .nan
  | .inf _ => .inf false
  | .fin _ m e => .fin false m e

/-- Exact product; 0·∞ is invalid (R296). -/
def FVal.mul : FVal → FVal → FVal
  | .nan, _ | _, .nan => .nan
  | .inf n, .inf k => .inf (n != k)
  | .inf n, .fin k m _ => if m = 0 then .nan else .inf (n != k)
  | .fin n m _, .inf k => if m = 0 then .nan else .inf (n != k)
  | .fin n m e, .fin k p h => .fin (n != k) (m * p) (e + h)

/-- The smallest exponent of the finite terms. -/
def minExp : List FVal → Option Int
  | [] => none
  | .fin _ _ e :: t => match minExp t with | some h => some (min e h) | none => some e
  | _ :: t => minExp t

/-- The sum of the finite terms in units of 2^e. -/
def sumAt (e : Int) : List FVal → Int
  | [] => 0
  | .fin n m h :: t => (if n then -((m * 2 ^ (h - e).toNat : Nat) : Int) else ((m * 2 ^ (h - e).toNat : Nat) : Int)) + sumAt e t
  | _ :: t => sumAt e t

/-- Exact sum of terms with the zero rule of R296: a zero sum keeps the sign that all terms share if all are zero, and
is +0 otherwise, −0 under RDN. ∞ − ∞ is invalid. -/
def FVal.sum (md : RMode) (ts : List FVal) : FVal :=
  if ts.any (fun t => t == .nan) then .nan
  else if ts.any (fun t => t == .inf false) then (if ts.any (fun t => t == .inf true) then .nan else .inf false)
  else if ts.any (fun t => t == .inf true) then .inf true
  else
    let e := (minExp ts).getD 0
    let s := sumAt e ts
    if s = 0 then
      if ts.all (fun t => t.isZero && t.isNeg) then .fin true 0 0
      else if ts.all (fun t => t.isZero && !t.isNeg) then .fin false 0 0
      else .fin (md == .rdn) 0 0
    else .fin (decide (s < 0)) s.natAbs e

/-- A value times 2^k, exact. -/
def FVal.scale (k : Int) : FVal → FVal
  | .fin n m e => .fin n m (e + k)
  | x => x

/-- a < b on values that are not NaN, with −0 = +0. -/
def FVal.lt (a b : FVal) : Bool :=
  match a, b with
  | .nan, _ | _, .nan => false
  | .inf true, .inf true => false
  | .inf true, _ => true
  | _, .inf true => false
  | .inf false, _ => false
  | _, .inf false => true
  | .fin n m e, .fin k p h =>
    let lo := min e h
    decide (sumAt lo [.fin n m e] < sumAt lo [.fin k p h])

/-- a = b on decoded values, with −0 = +0; NaN equals nothing. -/
def FVal.eqv (a b : FVal) : Bool :=
  match a, b with
  | .nan, _ | _, .nan => false
  | _, _ => !a.lt b && !b.lt a

/-- Order −∞ < … < −0 < +0 < … < +∞ (R389); a and b are not NaN. -/
def FVal.ltTotal (a b : FVal) : Bool :=
  a.lt b || (a.isZero && b.isZero && a.isNeg && !b.isNeg)

/-- min and max of R389: NaN if either is NaN. -/
def FVal.minT (a b : FVal) : FVal :=
  if a == .nan || b == .nan then .nan else if b.ltTotal a then b else a
def FVal.maxT (a b : FVal) : FVal :=
  if a == .nan || b == .nan then .nan else if a.ltTotal b then b else a

/-- floor(√n) by the bits from `2^(k−1)` down. -/
def isqrtAux : Nat → Nat → Nat → Nat
  | 0, r, _ => r
  | k + 1, r, n => if (r + 2 ^ k) * (r + 2 ^ k) ≤ n then isqrtAux k (r + 2 ^ k) n else isqrtAux k r n

def isqrt (n : Nat) : Nat := isqrtAux (Nat.log2 n / 2 + 1) 0 n

/-- 1/A with 80 bits and a sticky bit below them, which decides every rounding as the exact quotient does. -/
def FVal.rcp : FVal → FVal
  | .nan => .nan
  | .inf n => .fin n 0 0
  | .fin n m e =>
    if m = 0 then .inf n
    else
      let p := Nat.log2 m + 80
      let q := 2 ^ p / m
      .fin n (2 * q + (if 2 ^ p % m = 0 then 0 else 1)) (-(p : Int) - e - 1)

/-- √A with at least 80 bits and a sticky bit; −0 stays −0, other negative values are invalid (R389). -/
def FVal.sqrt : FVal → FVal
  | .nan => .nan
  | .inf n => if n then .nan else .inf false
  | .fin n m e =>
    if m = 0 then .fin n 0 0
    else if n then .nan
    else
      let m1 := if e % 2 = 0 then m else 2 * m
      let e1 := if e % 2 = 0 then e else e - 1
      let big := m1 * 2 ^ 160
      let q := isqrt big
      .fin false (2 * q + (if q * q = big then 0 else 1)) ((e1 - 160) / 2 - 1)

/-- 1/√A with at least 80 bits and a sticky bit (R389: +0 ↦ +∞, −0 ↦ −∞, +∞ ↦ +0). -/
def FVal.rsq : FVal → FVal
  | .nan => .nan
  | .inf n => if n then .nan else .fin false 0 0
  | .fin n m e =>
    if m = 0 then .inf n
    else if n then .nan
    else
      let m1 := if e % 2 = 0 then m else 2 * m
      let e1 := if e % 2 = 0 then e else e - 1
      let p := Nat.log2 m1 / 2 + 82
      let q := isqrt (2 ^ (2 * p) / m1)
      .fin false (2 * q + (if q * q * m1 = 2 ^ (2 * p) then 0 else 1)) (-(p : Int) - e1 / 2 - 1)

/-- An integer as a value. -/
def FVal.ofInt (x : Int) : FVal := .fin (decide (x < 0)) x.natAbs 0

/-- The nearest integers of an exact value under a mode (R299). -/
def FVal.toInt (md : RMode) (g : Nat) (neg : Bool) (m : Nat) (e : Int) : Int :=
  let den := 2 ^ (-e).toNat
  let a := if 0 ≤ e then m * 2 ^ e.toNat else m / den
  let rem := if 0 ≤ e then 0 else m % den
  match md with
  | .sr =>
    -- floor of the signed value, and its fraction
    if neg then
      let fl : Int := if rem = 0 then -(a : Int) else -(a : Int) - 1
      let fr := if rem = 0 then 0 else den - rem
      if g * den < fr * 2 ^ 32 then fl + 1 else fl
    else if g * den < rem * 2 ^ 32 then (a : Int) + 1 else a
  | _ =>
    let r := if roundsUp md neg a rem den g then a + 1 else a
    if neg then -(r : Int) else r

/-! ## Format records -/

def fmtFMT (r : Nat) : Nat := r % 32
def fmtPL (r : Nat) : Nat := bitsOf r 8 5
def fmtMID (r : Nat) : Bool := r.testBit 9
def fmtSEN (r : Nat) : Bool := r.testBit 10
def fmtSREG (r : Nat) : Nat := bitsOf r 14 11
def fmtVEC (r : Nat) : Bool := r.testBit 15

/-- A record from its FMT and VEC (R308). -/
def mkFmt (fmt : Nat) (vec : Bool) : Nat := fmt + (if vec then 2 ^ 15 else 0)

/-- Format codes of R309 that are not reserved. -/
def fmtKnown (f : Nat) : Bool :=
  [0, 1, 2, 3, 4, 5, 6, 8, 9, 10, 11, 12, 16, 17, 18, 20, 31].contains f

/-- A well-formed format record (R310). -/
def fmtOk (r : Nat) : Bool :=
  fmtKnown (fmtFMT r) &&
  (if fmtFMT r = 20 then decide (1 ≤ fmtPL r) && decide (fmtPL r ≤ 8) else decide (fmtPL r = 0) && !fmtMID r) &&
  (if fmtSEN r then [8, 9, 10, 11, 12, 17, 18, 20].contains (fmtFMT r) && decide (fmtSREG r ≤ 7) else decide (fmtSREG r = 0)) &&
  (if fmtFMT r = 18 ∨ fmtFMT r = 20 then fmtVEC r else true)

/-- Signed integer formats i8, i16, i32 (R356). -/
def fmtSigned (r : Nat) : Bool := [1, 2, 3].contains (fmtFMT r)

/-- Width of the values of a format code. -/
def fmtBits (f : Nat) : Nat :=
  match f with
  | 1 | 4 | 11 | 12 | 20 => 8
  | 2 | 5 | 9 | 10 => 16
  | _ => 32

/-- The floating-point format of a code; f32 for codes that are none. -/
def floatOf (f : Nat) : FloatF :=
  match f with
  | 9 => f16F | 10 => bf16F | 11 => e4m3F | 12 => e5m2F | _ => f32F

/-- A narrow scalar filled to 32 bits (R293): sign bits for i8 and i16, zeros otherwise. -/
def fillScalar (f x : Nat) : Nat :=
  match f with
  | 1 => modPow 32 (sextNat 8 x)
  | 2 => modPow 32 (sextNat 16 x)
  | _ => x % 2 ^ fmtBits f

/-- An integer scalar as decoded for type 000 (R311). -/
def decScalar (r v : Nat) : Nat := fillScalar (fmtFMT r) v

/-- Vector `n` of an nb8 stream of odd PL ends a group: its second beat is padding (R303). -/
def padVec (r n : Nat) : Bool :=
  fmtFMT r == 20 && fmtPL r % 2 == 1 && n % ((3 + fmtPL r) / 2) == (1 + fmtPL r) / 2

/-- The scale exponent k = sext(h[7:0]) of a scale register (R308). -/
def scaleExp (h : Nat) : Int := sextNat 8 h

/-- The exact value of a code in the format of a record, scaled if SEN = 1 (R312). -/
def decFloat (r h c : Nat) : FVal :=
  let x := (floatOf (fmtFMT r)).dec c
  if fmtSEN r then x.scale (scaleExp h) else x

/-- Lane format and shape of a type code (R311): lane width, number of lanes, whether a vector, whether a float. -/
def tyWidth (t : TyCode) : Nat :=
  match t with
  | .i32 | .vi32 | .f32 | .vf32 => 32
  | .vi16 | .vf16 | .vbf16 => 16
  | .vi8 => 8
def tyVec (t : TyCode) : Bool := match t with | .i32 | .f32 => false | _ => true
def tyFloat (t : TyCode) : Bool := match t with | .f32 | .vf32 | .vf16 | .vbf16 => true | _ => false
def tyLanes (t : TyCode) : Nat := if tyVec t then 512 / tyWidth t else 1
/-- Result format F of a float type (R384). -/
def tyF (t : TyCode) : FloatF := match t with | .vf16 => f16F | .vbf16 => bf16F | _ => f32F
/-- FMT code of F. -/
def tyFmt (t : TyCode) : Nat := match t with | .vf16 => 9 | .vbf16 => 10 | _ => 8

/-- The lane format T of an integer form (R356). -/
def tyInt (t : TyCode) (fa : Nat) : IntF := ⟨tyWidth t, fmtSigned fa⟩

/-- The integer lanes of an operand (R311). -/
def intLanes (t : TyCode) (r v : Nat) : List Nat :=
  match t with
  | .i32 => [decScalar r v]
  | _ => lanesOf (tyWidth t) (tyLanes t) v

/-- The float lanes of an operand as codes in F: narrower scalars exactly in f32, scaled values rounded in F by RNE
(R311, R312). A vector lane without a scale is passed as it stands. -/
def floatLanes (t : TyCode) (r h v : Nat) : List Nat :=
  match t with
  | .f32 => [f32F.rnd .rne false 0 (decFloat r h (v % 2 ^ fmtBits (fmtFMT r)))]
  | _ =>
    let l := lanesOf (tyWidth t) (tyLanes t) v
    if fmtSEN r then l.map (fun c => (tyF t).rnd .rne false 0 (decFloat r h c)) else l

/-- The immediate operand b or pad identity in a lane (R186). -/
def laneImm (t : TyCode) (imm : Nat) : Nat :=
  match t with
  | .f32 | .vf32 => imm * 2 ^ 16
  | .vf16 | .vbf16 => imm
  | _ => modPow (tyWidth t) (sextNat 16 imm)

/-- The immediate in every lane. -/
def lanesImm (t : TyCode) (imm : Nat) : List Nat := List.replicate (tyLanes t) (laneImm t imm)

/-! ## Nested planes -/

/-- planes(q, E, p, mid) of R304; `q` is the 8-bit pattern. -/
def planesVal (q ec p : Nat) (mid : Bool) : FVal :=
  if ec = 255 then .nan
  else
    let qp : Int := sextNat 8 q / (2 ^ (8 - p) : Int)
    let m : Int := if mid ∧ p < 8 then 2 ^ (7 - p) else 0
    (FVal.ofInt (qp * 2 ^ (8 - p) + m)).scale ((ec : Int) - 127)

end Sys2Proof.Machine
end

