-- ==== Sys2Proof/Machine/Ops.lean ====
section
/-! DEFINITION. The named operations over memory, contexts, buffers, faults and events that every meaning uses. Taking
a fault of R256 is `raiseAt` and what it calls; giving an event to a ring is `postQueueEvent` and `postDeviceEvent`. -/
namespace Sys2Proof.Machine

abbrev Out := Host.Outcome State Fault Refusal

/-! ## Memory (R199, R225) -/

def sbufBase : Nat := 2 ^ 40
def cellBase : Nat := 2 ^ 41
def tileBase : Nat := 2 ^ 42
def hostBase : Nat := 2 ^ 61

/-- Canonical form of the one memory: addresses strictly rising, no entry equal to the 0 that an unlisted byte reads. -/
def Memory.wf (m : Tab Byte) : Bool := Tab.wf 0 m

/-- One byte of the one memory; an unlisted byte is 0 (R25). -/
def rdByte (s : State) (a : Nat) : Byte := s.mem.get 0 a

def memSet (m : Tab Byte) (a : Nat) (b : Byte) : Tab Byte := m.set 0 a b

def wrByte (s : State) (a : Nat) (b : Byte) : State := { s with mem := memSet s.mem a b }

/-- The bytes at `a`, `a + 1`, ... -/
def rdBytes (s : State) (a : Nat) : Nat → List Byte
  | 0 => []
  | n + 1 => rdByte s a :: rdBytes s (a + 1) n

def memSets (m : Tab Byte) (a : Nat) : List Byte → Tab Byte
  | [] => m
  | b :: t => memSets (memSet m a b) (a + 1) t

def wrBytes (s : State) (a : Nat) (l : List Byte) : State := { s with mem := memSets s.mem a l }

/-- An aligned word, little-endian (R2). -/
def rdWord (s : State) (a : Nat) : Word := BitVec.ofNat 32 (leNat (rdBytes s a 4))

def wrWord (s : State) (a : Nat) (v : Word) : State := wrBytes s a (leBytes 4 v.toNat)

/-- `n` consecutive words. -/
def rdWords (s : State) (a : Nat) : Nat → List Word
  | 0 => []
  | n + 1 => rdWord s a :: rdWords s (a + 4) n

def wrWords (s : State) (a : Nat) : List Word → State
  | [] => s
  | v :: t => wrWords (wrWord s a v) (a + 4) t

/-- A 64-bit value, low word first. -/
def rdDword (s : State) (a : Nat) : Nat := leNat (rdBytes s a 8)

def wrDword (s : State) (a : Nat) (v : Nat) : State := wrBytes s a (leBytes 8 v)

/-- Full-empty bit of the word at `a` (R202). -/
def isFull (s : State) (a : Nat) : Bool := s.full.get false (a / 4)

def setFull (s : State) (a : Nat) (v : Bool) : State := { s with full := s.full.set false (a / 4) v }

def setFulls (s : State) (a : Nat) (v : Bool) : Nat → State
  | 0 => s
  | n + 1 => setFulls (setFull s a v) (a + 4) v n

/-- All of `n` words are full. -/
def allFull (s : State) (a : Nat) : Nat → Bool
  | 0 => true
  | n + 1 => isFull s a && allFull s (a + 4) n

/-- Poison mark of a bank word (R285). -/
def isPoison (s : State) (a : Nat) : Bool := s.poison.get false (a / 4)

def clearPoison (s : State) (a : Nat) : Nat → State
  | 0 => s
  | n + 1 => clearPoison { s with poison := s.poison.set false (a / 4) false } (a + 4) n

/-- A write of the whole 64-byte line of HBM4 replaces an uncorrectable one (R288). -/
def wholeLine (s : State) (a : Nat) : State := { s with uncorr := s.uncorr.set false (a / 64) false }

/-- Storage whose keys satisfy `p` is zero, with its words empty and free of marks and upsets. -/
def dropKeys (p : Nat → Bool) (s : State) : State :=
  { s with mem := s.mem.filter (fun e => !p e.1), full := s.full.filter (fun e => !p (4 * e.1)),
           poison := s.poison.filter (fun e => !p (4 * e.1)), soft := s.soft.filter (fun e => !p (4 * e.1)) }

def anyPoison (s : State) (a : Nat) : Nat → Bool
  | 0 => false
  | n + 1 => isPoison s a || anyPoison s (a + 4) n

/-- Words as one value, first word lowest. -/
def wordsNat : List Word → Nat
  | [] => 0
  | v :: t => v.toNat + 2 ^ 32 * wordsNat t

/-- The first `n` words of a value. -/
def natWords : Nat → Nat → List Word
  | 0, _ => []
  | n + 1, v => BitVec.ofNat 32 v :: natWords n (v / 2 ^ 32)

/-! ## Cells and islands (R5, R12, R13) -/

/-- Island of the fabric at island row `r` and column `c` (0 to 31 across the four dies). -/
def fabricIsl (r c : Nat) : Nat := 64 * (c / 8) + 8 * r + c % 8

/-- Fabric islands are 0 to 255, SI0 to SI3 256 to 259, the holm island 260. -/
def isFabric (isl : Nat) : Bool := decide (isl < 256)

/-- Die identifier of an island (R10). -/
def dieOf (isl : Nat) : Nat := if isl < 256 then isl / 64 else 8

/-- Row and column of cell C of a fabric island on its die (R5). -/
def cellRow (isl c : Nat) : Nat := 4 * (isl % 64 / 8) + c / 4
def cellCol (isl c : Nat) : Nat := 4 * (isl % 8) + c % 4

/-- Number of a cell: die·1056 + row·33 + column on the fabric, then the service cells, then the holm cells. -/
def cellIdx (isl c : Nat) : Nat :=
  if isl < 256 then isl / 64 * 1056 + cellRow isl c * 33 + cellCol isl c
  else 4224 + 16 * (isl - 256) + c

def bankKey (isl c w : Nat) : Nat := cellBase + 65536 * cellIdx isl c + 4 * w

/-- Byte key of a physical tile register's word (R445). -/
def tileKey (isl e tile row col : Nat) : Nat := tileBase + 8192 * (16 * (4 * isl + e) + tile) + 4 * (32 * row + col)

/-- Owner partition of an island (R141); service and holm islands act for partition 0. -/
def ownerOf (s : State) (isl : Nat) : Nat := s.sched.owner.get 0 isl

/-! ## Contexts -/

def ctxKey (isl slot : Nat) : Nat := 8 * isl + slot

def ctxAt (s : State) (isl slot : Nat) : Ctx := s.ctxs.get {} (ctxKey isl slot)

def setCtx (s : State) (isl slot : Nat) (c : Ctx) : State := { s with ctxs := s.ctxs.set {} (ctxKey isl slot) c }

def modCtx (s : State) (isl slot : Nat) (f : Ctx → Ctx) : State := setCtx s isl slot (f (ctxAt s isl slot))

/-- The active slot of an island (R180: at most one). -/
def activeSlot (s : State) (isl : Nat) : Option Nat :=
  (List.range 8).find? (fun σ => (ctxAt s isl σ).st == .active)

/-- The context of the executing step. -/
def curCtx (s : State) : Ctx := ctxAt s s.cur.isl s.cur.slot

/-- Slot number 8C + K of the executing step. -/
def curSlotNo (s : State) : Nat := 8 * s.cur.cell + s.cur.k

def threadAt (s : State) (t : Nat) : Thread := s.sched.threads.get {} t

def setThread (s : State) (t : Nat) (th : Thread) : State :=
  { s with sched := { s.sched with threads := s.sched.threads.set {} t th } }

def modThread (s : State) (t : Nat) (f : Thread → Thread) : State := setThread s t (f (threadAt s t))

/-- The context of the same thread's frame on another island of the region. -/
def peerSlot (s : State) (c : Ctx) (isl : Nat) : Option Nat :=
  (List.range 8).find? (fun σ =>
    let d := ctxAt s isl σ
    d.st != .free && d.thread == c.thread && d.frame == c.frame && d.part == c.part)

/-- Island of region-relative row and column of a context's region. -/
def regionIsl (s : State) (c : Ctx) (isl r col : Nat) : Nat :=
  if 256 ≤ isl then 256 + col
  else match c.thread with
    | some t => let th := threadAt s t; fabricIsl (th.orow + r) ((th.ocol + col) % 32)
    | none => fabricIsl (isl % 64 / 8 - c.blkIdx / c.w + r) ((isl / 64 * 8 + isl % 8 + 32 - c.blkIdx % c.w + col) % 32)

/-- Cell record of a cell (R323). -/
def cellCfg (c : Ctx) (cell : Nat) : Option CellCfg := c.block.cells.find? (fun r => r.cell == cell)

/-- Words of a cell's window: 64·WLEN (R200). -/
def winLen (c : Ctx) (cell : Nat) : Nat := match cellCfg c cell with | some r => 64 * r.wlen | none => 0

/-- First bank word of a cell's window (R200); on a service island the same halves are its two banks (R121), and the holm island has no halves (R13). -/
def winBase (s : State) (isl slot : Nat) (c : Ctx) (cell : Nat) : Nat :=
  let wb := match cellCfg c cell with | some r => 64 * r.wbase | none => 0
  if (if isl < 256 then ownerOf s isl = 0 else isl < 260) ∧ 4 ≤ slot then 8192 + wb else wb

/-- Memory key of window word `a` of a cell. -/
def winKey (s : State) (isl slot : Nat) (c : Ctx) (cell a : Nat) : Nat :=
  bankKey isl cell (winBase s isl slot c cell + a)

/-- Operator state word `i` of a slot (R360, R268). -/
def opWord (c : Ctx) (slotNo i : Nat) : Word := c.opst.get 0 (16 * slotNo + i)

def setOpWord (c : Ctx) (slotNo i : Nat) (v : Word) : Ctx := { c with opst := c.opst.set 0 (16 * slotNo + i) v }

def setOpWords (c : Ctx) (slotNo : Nat) : List (Nat × Word) → Ctx
  | [] => c
  | (i, v) :: t => setOpWords (setOpWord c slotNo i v) slotNo t

/-- Firing sequence number of a slot: words 14 and 15 of its operator state (R255, R268). -/
def firingNo (c : Ctx) (slotNo : Nat) : Nat := (opWord c slotNo 14).toNat + 2 ^ 32 * (opWord c slotNo 15).toNat

def bumpFiring (c : Ctx) (slotNo : Nat) : Ctx :=
  let n := firingNo c slotNo + 1
  setOpWord (setOpWord c slotNo 14 (BitVec.ofNat 32 n)) slotNo 15 (BitVec.ofNat 32 (n / 2 ^ 32))

/-- Keep register k of a cell (R171). -/
def keepOf (c : Ctx) (cell k : Nat) : Word := c.keeps.get 0 (8 * cell + k)
def setKeep (c : Ctx) (cell k : Nat) (v : Word) : Ctx := { c with keeps := c.keeps.set 0 (8 * cell + k) v }

/-- Scale register j of the context's half of a cell (R170). -/
def scaleOf (c : Ctx) (cell j : Nat) : Word := c.scales.get 0 (8 * cell + j)

/-! ## Buffers (R173 to R177) -/

def opKey (slotNo : Nat) (pos : Nat) : Nat := 4 * slotNo + pos
def vcKey (cell vc : Nat) : Nat := 512 + 32 * cell + vc
def latchKey (cell : Nat) : Nat := 1088 + cell
def engKey (e p : Nat) : Nat := 1152 + 4 * e + p
def swKey (cell side : Nat) : Nat := 2048 + 8 * cell + side
def viaKey (cell vc : Nat) : Nat := 3584 + 32 * cell + vc
/-- Cell whose switchbox, or whose VC to a unit, a place belongs to. -/
def placeCell (p : Nat) : Nat := if p % 4096 < 3584 then p % 2048 / 8 else (p % 4096 - 3584) / 32

def bufOf (c : Ctx) (k : Nat) : List Tok := c.bufs.get [] k
def setBuf (c : Ctx) (k : Nat) (l : List Tok) : Ctx := { c with bufs := c.bufs.set [] k l }

/-- Field values of a VC entry (R336). -/
def vcCell (e : Word) : Nat := bitsOf e.toNat 3 0
def vcVc (e : Word) : Nat := bitsOf e.toNat 8 4
def vcK (e : Word) : Nat := bitsOf e.toNat 11 9
def vcPos (e : Word) : Nat := bitsOf e.toNat 13 12
def vcFmt (e : Word) : Nat := bitsOf e.toNat 31 16

/-- The VC entries that feed operand `pos` of slot K of a cell (R336). -/
def vcsOf (c : Ctx) (cell k pos : Nat) : List Word :=
  c.block.vcs.filter (fun e => vcCell e == cell && vcK e == k && vcPos e == pos)

/-- The buffer key that an operand reads: its VC's input buffer or its own operand buffer. -/
def operandKey (c : Ctx) (cell k pos : Nat) : Nat :=
  match vcsOf c cell k pos with
  | e :: _ => vcKey cell (vcVc e)
  | [] => opKey (8 * cell + k) pos

/-- Tokens of a buffer, with the escape latch's item as the tail of its VC's buffer (R198). -/
def bufFull (c : Ctx) (cell key : Nat) : List Tok :=
  if 512 ≤ key ∧ key < 1024 then
    bufOf c key ++ (bufOf c (latchKey cell)).filter (fun t => t.src == 256 + key % 32)
  else bufOf c key

/-- Remove `n` tokens from a buffer's head; the latch's item goes when the buffer is empty (R198). -/
def popBuf (c : Ctx) (cell key n : Nat) : Ctx :=
  let l := bufOf c key
  let c := setBuf c key (l.drop n)
  if l.length < n ∧ 512 ≤ key ∧ key < 1024 then
    setBuf c (latchKey cell) ((bufOf c (latchKey cell)).drop (n - l.length))
  else c

/-- Route word fields (R333, R334). -/
def rtKind (r : DWord) : Nat := bitsOf r.toNat 3 0
/-- What a route word carries from its source: none for VCROUTE and ENGIN words, whose consumer decides. -/
def rtRecord (r : DWord) : Nat :=
  match rtKind r with
  | 3 => bitsOf r.toNat 47 32
  | 7 => bitsOf r.toNat 45 30
  | 8 => bitsOf r.toNat 32 17
  | _ => 0

/-- Fields of an END (R333). -/
def endVc (e : Nat) : Nat := bitsOf e 4 0
def endCell (e : Nat) : Nat := bitsOf e 8 5
def endRow (e : Nat) : Nat := bitsOf e 11 9
def endCol (e : Nat) : Nat := bitsOf e 16 12

/-- The END that a route word names: its source for GENPORT inputs, COPYPORT and STREAMPORT inputs, else its
destination. -/
def rtEnd (r : DWord) : Nat :=
  match rtKind r with
  | 1 => bitsOf r.toNat 29 13
  | 3 => bitsOf r.toNat 31 15
  | 4 => bitsOf r.toNat 28 12
  | 6 => bitsOf r.toNat 25 9
  | 7 => bitsOf r.toNat 29 13
  | 9 => bitsOf r.toNat 24 8
  | _ => 0

/-- Source cell and VC of a route word that an operator feeds (R335); none for a word that feeds the fabric. -/
def rtSource (r : DWord) : Option (Nat × Nat) :=
  match rtKind r with
  | 1 => some (bitsOf r.toNat 12 9, bitsOf r.toNat 8 4)
  | 3 => if bitsOf r.toNat 13 12 = 2 ∧ bitsOf r.toNat 14 14 = 0 then none else some (endCell (rtEnd r), endVc (rtEnd r))
  | 6 => some (endCell (rtEnd r), endVc (rtEnd r))
  | 7 => if bitsOf r.toNat 12 12 = 0 then some (endCell (rtEnd r), endVc (rtEnd r)) else none
  | 8 => some (bitsOf r.toNat 11 8, bitsOf r.toNat 16 12)
  | _ => none

/-- The route word bound to a VC out of a cell (R335). -/
def routeOf (c : Ctx) (cell vc : Nat) : Option DWord := c.block.routes.find? (fun r => rtSource r == some (cell, vc))

/-- The buffer of an END of a context's region, seen from one of its islands. -/
def endDest (s : State) (c : Ctx) (isl e : Nat) : Option Dest :=
  let i := regionIsl s c isl (endRow e) (endCol e)
  match peerSlot s c i with
  | some σ => some (.buf i σ (vcKey (endCell e) (endVc e)))
  | none => none

/-- Where a token leaving on a VC goes (R307, R334). -/
def vcDest (s : State) (c : Ctx) (isl cell vc : Nat) : Option Dest :=
  match routeOf c cell vc, c.legs.find? (fun e => e.1 == 32 * cell + vc) with
  | none, _ => none
  | some _, some (_, leg) => some (.circuit leg)
  | some r, none =>
    match rtKind r with
    | 1 => endDest s c isl (rtEnd r)
    | 3 => some (.gen (bitsOf r.toNat 5 4) (bitsOf r.toNat 11 6) (bitsOf r.toNat 13 12))
    | 6 => some (.ce (bitsOf r.toNat 5 4) (bitsOf r.toNat 8 6))
    | 7 => some (.sport (bitsOf r.toNat 5 4) (bitsOf r.toNat 11 6))
    | 8 => (peerSlot s c isl).map (fun σ => .buf isl σ (engKey (bitsOf r.toNat 5 4) (bitsOf r.toNat 7 6)))
    | _ => none

/-- The side by which a switched token leaves its cell: along its row first, then its column (log entry 6). -/
def sideTo (isl cell : Nat) : Dest → Nat
  | .buf i _ k =>
    let c := if 512 ≤ k ∧ k < 1024 then (k - 512) / 32 else cell
    if i ≠ isl ∧ (i ≥ 256 ∨ isl ≥ 256 ∨ i / 64 ≠ isl / 64) then 4
    else if cellCol isl cell < cellCol i c then 1
    else if cellCol i c < cellCol isl cell then 3
    else if cellRow i c < cellRow isl cell then 0
    else if cellRow isl cell < cellRow i c then 2
    else 4
  | _ => 4

/-- Where a token that leaves a cell on a VC waits: in the output buffer of the link that it takes, in the entry of its
buffer itself if it takes none, or for its unit by itself (log entry 6). -/
def placeOf (isl cell vc : Nat) (d : Dest) : Nat :=
  match d with
  | .buf i _ k => if i = isl ∧ sideTo isl cell d = 4 then k else swKey cell (sideTo isl cell d)
  | _ => viaKey cell vc

/-- Island and cell that the link of a side leads to. -/
def linkTo (isl cell side : Nat) : Nat × Nat :=
  let r := cellRow isl cell + (if side = 2 then 1 else 0) - (if side = 0 then 1 else 0)
  let c := cellCol isl cell + (if side = 1 then 1 else 0) - (if side = 3 then 1 else 0)
  (isl / 64 * 64 + 8 * (r / 4) + c / 4, 4 * (r % 4) + c % 4)

/-- The island, slot and key of the buffer that a token in a switchbox output buffer enters next: that of its VC at the
destination cell, or the output buffer of the next switchbox on its way (log entry 6). -/
def nextPlace (s : State) (f : Flight) : Option (Nat × Nat × Nat) :=
  match f.dest with
  | .buf i σ k =>
    if f.place % 8 = 4 then some (i, σ, k)
    else
      let (j, c) := linkTo f.isl (placeCell f.place) (f.place % 8)
      if j = i ∧ sideTo j c f.dest = 4 then some (i, σ, k)
      else match peerSlot s (ctxAt s f.isl f.slot) j with
        | some τ => some (j, τ, swKey c (sideTo j c f.dest))
        | none => some (i, σ, k)
  | _ => none

/-- A slot is counted in a buffer (R176). -/
def counted (s : State) (isl slot : Nat) : Bool :=
  (ctxAt s isl slot).st != .free || (decide (isl < 256) && ownerOf s isl == 0 && decide (slot < 4))

/-- The island, context slot and buffer key in which a target's token needs an entry. -/
def targetPlace (s : State) (isl slot cell : Nat) (t : Target) : Option Nat :=
  match t with
  | .operand pos n => some (opKey n.toNat pos.code)
  | .vc v =>
    match vcDest s (ctxAt s isl slot) isl cell v.toNat with
    | some d => some (placeOf isl cell v.toNat d)
    | none => some (viaKey cell v.toNat)
  | _ => none

/-- Tokens that a pending operation's results put on T0 and on T1. -/
def accNeed (a : Acc) : Nat × Nat :=
  match a.kind with
  | .load | .loadFull | .ctrRead => (if a.vec || a.n == 2 then 2 else 1, 1)
  | .fence _ | .trap => if a.vec then (2, 2) else (1, 1)
  | _ => (1, 1)

/-- Entries that a pending operation has reserved for its results in a buffer (R176). -/
def accReserve (s : State) (a : Acc) (isl slot place : Nat) : Nat :=
  if a.site.isl = isl ∧ a.site.slot = slot ∧ !a.done1 then
    (if targetPlace s isl slot a.site.cell a.t0 = some place then (accNeed a).1 else 0)
      + (if targetPlace s isl slot a.site.cell a.t1 = some place then (accNeed a).2 else 0)
  else 0

/-- Entries of a buffer that hold or are reserved for a context's tokens (R176). -/
def entries (s : State) (isl slot place : Nat) : Nat :=
  (bufOf (ctxAt s isl slot) place).length
    + (s.flights.filter (fun f => f.isl == isl && f.slot == slot && f.place == place)).length
    + (s.accs.map (fun a => accReserve s a isl slot place)).sum

/-- The demand D on a buffer if `n` more tokens of `slot` enter it (R176). -/
def demand (s : State) (isl slot place n : Nat) : Nat :=
  ((List.range 8).map (fun σ =>
    if counted s isl σ then max 1 (entries s isl σ place + (if σ = slot then n else 0)) else 0)).sum

/-- Tokens that a port of a unit or of an engine, or the sender of a leg, may hold before it pushes back. -/
def portLimit : Nat := 12

/-- `n` tokens of a context may enter a buffer (R176). The port of an engine is no channel buffer (R175, log entry 43). -/
def mayEnter (s : State) (isl slot place n : Nat) : Bool :=
  if 1152 ≤ place ∧ place < 1168 then decide (entries s isl slot place + n ≤ portLimit) else decide (demand s isl slot place n ≤ 8)

/-- Entries that a context may hold in a buffer at the most: the other counted slots keep one each (R176). -/
def mostRoom (s : State) (isl slot place : Nat) : Nat :=
  if 1152 ≤ place ∧ place < 1168 then portLimit
  else 8 - ((List.range 8).filter (fun σ => σ != slot && counted s isl σ)).length

/-- An occupied escape latch of the VC keeps its buffer shut (R198). -/
def shutBuf (s : State) (isl slot key : Nat) : Bool :=
  decide (512 ≤ key) && decide (key < 1024)
    && (bufOf (ctxAt s isl slot) (latchKey ((key - 512) / 32))).any (fun x => x.src == 256 + (key - 512) % 32)

/-- One token of a context may enter a buffer now. -/
def mayPut (s : State) (isl slot key : Nat) : Bool := !shutBuf s isl slot key && mayEnter s isl slot key 1

/-- Two tokens in flight leave a buffer in the order in which they entered it: those of one context over one VC, or over one
slot-operand edge (R175). -/
def sameQueue (f g : Flight) : Bool :=
  g.isl == f.isl && g.slot == f.slot && g.place == f.place && g.tok.src == f.tok.src && (f.place < 3072 || g.dest == f.dest)

/-! ## Sending tokens -/

/-- KIND and data of a token as it enters an operand: permits on b of PERMIT, bounds on c of CTR (R172, R377, R378). -/
def arriveAs (c : Ctx) (slotNo pos : Nat) (t : Tok) : Tok :=
  if t.stop ≠ 0 then t
  else match decodeOp ((c.block.insts.getD slotNo 0).toNat) with
    | .ok (.permit _) => if pos = 1 then { t with kind := .permit, data := 0 } else t
    | .ok (.ctr _) => if pos = 2 then { t with kind := .bound } else t
    | _ => t

/-- A token in flight to a buffer of an island, with its entry reserved there. -/
def sendTo (s : State) (isl slot place : Nat) (d : Dest) (t : Tok) : State :=
  { s with flights := s.flights ++ [{ dest := d, tok := t, isl := isl, slot := slot, place := place }] }

/-- Tokens of a VC or of a slot-operand edge wait to enter a buffer behind one that has entered it: they stand at place 4096 +
the buffer (R416, R424). -/
def heldBack (s : State) (isl slot place src : Nat) : Bool :=
  s.flights.any (fun f => f.isl == isl && f.slot == slot && f.place == 4096 + place && f.tok.src == src)

/-- Where a further token of a VC or of a slot-operand edge goes: no token comes between those that wait (R416). -/
def behind (s : State) (isl slot place src : Nat) : Nat := if heldBack s isl slot place src then 4096 + place else place

/-- Send one token to a target of an instruction of a cell (R307): a slot operand over the crossbar, a VC out by
`placeOf`. Other targets take no token. -/
def sendTarget (s : State) (isl slot cell srcNo which : Nat) (t : Target) (k : Tok) : State :=
  match t with
  | .operand pos n =>
    let key := opKey n.toNat pos.code
    let k := arriveAs (ctxAt s isl slot) n.toNat pos.code { k with src := 2 * srcNo + which }
    sendTo s isl slot (behind s isl slot key k.src) (.buf isl slot key) k
  | .vc v =>
    match vcDest s (ctxAt s isl slot) isl cell v.toNat with
    | some d => sendTo s isl slot (behind s isl slot (placeOf isl cell v.toNat d) (256 + v.toNat)) d { k with src := 256 + v.toNat }
    | none => s
  | _ => s

/-- Of the tokens in flight from number `n` on, all but the first that a firing put into buffer `p` wait behind it. -/
def holdBack (n p : Nat) (l : List Flight) : List Flight :=
  l.take n ++ rest p false (l.drop n)
where
  rest (p : Nat) : Bool → List Flight → List Flight
    | _, [] => []
    | seen, f :: r =>
      if f.place = p then (if seen then { f with place := 4096 + p } else f) :: rest p true r else f :: rest p seen r

def sendTokens (s : State) (isl slot cell srcNo which : Nat) (t : Target) : List Tok → State
  | [] => s
  | k :: r => sendTokens (sendTarget s isl slot cell srcNo which t k) isl slot cell srcNo which t r

/-- A scalar token (R172). -/
def scalarTok (v : Nat) (deps : List Nat) : Tok := { data := BitVec.ofNat 256 (v % 2 ^ 32), deps := deps }
/-- A stop token (R172). -/
def stopTok (l : Nat) (deps : List Nat) : Tok := { stop := l, deps := deps }
/-- One vector beat. -/
def beatTok (v : Nat) (deps : List Nat) : Tok := { data := BitVec.ofNat 256 v, kind := .vector, deps := deps }
/-- A vector as its two beats (R173). -/
def vecToks (v : Nat) (deps : List Nat) : List Tok := [beatTok v deps, beatTok (v / 2 ^ 256) deps]

/-! ## Events (R100 to R106) -/

/-- Little-endian bytes of a number. -/
def bytesLE (n v : Nat) : List Byte := leBytes n v

def queueAt (s : State) (q : Nat) : Queue := s.queues.get {} q
def setQueue (s : State) (q : Nat) (x : Queue) : State := { s with queues := s.queues.set {} q x }
def modQueue (s : State) (q : Nat) (f : Queue → Queue) : State := setQueue s q (f (queueAt s q))
def ringAt (s : State) (e : Nat) : Ring := s.rings.get {} e
def setRing (s : State) (e : Nat) (x : Ring) : State := { s with rings := s.rings.set {} e x }
def modRing (s : State) (e : Nat) (f : Ring → Ring) : State := setRing s e (f (ringAt s e))

/-- Two events are raised in the same cycle. -/
def sameCycle (a b : Event) : Bool := a.cycle == b.cycle && a.time == b.time

/-- An event takes its place among those raised: after every earlier one, and within its cycle in increasing source number,
with device events last (R104). -/
def raiseInto (ev : Event) : List Event → List Event
  | [] => [ev]
  | e :: t => if sameCycle e ev ∧ ev.src < e.src then ev :: e :: t else e :: raiseInto ev t

def raiseOn (r : Ring) (ev : Event) : Ring := { r with waiting := raiseInto ev r.waiting }

/-- A device event raised now (R102). -/
def deviceEvent (s : State) (code : Nat) (detail : List Byte) : Event :=
  { code := code, detail := detail, time := s.dtime, cycle := s.cycle }

/-- An event of a queue for the queue's ring (R101): partition, level and depth of the queue in byte 11 (R100). -/
def postQueueEvent (s : State) (q code pos hdr : Nat) (detail : List Byte) (depth : Nat) (faults : Bool) : State :=
  let x := queueAt s q
  let ev : Event := { code := code, src := q, b11 := x.part + 16 * x.level + 32 * depth, pos := pos, hdr := hdr,
                      detail := detail, time := s.dtime, cycle := s.cycle, faults := faults }
  modRing s x.evr (fun r => raiseOn r ev)

/-- Give a device event to each enabled ring of partition 0. -/
def postRings (s : State) (ev : Event) : List Nat → State
  | [] => s
  | e :: t =>
    let r := ringAt s e
    postRings (if r.en ∧ r.part = 0 then setRing s e (raiseOn r { ev with b11 := r.part }) else s) ev t

/-- A device event (R102): to every enabled ring of partition 0, or to the overflow of 16 while there is none. -/
def postDeviceEvent (s : State) (code : Nat) (detail : List Byte) : State :=
  let ev := deviceEvent s code detail
  if (List.range 32).any (fun e => (ringAt s e).en && (ringAt s e).part == 0) then postRings s ev (List.range 32)
  else if s.devOverflow.length < 16 then { s with devOverflow := s.devOverflow ++ [ev] } else s

/-! ## Faults (R254 to R264) -/

/-- The codes of R256 that are resumable. -/
def resumableCode (c : Nat) : Bool := [0x9001, 0x9002, 0x9007, 0x901F].contains c

/-- A thread takes a fault (R262, R264): a resumable one is added to those it holds; the first terminal one is recorded,
and every later fault, resumable or not, raises OTHERS. The faulting slot fires no more (R255). -/
def threadFault (s : State) (t : Nat) (r : StopRec) : State :=
  let r := { r with time := s.dtime }
  modThread s t (fun th =>
    let th := if r.slot = 255 then th else { th with blocked := th.blocked ++ [128 * r.block + r.slot] }
    match th.stop with
    | some f => { th with stop := some { f with others := min 255 (f.others + 1) } }
    | none => if resumableCode r.code then { th with resumable := th.resumable ++ [r] } else { th with stop := some r })

/-- A fault at a slot of a context: `firing` is the number of the firing that raised it (R255). A context that is no thread's has no
record: its slot does not fire (log entry 77). -/
def raiseAt (s : State) (site : Site) (firing code addr d1 d2 : Nat) : State :=
  let c := ctxAt s site.isl site.slot
  match c.thread with
  | some t => threadFault s t { code := code, firing := firing, block := c.blkIdx, slot := 8 * site.cell + site.k,
                                addr := addr, detail1 := d1, detail2 := d2 }
  | none => s

/-- A fault of the slot that is firing (R255). -/
def raiseHere (s : State) (code addr d1 d2 : Nat) : State :=
  raiseAt s s.cur (firingNo (curCtx s) (curSlotNo s)) code addr d1 d2

/-- FLT_STREAM_MISMATCH at the firing slot (R185). -/
def raiseMismatch (s : State) : State := raiseHere s 0x9016 0 0 0

/-- A fault of a unit that works for a thread: generator (1), copy engine (2), matrix engine (3). `unit` holds the unit
number and the die as bytes 22 and 23 of the record do. -/
def raiseUnit (s : State) (t kind unit elem code addr d1 : Nat) : State :=
  threadFault s t { code := code, kind := kind, unit := unit, elem := elem, addr := addr, detail1 := d1 }

/-- Append a record to the fault queue with the next FSEQ (R254, R257). -/
def pushRecord (s : State) (r : FaultRec) : State :=
  { s with faults := { s.faults with queue := s.faults.queue ++ [{ r with fseq := s.faults.nextSeq }],
                                     nextSeq := s.faults.nextSeq + 1 } }

/-- Entries in use in the fault queue: a record with a map takes two (R257). -/
def faultEntries (s : State) : Nat := (s.faults.queue.map (fun r => if r.map.isSome then 2 else 1)).sum

/-- A value that the spec leaves open, and the state with the counter of free values advanced. -/
def drawWord (s : State) : Word × State := (Config.freeWord s.freeCount, { s with freeCount := s.freeCount + 1 })

/-- Any of the numbers that are still to be done. -/
def pickOf (s : State) (l : List Nat) : Nat × State :=
  match l with
  | [] => (0, s)
  | [j] => (j, s)
  | _ => let (w, s) := drawWord s; (l.getD (w.toNat % l.length) 0, s)

/-- The executing slot may fire: its context is active and no fault has stopped it (R182, R255). -/
def mayFire (s : State) : Bool :=
  (curCtx s).st == .active &&
    (match (curCtx s).thread with
     | some t => !(threadAt s t).blocked.contains (128 * (curCtx s).blkIdx + curSlotNo s)
     | none => true)

end Sys2Proof.Machine
end

