-- ==== Sys2Proof/Machine/Errors.lean ====
section
/-! DEFINITION. What a reader finds in storage: poison marks and errors of a cell bank (R203, R272, R285), codewords of
HBM4 (R288, R289), and requests to host memory with their completions (R61). -/
namespace Sys2Proof.Machine

/-! ## CELLREL numbers -/

/-- CELLREL number of the cell that answers for a fabric cell: the cell itself, or the skerry cell that serves it (R283). -/
def servingRel (s : State) (n : Nat) : Nat := if n % 33 ≠ 32 ∧ (s.rel.cells.get {} n).state = 1 then n / 33 * 33 + 32 else n

def modRel (s : State) (i : Nat) (f : CellRel → CellRel) : State :=
  { s with rel := { s.rel with cells := s.rel.cells.set {} i (f (s.rel.cells.get {} i)) } }

/-- A corrected bank read raises CECNT of a fabric cell (R203, R287). -/
def correctedBank (s : State) (key : Nat) : State :=
  let n := (key - cellBase) / 65536
  if 4224 ≤ n then s else modRel s (servingRel s n) (fun c => { c with cecnt := min 255 (c.cecnt + 1) })

/-! ## HBM4 (R288, R289) -/

/-- HBM_RETIRE for the 8 KiB frame of an address; the holm adds the frame to the retired list (R289). -/
def retireFrame (s : State) (pa : Nat) : State :=
  let f := pa / 8192 * 8192
  let s := postDeviceEvent s 0x8024 (leBytes 1 (4 + pa / 2 ^ 36) ++ leBytes 3 0 ++ leBytes 8 f)
  if s.flash.retired.contains f ∨ 1024 ≤ (s.flash.retired.filter (fun g => g / 2 ^ 36 == pa / 2 ^ 36)).length then s
  else { s with flash := { s.flash with retired := s.flash.retired ++ [f] } }

def correctedLine (s : State) (pa : Nat) : State :=
  let n := s.rel.corr.get 0 (pa / 8192) + 1
  let s := { s with rel := { s.rel with corr := s.rel.corr.set 0 (pa / 8192) n } }
  if n = 16 then retireFrame s pa else s

/-- A line is found uncorrectable; the first uncorrectable read of a frame retires it (R289). -/
def brokenLine (s : State) (pa : Nat) : State :=
  let s := { s with uncorr := s.uncorr.set false (pa / 64) true }
  if s.rel.broke.get false (pa / 8192) then s
  else retireFrame { s with rel := { s.rel with broke := s.rel.broke.set false (pa / 8192) true } } pa

/-! ## Reads -/

/-- The upset of a stored word or line: 0 none, 1 correctable, 2 an uncorrectable read that a second read does not repeat,
3 uncorrectable. -/
def softAt (s : State) (k : Nat) : Nat := s.soft.get 0 (k / 4)
def setSoft (s : State) (k v : Nat) : State := { s with soft := s.soft.set 0 (k / 4) v }

/-- Keys of the storage units that `n` words from a key lie in: the words of a bank, the 64-byte lines of HBM4. Other storage
has no error of its own. -/
def unitsOf (k n : Nat) : List Nat :=
  if cellBase ≤ k ∧ k < tileBase then (List.range n).map (fun j => k + 4 * j)
  else if k < sbufBase then (List.range ((k % 64 + 4 * n + 63) / 64)).map (fun j => (k / 64 + j) * 64)
  else []

/-- What a read finds. -/
inductive Found where
  | good
  | poisoned (j : Nat)
  | bad
  deriving DecidableEq, Repr

/-- The first poisoned word among `n` words from a key, as its number. -/
def firstPoison (s : State) (k : Nat) (n : Nat) : Option Nat := (List.range n).find? (fun j => isPoison s (k + 4 * j))

/-- A correctable error is corrected, written back and counted (R203, R288). -/
def correctAll (s : State) : List Nat → State
  | [] => s
  | k :: t =>
    correctAll (if softAt s k = 1 then (let s := setSoft s k 0; if k < sbufBase then correctedLine s k else correctedBank s k) else s) t

/-- A read of `n` words at a key: poison of a bank word, an uncorrectable word or line, or good data, with what it counts. -/
def readCheck (s : State) (k n : Nat) : Found × State :=
  match (if cellBase ≤ k ∧ k < tileBase then firstPoison s k n else none) with
  | some j => (.poisoned j, s)
  | none =>
    match (unitsOf k n).find? (fun x => decide (2 ≤ softAt s x) || (decide (x < sbufBase) && s.uncorr.get false (x / 64))) with
    | some x => (.bad, if x < sbufBase then brokenLine (setSoft s x 0) x else s)
    | none => (.good, correctAll s (unitsOf k n))

/-- The words are written: their errors are gone with their poison. -/
def writtenBank (s : State) (k n : Nat) : State :=
  (unitsOf k n).foldl (fun s x => setSoft s x 0) (clearPoison s k n)

/-- The whole lines of HBM4 among `n` bytes from a key are written: an uncorrectable one is replaced (R288). -/
def writeLines (s : State) (k n : Nat) : State :=
  if k < sbufBase then
    ((List.range ((k + n) / 64 - (k + 63) / 64)).map (fun j => ((k + 63) / 64 + j) * 64)).foldl (fun s x => wholeLine (setSoft s x 0) x) s
  else s

/-- Write bytes at a key; an uncorrectable line of HBM4 among them is replaced (R288). -/
def putBytes (s : State) (k : Nat) (l : List Byte) : State := writeLines (wrBytes s k l) k l.length

/-! ## Cell failures (R272, R273) -/

/-- The failure is that of a firing. -/
def failOf (isl slot cell k firing : Nat) (f : Failure) : Bool :=
  f.isl == isl && f.slot == slot && f.cell == cell && f.k == k && f.firing == firing

/-- A firing of a cell has consumed an uncorrectable error, that of a read of the words with keys `ws` if it was one: it fails, and
the cell stands until the failure is handled. -/
def failFiring (s : State) (x : Site) (firing : Nat) (ws : List Nat) : State :=
  if s.rel.fails.any (failOf x.isl x.slot x.cell x.k firing) then s
  else { s with rel := { s.rel with fails := s.rel.fails ++ [{ isl := x.isl, slot := x.slot, cell := x.cell, k := x.k, firing := firing, words := ws }] } }

/-- A failure of the cell has not been handled. -/
def cellFailed (s : State) (isl cell : Nat) : Bool := s.rel.fails.any (fun f => f.isl == isl && f.cell == cell)

/-! ## Order at a port (R230) -/

/-- The operation reads or writes a location. -/
def isAccess (a : Acc) : Bool :=
  match a.kind with
  | .load | .store | .loadFull | .clear | .storeFull | .ctrAdd | .ctrRead | .waitGe | .update => true
  | _ => false

/-- Words that an access covers; a counter has two. -/
def accSpan (a : Acc) : Nat :=
  match a.kind with
  | .waitGe => 2
  | _ => a.n

/-- Two operations on one location: by its key, or, where a fault holds one of them untranslated, by the VA. -/
def sameLoc (a b : Acc) : Bool :=
  let glob (x : Acc) : Bool := x.phase == .held || x.space == .hbm || x.space == .host
  let meet (x y : Nat) : Bool := decide (x < y + 4 * accSpan b) && decide (y < x + 4 * accSpan a)
  isAccess a && isAccess b &&
    (if a.phase == .held || b.phase == .held then glob a && glob b && meet a.va b.va
     else a.space == b.space && meet a.addr b.addr)

/-- One cell's memory path for one context (R230). -/
def samePort (a b : Acc) : Bool := a.site.isl == b.site.isl && a.site.slot == b.site.slot && a.site.cell == b.site.cell

/-- An earlier access of the port to the location is not performed (R230). -/
def portBehind (s : State) (a : Acc) : Bool :=
  s.accs.any (fun b => decide (b.id < a.id) && samePort a b && sameLoc a b && b.phase != .performed)

/-- The access reads its location. -/
def accReads (a : Acc) : Bool :=
  match a.kind with
  | .load | .loadFull | .ctrAdd | .ctrRead | .waitGe => true
  | _ => false

/-- An access of a bank by its own cell waits for a full word, now or behind an earlier access of its port. -/
def bankStuck (s : State) : Nat → Acc → Bool
  | 0, _ => true
  | n + 1, a => s.accs.any (fun b => decide (b.id < a.id) && samePort a b && sameLoc a b && b.phase != .performed
      && (b.phase == .waiting || bankStuck s n b))

/-- A read of the bank by an earlier firing of the cell, of those before access number `no`, has not found its words yet. -/
def readDue (s : State) (isl cell no : Nat) : Bool :=
  s.accs.any (fun a => a.site.isl == isl && a.site.cell == cell && a.space == .cell && accReads a && a.phase == .issued
    && decide (a.id < no) && !bankStuck s 16 a)

/-! ## Host memory (R61 to R63) -/

/-- The function bound to a partition (R58): the PF for partition 0 and service access (space 16), unless rebound. -/
def fnOf (s : State) (p : Nat) : Option Nat :=
  if p = 0 ∨ p = 16 then some 0
  else match s.pcie.bound.get 0 p with
    | 0 => none
    | n + 1 => some n

/-- Requests to host memory for a space succeed (R61 to R63): the link is up, a function is bound to the partition, is not
in a function-level reset and has been rebound after one. -/
def hostReach (s : State) (p : Nat) : Bool :=
  s.pcie.up &&
    (match fnOf s p with
     | none => false
     | some 0 => !s.pcie.pfFlr && !s.pcie.unbound.get false 0
     | some f => !s.pcie.flr.get false f && !s.pcie.unbound.get false f)

/-- Send a message out of the device. -/
def emitOut (s : State) (o : Output) : State := { s with out := s.out ++ [o] }

/-- A request to host memory for a space, under the requester ID of the function bound to it. It fails if it cannot be sent;
a read also if the host answers it with an abort or poisoned data, or not within 50 ms (R61). The completion of a read says that
the earlier writes of the function are complete at the host (R241). -/
def hostAsk (s : State) (p : Nat) (write : Bool) (addr n : Nat) : Bool × State :=
  if !hostReach s p then (false, s)
  else match fnOf s p with
    | none => (false, s)
    | some f =>
      let s := emitOut s (.hostReq f write addr n)
      if !write && s.pcie.abort.get false f then (false, { s with pcie := { s.pcie with abort := s.pcie.abort.set false f false } })
      else if write then (true, s)
      else (true, { s with pcie := { s.pcie with posted := s.pcie.posted.filter (fun w => w.fn != f) } })

/-- Requests that move `n` bytes at a host address, none of which crosses a multiple of its greatest size (R57): 4,096 bytes for a
read, 512 for a write. -/
def hostAsks (s : State) (p : Nat) (write : Bool) : Nat → Nat → Nat → Bool × State
  | 0, _, _ => (true, s)
  | k + 1, a, n =>
    if n = 0 then (true, s)
    else
      let size := if write then 512 else 4096
      let m := min n (size - a % size)
      match hostAsk s p write a m with
      | (false, s) => (false, s)
      | (true, s) => hostAsks s p write k (a + m) (n - m)

/-- A unit of the IOD reaches `n` words at a translated address: host memory through a request that succeeds (R61), HBM4
whose line is good or corrected, for a write too (R288, R495). The answer is the memory key, or the code of the fault (R256). -/
def placeKey (s : State) (p : Nat) (host : Bool) (a n : Nat) (write : Bool) : Except Nat Nat × State :=
  if host then
    match hostAsk s p write a (4 * n) with
    | (true, s) => (.ok (hostBase + a), s)
    | (false, s) => (.error 0x9005, s)
  else match readCheck s a n with
    | (.good, s) => (.ok a, s)
    | (_, s) => (.error 0x9006, s)

/-- A write to host memory by access `id` of a space, and of a thread, passes the posted queue (R241). -/
def postWrite (s : State) (p id : Nat) (t : Option Nat) : State :=
  match fnOf s p with
  | some f =>
    { s with pcie := { s.pcie with posted := s.pcie.posted ++ [{ id := id, fn := f, no := s.pcie.nextPost, thread := t }],
                                   nextPost := s.pcie.nextPost + 1 } }
  | none => s

/-- A read of a function that was issued when the next posted write had number `n` completes: what was posted before is complete
at the host (R241). -/
def readDone (s : State) (f n : Nat) : State :=
  { s with pcie := { s.pcie with posted := s.pcie.posted.filter (fun w => w.fn != f || decide (n ≤ w.no)) } }

/-- The reads of `fns`, issued when the next posted write had number `n`, are answered. -/
def askAll (n : Nat) : List Nat → State → Option State
  | [], s => some s
  | f :: t, s => if s.pcie.abort.get false f then none else askAll n t (readDone s f n)

/-- Every posted write of a thread is covered by what it fences from now on: its frame commits (R229, R233). -/
def agePosted (s : State) (t : Nat) : State :=
  { s with pcie := { s.pcie with posted := s.pcie.posted.map (fun w => if w.thread = some t then { w with old := true } else w) } }

/-- Functions whose posted writes a fence or release of a thread covers: writes that its tokens derive from, and those of the
thread's earlier frames (R233). -/
def postedOf (s : State) (t : Option Nat) (deps : List Nat) : List Nat :=
  ((s.pcie.posted.filter (fun w => (w.old && w.thread == t) || deps.any (fun d => d % 2 ^ 40 == w.id))).map (fun w => w.fn)).eraseDups

end Sys2Proof.Machine
end

