-- ==== Sys2Proof/Machine/Flags.lean ====
section
/-! DEFINITION. How a result is brought into its format and which flag that sets: sat, wrap and the saturation flag
(R294, R306), the carry of a split addition (R362), the compare results (R367), and the F flag's tests (R96). -/
namespace Sys2Proof.Machine

/-- sat(x, T) (R294). -/
def satTo (t : IntF) (x : Int) : Int := if t.maxv < x then t.maxv else if x < t.minv then t.minv else x

/-- The saturation flag: sat() changed its argument (R294). -/
def satFlag (t : IntF) (x : Int) : Bool := decide (satTo t x ≠ x)

/-- The pattern of sat(x, T) or wrap(x, T) as the saturate modifier selects (R294). -/
def fitTo (t : IntF) (sat : Bool) (x : Int) : Nat := t.pat (if sat then satTo t x else x)

/-- sat16 (R306). -/
def sat16 (x : Int) : Int := satTo ⟨16, true⟩ x

/-- The low part and the carry of A_u + B_u in lanes of width w (R362). -/
def addSplit (w a b : Nat) : Nat × Nat := ((a + b) % 2 ^ w, (a + b) / 2 ^ w)

/-- The six relations of CMP (R367): EQ, NE, LT, LE, GT, GE. -/
inductive CmpRel where
  | eq | ne | lt | le | gt | ge
  deriving DecidableEq, Repr

def CmpRel.holds (r : CmpRel) (a b : Int) : Bool :=
  match r with
  | .eq => decide (a = b) | .ne => decide (a ≠ b) | .lt => decide (a < b) | .le => decide (a ≤ b)
  | .gt => decide (b < a) | .ge => decide (b ≤ a)

/-- 1 or 0. -/
def flagNat (b : Bool) : Nat := if b then 1 else 0

end Sys2Proof.Machine
end

