-- ==== Sys2Proof/Machine/Operands.lean ====
section
/-! DEFINITION. What a slot's operands present, the alignment of streams (R185, R358), the predicate (R328), and a
firing: it consumes, writes operator state, and delivers its outputs (R307). Every operator is a plan made from what
its operands present, carried out by `operate`. -/
namespace Sys2Proof.Machine

/-- What an operand presents: nothing (or half a vector), a stop token, data (32 or 512 bits), or a vector broken by
another token (R173). -/
inductive Inp where
  | empty
  | stop (l : Nat)
  | data (v : Nat)
  | broken
  deriving DecidableEq, Repr, Inhabited

/-- Everything a plan reads: the operands, their format records and scale registers, the slot's operator state, and, if a bound
has arrived in this cycle, the bound that was pending as the cycle began (R189). -/
structure Ins where
  a : Inp := .empty
  b : Inp := .empty
  c : Inp := .empty
  p : Inp := .empty
  fa : Nat := 0
  fb : Nat := 0
  fc : Nat := 0
  fp : Nat := 0
  ha : Nat := 0
  hb : Nat := 0
  hc : Nat := 0
  st : List Word := []
  early : Option (Option Word) := none
  deriving DecidableEq, Repr

/-- What a buffer's head presents, for an edge that carries vectors or not (R173). -/
def presents (vec : Bool) (l : List Tok) : Inp :=
  match l with
  | [] => .empty
  | t :: r =>
    if t.stop ≠ 0 then .stop t.stop
    else if vec then
      if t.kind ≠ .vector then .broken
      else match r with
        | [] => .empty
        | u :: _ => if u.kind = .vector ∧ u.stop = 0 then .data (t.data.toNat + 2 ^ 256 * u.data.toNat) else .broken
    else .data (t.data.toNat % 2 ^ 32)

/-- Format record of an operand's edge (R313). -/
def operandFmt (c : Ctx) (cell k pos : Nat) : Nat := c.fmts.get 0 (opKey (8 * cell + k) pos)

/-- What operand `pos` of a slot presents. -/
def operandIn (c : Ctx) (cell k pos : Nat) : Inp :=
  presents (fmtVEC (operandFmt c cell k pos)) (bufFull c cell (operandKey c cell k pos))

/-- Scale register named by an operand's edge (R308, R170). -/
def operandScale (c : Ctx) (cell k pos : Nat) : Nat := (scaleOf c cell (fmtSREG (operandFmt c cell k pos))).toNat

/-- The sixteen words of a slot's operator state. -/
def opState (c : Ctx) (slotNo : Nat) : List Word := (List.range 16).map (fun i => opWord c slotNo i)

/-- The bound that was pending for a counter as this cycle began, if one has arrived in it since (R189). -/
def earlyOf (s : State) (c : Ctx) (slotNo : Nat) : Option (Option Word) :=
  let e := c.early.get (0, none) slotNo
  if e.1 = s.cycle + 1 then some e.2 else none

/-- What the executing slot's operands present. -/
def insOf (s : State) : Ins :=
  let c := curCtx s
  let n := s.cur.cell
  let k := s.cur.k
  { a := operandIn c n k 0, b := operandIn c n k 1, c := operandIn c n k 2, p := operandIn c n k 3,
    fa := operandFmt c n k 0, fb := operandFmt c n k 1, fc := operandFmt c n k 2, fp := operandFmt c n k 3,
    ha := operandScale c n k 0, hb := operandScale c n k 1, hc := operandScale c n k 2, st := opState c (8 * n + k),
    early := earlyOf s c (8 * n + k) }

/-! ## Plans -/

/-- A value delivered to a target: a stop, a scalar of 32 bits, a vector of 512 bits, or single vector beats. -/
inductive OutV where
  | stop (l : Nat)
  | sc (v : Nat)
  | vec (v : Nat)
  | beats (l : List Nat)
  deriving DecidableEq, Repr, Inhabited

/-- A firing: the operands whose head is consumed, what goes to T0 (false) and T1 (true) in order, operator state words
written, the exit named, the operands whose head is read and left, whether its outputs and state derive from its state too, whether that state ends with it,
and how many single tokens it takes from a and b (0: a whole head). -/
structure Fire where
  eat : List Pos := []
  outs : List (Bool × OutV) := []
  st : List (Nat × Word) := []
  exit : Option Nat := none
  peek : List Pos := []
  keepsState : Bool := false
  endsState : Bool := false
  beatsA : Nat := 0
  beatsB : Nat := 0
  deriving DecidableEq, Repr, Inhabited

/-- What an operator does now: waits, raises FLT_STREAM_MISMATCH, or fires. -/
inductive Plan where
  | wait
  | mismatch
  | fire (f : Fire)
  deriving DecidableEq, Repr, Inhabited

def toBoth (v : OutV) : List (Bool × OutV) := [(false, v), (true, v)]

/-- Whether the predicate's condition holds for a token on p (R328). -/
def predHolds (m : PredMode) (fp v : Nat) : Bool :=
  match m with
  | .always => true
  | .ifNonzero => decide (v % 2 ^ fmtBits (fmtFMT fp) ≠ 0)
  | .ifZero => decide (v % 2 ^ fmtBits (fmtFMT fp) = 0)

/-- The predicate of R328 around a plan: a firing that consumes a data token on a takes one on p and, if the condition
fails, gives `other` in place of its effects; a stop on a goes with a stop of the same level on p. -/
def predicated (m : PredMode) (ins : Ins) (other : Fire → Fire) (pl : Plan) : Plan :=
  match m, pl with
  | .always, _ => pl
  | _, .fire f =>
    if f.eat.contains .a then
      match ins.a, ins.p with
      | _, .empty => .wait
      | .data _, .data v =>
        if predHolds m ins.fp v then .fire { f with eat := f.eat ++ [.p] }
        else .fire (other { f with eat := f.eat ++ [.p] })
      | .stop l, .stop h => if l = h then .fire { f with eat := f.eat ++ [.p] } else .mismatch
      | _, _ => .mismatch
    else pl
  | _, _ => pl

/-- With the condition false a firing consumes its inputs and does nothing else (R328). -/
def emitNothing (f : Fire) : Fire := { eat := f.eat }

/-! ## Alignment of streams (R185, R187, R358) -/

/-- What two aligned streams give now. -/
inductive Aligned where
  | wait
  | mismatch
  | both (x y : Nat)
  | onlyA (x : Nat)
  | onlyB (y : Nat)
  | drop (q : Pos)
  | stop (l : Nat) (eat : List Pos)
  deriving DecidableEq, Repr, Inhabited

/-- R185: la and lb the levels presented (0 data), h the higher, o the other. -/
def align (mm : MisMode) (a b : Inp) : Aligned :=
  match a, b with
  | .empty, _ | _, .empty => .wait
  | .broken, _ | _, .broken => .mismatch
  | .data x, .data y => .both x y
  | .stop la, .stop lb =>
    if la = lb then .stop la [.a, .b]
    else match mm with
      | .trap => .mismatch
      | .trunc => if la < lb then .drop .a else .drop .b
      | .pad => if la < lb then .stop la [.a] else .stop lb [.b]
  | .data x, .stop _ =>
    match mm with
    | .trap => .mismatch
    | .trunc => .drop .a
    | .pad => .onlyA x
  | .stop _, .data y =>
    match mm with
    | .trap => .mismatch
    | .trunc => .drop .b
    | .pad => .onlyB y

/-- Operand c of R358: consumed exactly when the firing produces an output. -/
def withC (useC : Bool) (c : Inp) (isStop : Option Nat) (k : Nat → Fire) : Plan :=
  if useC then
    match isStop, c with
    | _, .empty => .wait
    | none, .data v => let f := k v; .fire { f with eat := f.eat ++ [.c] }
    | some l, .stop h => if l = h then (let f := k 0; .fire { f with eat := f.eat ++ [.c] }) else .mismatch
    | _, _ => .mismatch
  else .fire (k 0)

/-- A form over a and b (or a and an immediate), with operand c if `useC`: `rdA`, `rdB`, `rdC` decode, `idn` is the
immediate or identity, `body` the outputs and state of a computed result. -/
def streams {α : Type} (mm : MisMode) (useB ib useC : Bool) (ins : Ins) (rdA rdB rdC : Nat → α) (idn : α)
    (body : α → α → α → Fire) : Plan :=
  if useB && !ib then
    match align mm ins.a ins.b with
    | .wait => .wait
    | .mismatch => .mismatch
    | .both x y => withC useC ins.c none (fun z => { body (rdA x) (rdB y) (rdC z) with eat := [.a, .b] })
    | .onlyA x => withC useC ins.c none (fun z => { body (rdA x) idn (rdC z) with eat := [.a] })
    | .onlyB y => withC useC ins.c none (fun z => { body idn (rdB y) (rdC z) with eat := [.b] })
    | .drop q => .fire { eat := [q] }
    | .stop l e => withC useC ins.c (some l) (fun _ => { eat := e, outs := toBoth (.stop l) })
  else
    match ins.a with
    | .empty => .wait
    | .broken => .mismatch
    | .data x => withC useC ins.c none (fun z => { body (rdA x) idn (rdC z) with eat := [.a] })
    | .stop l => withC useC ins.c (some l) (fun _ => { eat := [.a], outs := toBoth (.stop l) })

/-- A form with one stream input a (R187). -/
def oneStream (ins : Ins) (body : Nat → Fire) : Plan :=
  match ins.a with
  | .empty => .wait
  | .broken => .mismatch
  | .data x => .fire { body x with eat := [.a] }
  | .stop l => .fire { eat := [.a], outs := toBoth (.stop l) }

/-! ## Carrying out a plan -/

/-- Tokens of an output value (R307). -/
def outToks (v : OutV) (deps : List Nat) : List Tok :=
  match v with
  | .stop l => [stopTok l deps]
  | .sc x => [scalarTok x deps]
  | .vec x => vecToks x deps
  | .beats l => l.map (fun x => beatTok x deps)

def targetOfFlag (t0 t1 : Target) (b : Bool) : Target := if b then t1 else t0

/-- The buffer entries that a firing's outputs need: (place, entries). -/
def outNeeds (s : State) (t0 t1 : Target) : List (Bool × OutV) → List (Nat × Nat)
  | [] => []
  | (b, v) :: r =>
    match targetPlace s s.cur.isl s.cur.slot s.cur.cell (targetOfFlag t0 t1 b) with
    | some q => (q, (outToks v []).length) :: outNeeds s t0 t1 r
    | none => outNeeds s t0 t1 r

def needAt (l : List (Nat × Nat)) (p : Nat) : Nat := (l.map (fun e => if e.1 = p then e.2 else 0)).sum

/-- Every target can accept a token, and what the firing sends it (R176, R182). -/
def room (s : State) (t0 t1 : Target) (outs : List (Bool × OutV)) : Bool :=
  let l := outNeeds s t0 t1 outs
  [t0, t1].all (fun t => match targetPlace s s.cur.isl s.cur.slot s.cur.cell t with
    | some p => mayEnter s s.cur.isl s.cur.slot p (max 1 (needAt l p))
    | none => true)

/-- The source tag of the edge from a target of the executing slot. -/
def edgeTag (s : State) (which : Bool) (t : Target) : Nat :=
  match t with | .vc v => 256 + v.toNat | _ => 2 * curSlotNo s + flagNat which

/-- A target can accept what a firing sends it, as `room` has it; or it can accept one token, and all that the firing sends it are
more than the context may ever hold there: the rest follow as entries free, and none may still wait from an earlier firing. -/
def roomAt (s : State) (l : List (Nat × Nat)) (which : Bool) (t : Target) : Bool :=
  match targetPlace s s.cur.isl s.cur.slot s.cur.cell t with
  | some p =>
    mayEnter s s.cur.isl s.cur.slot p (max 1 (needAt l p))
      || (decide (mostRoom s s.cur.isl s.cur.slot p < needAt l p) && mayEnter s s.cur.isl s.cur.slot p 1
          && !heldBack s s.cur.isl s.cur.slot p (edgeTag s which t))
  | none => true

/-- A firing's outputs may leave (R176, R182, R307; log entry 72). -/
def canSend (s : State) (t0 t1 : Target) (outs : List (Bool × OutV)) : Bool :=
  room s t0 t1 outs || (roomAt s (outNeeds s t0 t1 outs) false t0 && roomAt s (outNeeds s t0 t1 outs) true t1)

/-- Of the tokens that a firing has sent, those that have no entry wait behind the first of their buffer (log entry 72). -/
def holdWide (s : State) (n : Nat) (l : List (Nat × Nat)) (fl : List Flight) : List Flight :=
  l.foldl (fun fl e => if mostRoom s s.cur.isl s.cur.slot e.1 < needAt l e.1 then holdBack n e.1 fl else fl) fl

/-- Tokens at the head of an operand that one consumption takes: two beats of a vector, one otherwise. -/
def headCount (c : Ctx) (cell k pos : Nat) (beats : Nat × Nat) : Nat :=
  if pos = 0 ∧ beats.1 ≠ 0 then beats.1
  else if pos = 1 ∧ beats.2 ≠ 0 then beats.2
  else match bufFull c cell (operandKey c cell k pos) with
  | [] => 0
  | t :: _ => if t.stop = 0 ∧ t.kind = .vector ∧ fmtVEC (operandFmt c cell k pos) then 2 else 1

/-- The tokens that a firing consumes. -/
def eatenToks (c : Ctx) (cell k : Nat) (eat : List Pos) (beats : Nat × Nat) : List Tok :=
  (eat.map (fun q => (bufFull c cell (operandKey c cell k q.code)).take (headCount c cell k q.code beats))).flatten

def eatAll (c : Ctx) (cell k : Nat) (beats : Nat × Nat) : List Pos → Ctx
  | [] => c
  | q :: t => eatAll (popBuf c cell (operandKey c cell k q.code) (headCount c cell k q.code beats)) cell k beats t

/-- A list of accesses without repeats. -/
def mergeDeps (l m : List Nat) : List Nat := l ++ m.filter (fun x => !l.contains x)

def depsOf (l : List Tok) : List Nat := l.foldl (fun d t => mergeDeps d t.deps) []

/-- The firing is recorded in the cell's input-latch history of 16 (R278). -/
def recordHist (c : Ctx) (cell k : Nat) (taken : List Tok) : Ctx :=
  let r : HistRec :=
    { k := k
      firing := firingNo c (8 * cell + k)
      taken := taken
      opst := opState c (8 * cell + k)
      keeps := (List.range 8).map (keepOf c cell) }
  let l := (c.hist.get [] cell) ++ [r]
  { c with hist := c.hist.set [] cell (l.drop (l.length - 16)) }

/-- Outputs of a slot in order: keeps are written (what a vector leaves in one is open), tokens sent, each with what it
derives from. -/
def deliverAt (s : State) (x : Site) (t0 t1 : Target) (deps : List Nat) : List (Bool × OutV) → State
  | [] => s
  | (b, v) :: r =>
    let t := targetOfFlag t0 t1 b
    match t with
    | .keep k =>
      match v with
      | .sc y => deliverAt (modCtx s x.isl x.slot (fun c => setKeep c x.cell k.toNat (BitVec.ofNat 32 y))) x t0 t1 deps r
      | .stop _ => deliverAt s x t0 t1 deps r
      | _ =>
        let (w, s) := drawWord s
        deliverAt (modCtx s x.isl x.slot (fun c => setKeep c x.cell k.toNat w)) x t0 t1 deps r
    | _ =>
      deliverAt (sendTokens s x.isl x.slot x.cell (8 * x.cell + x.k) (if b then 1 else 0) t (outToks v deps)) x t0 t1 deps r

def deliver (s : State) (t0 t1 : Target) (deps : List Nat) (outs : List (Bool × OutV)) : State :=
  deliverAt s s.cur t0 t1 deps outs

/-- An access that something derives from is not performed, or is a write that may not be complete at the host (R241). -/
def depLive (s : State) (d : Nat) : Bool :=
  s.accs.any (fun a => a.id == d % 2 ^ 40 && a.phase != .performed) || s.pcie.posted.any (fun p => p.id == d % 2 ^ 40)

/-- The accesses of a list that are not performed yet; all of them in debug mode, whose hazard detector follows every
chain (R290). -/
def liveDeps (s : State) (isl : Nat) (l : List Nat) : List Nat :=
  if (s.rel.cfg.get {} (dieOf isl)).debug then l
  else l.filter (depLive s)

/-- What the outputs of a firing derive from (R232, R233): what it consumed and, for a form with operator state, what
the state derives from. -/
def fireDeps (c : Ctx) (cell k : Nat) (f : Fire) : List Nat :=
  let d := depsOf (eatenToks c cell k (f.eat ++ f.peek) (f.beatsA, f.beatsB))
  if f.keepsState then mergeDeps (c.sdeps.get [] (8 * cell + k)) d else d

/-- The context after a firing has consumed and written its state. -/
def fireCtx (c : Ctx) (cell k : Nat) (f : Fire) : Ctx :=
  let n := 8 * cell + k
  let c := { c with begun := true }
  let taken := eatenToks c cell k f.eat (f.beatsA, f.beatsB)
  let deps := fireDeps c cell k f
  let c := recordHist c cell k taken
  let c := eatAll c cell k (f.beatsA, f.beatsB) f.eat
  let c := setOpWords c n f.st
  let c := if f.keepsState then { c with sdeps := c.sdeps.set [] n (if f.endsState then [] else deps) } else c
  bumpFiring c n

/-- The check stage holds the tokens sent since there were `n` in flight, as outputs of the newest firing (R273). -/
def holdFrom (n tag : Nat) (l : List Flight) : List Flight := l.take n ++ (l.drop n).map (fun f => { f with chk := some tag })

/-- What the outputs of a firing deliver to keeps (R307), in order: a keep is written as its output leaves the check stage
(R359). -/
def keepWrites (s : State) (t0 t1 : Target) : List (Bool × OutV) → List (Nat × Word) × State
  | [] => ([], s)
  | (b, v) :: r =>
    match targetOfFlag t0 t1 b, v with
    | .keep k, .sc y => let (l, s) := keepWrites s t0 t1 r; ((k.toNat, BitVec.ofNat 32 y) :: l, s)
    | .keep _, .stop _ => keepWrites s t0 t1 r
    | .keep k, _ =>
      let (w, s) := drawWord s
      let (l, s) := keepWrites s t0 t1 r
      ((k.toNat, w) :: l, s)
    | _, _ => keepWrites s t0 t1 r

/-- The outputs of a firing that are tokens. -/
def tokenOuts (t0 t1 : Target) (outs : List (Bool × OutV)) : List (Bool × OutV) :=
  outs.filter (fun o => match targetOfFlag t0 t1 o.1 with | .keep _ => false | _ => true)

/-- A firing of the executing slot changes its context and sends outputs, which wait in the cell's check stage (R273). -/
def commitBy (s : State) (t0 t1 : Target) (deps : List Nat) (exit : Option Nat) (outs : List (Bool × OutV))
    (upd : Ctx → Ctx) : State :=
  let (ks, s0) := keepWrites s t0 t1 outs
  let r : ChkRec := { tag := s.nextChk, isl := s.cur.isl, slot := s.cur.slot, cell := s.cur.cell, k := s.cur.k,
                      firing := firingNo (curCtx s) (curSlotNo s), cycle := s.cycle, exit := exit, keeps := ks,
                      accNo := s.nextAcc }
  let s1 := { s0 with chks := s.chks ++ [r], nextChk := s.nextChk + 1 }
  let s2 := deliver (modCtx s1 s.cur.isl s.cur.slot upd) t0 t1 deps (tokenOuts t0 t1 outs)
  let fl := holdFrom s.flights.length s.nextChk s2.flights
  { s2 with flights := if room s t0 t1 outs then fl else holdWide s s.flights.length (outNeeds s t0 t1 outs) fl }

/-- Carry out a firing of the executing slot. -/
def commit (s : State) (t0 t1 : Target) (f : Fire) : State :=
  commitBy s t0 t1 (liveDeps s s.cur.isl (fireDeps (curCtx s) s.cur.cell s.cur.k f)) f.exit f.outs
    (fun c => fireCtx c s.cur.cell s.cur.k f)

/-- Carry out a plan with what else the firing does (R182): nothing fires while an input or a target is not ready. -/
def operateThen (s : State) (t0 t1 : Target) (pl : Plan) (after : State → State) : Out :=
  if mayFire s then
    match pl with
    | .wait => .next s
    | .mismatch => .next (raiseMismatch s)
    | .fire f => if canSend s t0 t1 f.outs then .next (after (commit s t0 t1 f)) else .next s
  else .next s

def operate (s : State) (t0 t1 : Target) (pl : Plan) : Out := operateThen s t0 t1 pl id

/-- Value of an integer scalar operand in its edge's format (R356): B of STEER, GATE, MERGE, group forms. -/
def scalarInt (fmt v : Nat) : Int := (⟨32, fmtSigned fmt⟩ : IntF).read (decScalar fmt v)

end Sys2Proof.Machine
end

