-- ==== Sys2Proof/Machine/Hazards.lean ====
section
/-! DEFINITION. The hazard detector of debug mode (R290): the ports of a frame, the units that they have touched, and the check of
an access. -/
namespace Sys2Proof.Machine

/-- Debug mode of the die of an island (R286). -/
def debugOf (s : State) (isl : Nat) : Bool := (s.rel.cfg.get {} (dieOf isl)).debug

/-- Port of a cell's context (R230): 128·island + slot number. -/
def hazardPort (s : State) : Nat := 128 * s.cur.isl + curSlotNo s

/-- Port of one stream or one copy request (R230) of unit `u` of a memory-port die; `u` holds the request's number above bit 9. -/
def unitPort (d u : Nat) : Nat := 2 ^ 20 + 128 * d + u

/-- Unit `u` working on request number `no`. -/
def unitNo (u no : Nat) : Nat := u + 2 ^ 10 * no

def samePortNo (p q : Nat) : Bool := if p < 2 ^ 20 ∧ q < 2 ^ 20 then p / 8 == q / 8 else p == q

/-- What tokens carry that derive from a stream's accesses, for the detector. -/
def unitDep (d u : Nat) : Nat := 2 ^ 39 + 128 * d + u

/-- What tokens carry that derive from the accesses of the executing slot's PLANE form. -/
def areaDep (s : State) : Nat := 2 ^ 38 + hazardPort s

/-- The units that the detector of a die has recorded for a thread's frame. -/
def unitsTouched (s : State) (t die : Nat) : List Nat :=
  ((s.rel.touched.filter (fun e => e.thread == t && e.die == die)).map (fun e => e.unit)).eraseDups

/-- Record a 64-byte unit that a port of a context on an island touches, while debug mode is on: up to 4,096 units of each executing
frame on each die. -/
def hazardTouch (s : State) (isl t unit port : Nat) (wrote : Bool) (acc : Nat) : State :=
  let e : Touch := { thread := t, die := dieOf isl, unit := unit, port := port, wrote := wrote, acc := acc }
  let us := unitsTouched s t (dieOf isl)
  if debugOf s isl ∧ (us.length < 4096 ∨ us.contains unit) ∧ !s.rel.touched.contains e then
    { s with rel := { s.rel with touched := s.rel.touched ++ [e] } }
  else s

/-- A completion-edge chain orders a recorded access before one of an island that derives from `deps` (R232): a token of
the access itself, or of a fence that covers it; for a store to SBUF or GLOB by another island a fence of die scope, on
another die one of package scope. -/
def chained (isl unit port : Nat) (wrote : Bool) (acc : Nat) (deps : List Nat) : Bool :=
  let far := wrote && decide (port < 2 ^ 20) && !(decide (cellBase ≤ 64 * unit) && decide (64 * unit < tileBase))
  let need := if !far || port / 128 == isl then 0 else if port / 128 / 64 == isl / 64 then 2 else 3
  deps.any (fun d => d % 2 ^ 40 == acc && decide (need ≤ d / 2 ^ 40))

/-- The port of an earlier access of the frame that conflicts with one to a unit and is not ordered before it (R290). -/
def hazardOf (s : State) (isl t unit port : Nat) (wrote : Bool) (deps : List Nat) : Option Nat :=
  (s.rel.touched.find? (fun e => e.thread == t && e.unit == unit && !samePortNo e.port port && (wrote || e.wrote)
    && !chained isl unit e.port e.wrote e.acc deps)).map (fun e => e.port)

/-- Detail 1 of FLT_HAZARD: the earlier port's slot number, or 0x100 + its stream number. -/
def hazardDetail (p : Nat) : Nat := if p < 2 ^ 20 then p % 128 else 0x100 + p % 128

/-- Check a firing's access against the detector and record it; FLT_HAZARD names the earlier port (R290). -/
def hazardCheck (wrote : Bool) (s : State) : State :=
  match s.accs.getLast? with
  | none => s
  | some a =>
    if debugOf s s.cur.isl then
      match hazardOf s s.cur.isl a.thread (a.addr / 64) (hazardPort s) wrote a.deps with
      | some p => raiseAt s a.site a.firing 0x901E a.va (hazardDetail p) 0
      | none => hazardTouch s s.cur.isl a.thread (a.addr / 64) (hazardPort s) wrote a.id
    else s

/-- The check for stream u of a die that works for a context on an island: the fault's detail, or the state with the
units of the `n` bytes at a key recorded. -/
def unitHazard (s : State) (isl t d u key n : Nat) (wrote : Bool) (deps : List Nat) : Except Nat State :=
  if !debugOf s isl then .ok s
  else
    let units := (List.range ((key % 64 + n + 63) / 64)).map (key / 64 + ·)
    match units.findSome? (fun x => hazardOf s isl t x (unitPort d u) wrote deps) with
    | some p => .error (hazardDetail p)
    | none => .ok (units.foldl (fun s x => hazardTouch s isl t x (unitPort d u) wrote (unitDep d u)) s)

/-- What tokens of a stream derive from: in debug mode also from the stream's own accesses. -/
def unitDeps (s : State) (isl d u : Nat) (deps : List Nat) : List Nat :=
  if debugOf s isl then mergeDeps deps [unitDep d u]
  else deps.filter (depLive s)

/-- Check the keys that a firing of the executing slot touches without an access of its own, those of a PLANE form, and record them;
FLT_HAZARD names the earlier port. -/
def hazardArea (s : State) (t firing addr : Nat) (wrote : Bool) (deps : List Nat) : List Nat → State
  | [] => s
  | k :: r =>
    match hazardOf s s.cur.isl t (k / 64) (hazardPort s) wrote deps with
    | some p => raiseAt s s.cur firing 0x901E addr (hazardDetail p) 0
    | none => hazardArea (hazardTouch s s.cur.isl t (k / 64) (hazardPort s) wrote (areaDep s)) t firing addr wrote deps r

end Sys2Proof.Machine
end

