-- ==== Sys2Proof/Machine/Fetch.lean ====
section
/-! DEFINITION. How the word that moves next is read from the state: an operator's from its block (R325), a bytecode's
from its queue's program (R95), a micro-operation's from its handler record (R337); the arbiter of a cell (R182); and
what the passing of time does. -/
namespace Sys2Proof.Machine

/-- The instruction word of slot cC.K of an island's active context, and the state with that site as the current one. -/
def fetchFire (s : State) (isl cell k : Nat) : Option (State × Nat) :=
  match activeSlot s isl with
  | none => none
  | some σ =>
    let w := (((ctxAt s isl σ).block.insts).getD (8 * cell + k) 0).toNat
    if w = 0 then none else some ({ s with cur := { isl := isl, slot := σ, cell := cell, k := k } }, w)

/-- Weight, credit and age of a slot; 1, 0, 0 when the context becomes active (R182). -/
def arbOf (c : Ctx) (slotNo : Nat) : Nat × Int × Nat := c.arb.get (1, 0, 0) slotNo

def setArb (c : Ctx) (slotNo : Nat) (v : Nat × Int × Nat) : Ctx := { c with arb := c.arb.set (1, 0, 0) slotNo v }

/-- The K of a list with the largest value, the lowest K on a tie. -/
def argMax (f : Nat → Int) : List Nat → Option Nat
  | [] => none
  | k :: t =>
    match argMax f t with
    | none => some k
    | some j => if f k < f j then some j else some k

/-- The slot that the arbiter fires (R182), from the ready slots in rising order. -/
def arbPick (c : Ctx) (cell : Nat) (rdy : List Nat) : Option Nat :=
  let old := rdy.filter (fun k => decide (56 ≤ (arbOf c (8 * cell + k)).2.2))
  if old ≠ [] then argMax (fun k => ((arbOf c (8 * cell + k)).2.2 : Int)) old
  else argMax (fun k => (arbOf c (8 * cell + k)).2.1 + (arbOf c (8 * cell + k)).1) rdy

/-- Credits and ages after slot `f` fires (R182). -/
def arbAfter (c : Ctx) (cell : Nat) (rdy : List Nat) (f : Nat) : List Nat → Ctx
  | [] => c
  | k :: t =>
    let aged := rdy.any (fun j => decide (56 ≤ (arbOf c (8 * cell + j)).2.2))
    let total : Int := ((rdy.map (fun j => (arbOf c (8 * cell + j)).1)).sum : Nat)
    let (w, cred, age) := arbOf c (8 * cell + k)
    let c' := arbAfter c cell rdy f t
    if rdy.contains k then
      let cred1 := if aged then cred else cred + w
      if k = f then setArb c' (8 * cell + k) (w, if aged then cred1 else cred1 - total, 0)
      else setArb c' (8 * cell + k) (w, cred1, age + 1)
    else setArb c' (8 * cell + k) (w, cred, 0)

/-- Whether this cycle is an issue cycle as far as debug mode decides (R183). -/
def issueCycle (s : State) (isl : Nat) : Bool := !debugOf s isl || decide (s.cycle % 2 = 0)

/-- The next bytecode of a queue's program and the state with that queue as the current site. -/
def fetchBytecode (s : State) (q : Nat) : Option (State × Nat) :=
  match (queueAt s q).run with
  | none => none
  | some r => some ({ s with cur := { q := q } }, ((queueAt s q).prog.get 0 r.pc).toNat % 2 ^ 16)

/-- Engine state of a context (R436). -/
def engAt (c : Ctx) (e : Nat) : EngCtx := c.eng.get {} e

/-- The handler record of an engine's task tag (R337). -/
def handlerOf (c : Ctx) (e tag : Nat) : Option HndCfg := c.block.hnds.find? (fun h => h.eng == e && h.tag == tag)

/-- A thread that is being saved has a tile copy to complete on an engine (R266). -/
def tileDue (s : State) (isl slot e : Nat) : Bool :=
  (engAt (ctxAt s isl slot) e).work.any (· != .handler)
    && (match (ctxAt s isl slot).thread with | some t => (threadAt s t).saving | none => false)

/-- The engine has work of a context to bring to an end though the context is not active: a work row that has begun (R468), or
what a save waits for (R266). -/
def mustWork (s : State) (isl slot e : Nat) : Bool := (engAt (ctxAt s isl slot) e).left != [] || tileDue s isl slot e

/-- The context that an engine serves (R436). -/
def engSlot (s : State) (isl e : Nat) : Option Nat := (List.range 8).find? (fun σ => mustWork s isl σ e) <|> activeSlot s isl

/-- The micro-operation of the handler that an engine runs. -/
def fetchMicro (s : State) (isl e : Nat) : Option (State × Nat) :=
  match engSlot s isl e with
  | none => none
  | some σ =>
    let c := ctxAt s isl σ
    let g := engAt c e
    match g.busy, handlerOf c e g.tag with
    | true, some h =>
      if g.mop < h.words.length then
        some ({ s with cur := { isl := isl, slot := σ, eng := e } }, (h.words.getD g.mop 0).toNat)
      else none
    | _, _ => none

/-- R18: the cycle is one of those in eight in which the engines of a limited island issue nothing. -/
def issueLimited (s : State) (isl : Nat) : Bool :=
  match activeSlot s isl with
  | some σ =>
    (match (ctxAt s isl σ).thread with
     | some t => decide (s.cycle % 8 < s.pkg.limits.get 0 (16 * (threadAt s t).cls + (threadAt s t).part))
     | none => false)
  | none => false

/-! ## Time -/

/-- Entries of each slot's operand buffers, added to the occupancy sums of the window (R182). -/
def addOcc (c : Ctx) (n : Nat) : Tab (List Tok) → Ctx
  | [] => c
  | (k, l) :: t =>
    let c := addOcc c n t
    if k < 512 then { c with occ := c.occ.set 0 (k / 4) (c.occ.get 0 (k / 4) + n * l.length) } else c

def passCtx (n : Nat) (c : Ctx) : Ctx := if c.st = .active then addOcc c n c.bufs else c

/-- Whether a switched token of an active context heads its VC in a switchbox output buffer and cannot enter the next buffer
(R197). -/
def blockedFlight (s : State) (earlier : List Flight) (f : Flight) : Bool :=
  decide (2048 ≤ f.place) && decide (f.place < 3072) && f.chk.isNone && !earlier.any (sameQueue f)
    && (ctxAt s f.isl f.slot).st == .active
    && (match nextPlace s f with
        | some (i, σ, k) => !mayPut s i σ k
        | none => false)

def ageFlights (s : State) (n : Nat) (earlier : List Flight) : List Flight → List Flight
  | [] => []
  | f :: t =>
    (if blockedFlight s earlier f then { f with age := f.age + n } else f) :: ageFlights s n (earlier ++ [f]) t

/-- `n` cycles and `dt` units of device time pass (R6, R46): occupancy sums and blocked ages grow. -/
def passTime (s : State) (n dt : Nat) : State :=
  if n = 0 then { s with dtime := s.dtime + dt }
  else { s with cycle := s.cycle + n, dtime := s.dtime + dt,
                ctxs := s.ctxs.map (fun e => (e.1, passCtx n e.2)),
                flights := ageFlights s n [] s.flights }

/-- While the package is held in reset after a thermal trip or a failed boot, only a package reset acts (R20, R112). -/
def heldInReset (s : State) : Bool :=
  match s.pkg.boot with
  | .halted | .tripped => true
  | _ => false

/-- The slots of a cell. -/
def eight : List Nat := [0, 1, 2, 3, 4, 5, 6, 7]

end Sys2Proof.Machine
end

