-- ==== Sys2Proof/Machine/IntOps.lean ====
section
/-! DEFINITION. Integer arithmetic, logic, shifts, bit fields, compares, selects and wide immediates: majors 0x01 to
0x08 (R355 to R369). -/
namespace Sys2Proof.Machine

/-- Saturate modifier of class I (R330). -/
def satI (w : OpA) : Bool := w.md.toNat % 2 == 1

/-- Lane by lane over three operands. -/
def zip3 (f : Nat → Nat → Nat → Nat) : List Nat → List Nat → List Nat → List Nat
  | a :: l, b :: m, c :: n => f a b c :: zip3 f l m n
  | _, _, _ => []

/-- Result lanes as the value of their type. -/
def outLanes (t : TyCode) (l : List Nat) : OutV := if tyVec t then .vec (packLanes (tyWidth t) l) else .sc (lane l 0)

/-- An integer form over a, b and c whose lanes give `f` (patterns in, pattern out), to T0 and T1 (R356 to R358). -/
def intForm (w : OpA) (useB useC : Bool) (ins : Ins) (f : IntF → Nat → Nat → Nat → Nat) : Plan :=
  predicated w.pred ins emitNothing
    (streams w.mm useB w.ib useC ins (intLanes w.ty ins.fa) (intLanes w.ty ins.fb) (intLanes w.ty ins.fc)
      (lanesImm w.ty w.imm.toNat)
      (fun a b c => { outs := toBoth (outLanes w.ty (zip3 (f (tyInt w.ty ins.fa)) a b c)) }))

/-- An exact integer result brought into T (R361). -/
def intExact (w : OpA) (useB useC : Bool) (ins : Ins) (x : Int → Int → Int → Int) : Plan :=
  intForm w useB useC ins (fun t a b c => fitTo t (satI w) (x (t.read a) (t.read b) (t.read c)))

/-! ## ARITH and MULT (R361 to R363) -/

def planAdd (w : OpA) (ins : Ins) : Plan := intExact w true false ins (fun a b _ => a + b)
def planSub (w : OpA) (ins : Ins) : Plan := intExact w true false ins (fun a b _ => a - b)
def planNeg (w : OpA) (ins : Ins) : Plan := intExact w false false ins (fun a _ _ => -a)
def planAbs (w : OpA) (ins : Ins) : Plan := intExact w false false ins (fun a _ _ => if a < 0 then -a else a)
def planMin (w : OpA) (ins : Ins) : Plan := intExact w true false ins (fun a b _ => if b < a then b else a)
def planMax (w : OpA) (ins : Ins) : Plan := intExact w true false ins (fun a b _ => if a < b then b else a)
def planMul (w : OpA) (ins : Ins) : Plan := intExact w true false ins (fun a b _ => a * b)
def planMulh (w : OpA) (ins : Ins) : Plan := intExact w true false ins (fun a b _ => a * b / 2 ^ tyWidth w.ty)
def planMula (w : OpA) (ins : Ins) : Plan := intExact w true true ins (fun a b c => a * b + c)

/-- Quotient and remainder of R363: truncated, and for B = 0 the format's bound and A. -/
def divRem (t : IntF) (a b : Int) : Int × Int :=
  if b = 0 then (if 0 ≤ a then t.maxv else t.minv, a) else (a.tdiv b, a - b * a.tdiv b)

def planDiv (w : OpA) (ins : Ins) : Plan :=
  intExact w true false ins (fun a b _ => (divRem (tyInt w.ty ins.fa) a b).1)
def planRem (w : OpA) (ins : Ins) : Plan :=
  intExact w true false ins (fun a b _ => (divRem (tyInt w.ty ins.fa) a b).2)

/-- ADDS: low part on T0, carry on T1 (R362). -/
def planAdds (w : OpA) (ins : Ins) : Plan :=
  predicated w.pred ins emitNothing
    (streams w.mm true w.ib false ins (intLanes w.ty ins.fa) (intLanes w.ty ins.fb) (intLanes w.ty ins.fc)
      (lanesImm w.ty w.imm.toNat)
      (fun a b c =>
        { outs := [(false, outLanes w.ty (zip3 (fun x y _ => (addSplit (tyWidth w.ty) x y).1) a b c)),
                   (true, outLanes w.ty (zip3 (fun x y _ => (addSplit (tyWidth w.ty) x y).2) a b c))] }))

def execAdd (w : OpA) (s : State) : Out := operate s w.t0 w.t1 (planAdd w (insOf s))
def execSub (w : OpA) (s : State) : Out := operate s w.t0 w.t1 (planSub w (insOf s))
def execAdds (w : OpA) (s : State) : Out := operate s w.t0 w.t1 (planAdds w (insOf s))
def execNeg (w : OpA) (s : State) : Out := operate s w.t0 w.t1 (planNeg w (insOf s))
def execAbs (w : OpA) (s : State) : Out := operate s w.t0 w.t1 (planAbs w (insOf s))
def execMinOp (w : OpA) (s : State) : Out := operate s w.t0 w.t1 (planMin w (insOf s))
def execMaxOp (w : OpA) (s : State) : Out := operate s w.t0 w.t1 (planMax w (insOf s))
def execMul (w : OpA) (s : State) : Out := operate s w.t0 w.t1 (planMul w (insOf s))
def execMulh (w : OpA) (s : State) : Out := operate s w.t0 w.t1 (planMulh w (insOf s))
def execMula (w : OpA) (s : State) : Out := operate s w.t0 w.t1 (planMula w (insOf s))
def execDiv (w : OpA) (s : State) : Out := operate s w.t0 w.t1 (planDiv w (insOf s))
def execRem (w : OpA) (s : State) : Out := operate s w.t0 w.t1 (planRem w (insOf s))

/-! ## LOGIC (R364) -/

/-- Complement of a lane pattern. -/
def notLane (n x : Nat) : Nat := 2 ^ n - 1 - x % 2 ^ n

def planAnd (w : OpA) (ins : Ins) : Plan := intForm w true false ins (fun _ a b _ => a &&& b)
def planOr (w : OpA) (ins : Ins) : Plan := intForm w true false ins (fun _ a b _ => a ||| b)
def planXor (w : OpA) (ins : Ins) : Plan := intForm w true false ins (fun _ a b _ => a ^^^ b)
def planNot (w : OpA) (ins : Ins) : Plan := intForm w false false ins (fun t a _ _ => notLane t.w a)
def planAndn (w : OpA) (ins : Ins) : Plan := intForm w true false ins (fun t a b _ => a &&& notLane t.w b)
def planOrn (w : OpA) (ins : Ins) : Plan := intForm w true false ins (fun t a b _ => a ||| notLane t.w b)

def execAndOp (w : OpA) (s : State) : Out := operate s w.t0 w.t1 (planAnd w (insOf s))
def execOrOp (w : OpA) (s : State) : Out := operate s w.t0 w.t1 (planOr w (insOf s))
def execXorOp (w : OpA) (s : State) : Out := operate s w.t0 w.t1 (planXor w (insOf s))
def execNotOp (w : OpA) (s : State) : Out := operate s w.t0 w.t1 (planNot w (insOf s))
def execAndn (w : OpA) (s : State) : Out := operate s w.t0 w.t1 (planAndn w (insOf s))
def execOrn (w : OpA) (s : State) : Out := operate s w.t0 w.t1 (planOrn w (insOf s))

/-! ## SHIFT (R365) -/

/-- x ← A·2^n brought into T; a count of w or more leaves 0 without SAT (a count of 2w already saturates every A). -/
def shlLane (t : IntF) (sat : Bool) (a n : Nat) : Nat := fitTo t sat (t.read a * 2 ^ min n (2 * t.w))

def shrLane (t : IntF) (a n : Nat) : Nat := if t.w ≤ n then 0 else a / 2 ^ n

def sarLane (t : IntF) (a n : Nat) : Nat := t.pat (sextNat t.w a / 2 ^ min n t.w)

def rolLane (t : IntF) (a n : Nat) : Nat :=
  let m := n % t.w
  (a * 2 ^ m + a / 2 ^ (t.w - m)) % 2 ^ t.w

def rorLane (t : IntF) (a n : Nat) : Nat :=
  let m := (t.w - n % t.w) % t.w
  (a * 2 ^ m + a / 2 ^ (t.w - m)) % 2 ^ t.w

def planShl (w : OpA) (ins : Ins) : Plan := intForm w true false ins (fun t a b _ => shlLane t (satI w) a b)
def planShr (w : OpA) (ins : Ins) : Plan := intForm w true false ins (fun t a b _ => shrLane t a b)
def planSar (w : OpA) (ins : Ins) : Plan := intForm w true false ins (fun t a b _ => sarLane t a b)
def planRol (w : OpA) (ins : Ins) : Plan := intForm w true false ins (fun t a b _ => rolLane t a b)
def planRor (w : OpA) (ins : Ins) : Plan := intForm w true false ins (fun t a b _ => rorLane t a b)

def execShl (w : OpA) (s : State) : Out := operate s w.t0 w.t1 (planShl w (insOf s))
def execShr (w : OpA) (s : State) : Out := operate s w.t0 w.t1 (planShr w (insOf s))
def execSar (w : OpA) (s : State) : Out := operate s w.t0 w.t1 (planSar w (insOf s))
def execRol (w : OpA) (s : State) : Out := operate s w.t0 w.t1 (planRol w (insOf s))
def execRor (w : OpA) (s : State) : Out := operate s w.t0 w.t1 (planRor w (insOf s))

/-! ## BITS (R366) -/

/-- pos of a control word. -/
def bfPos (b : Nat) : Nat := b % 32
/-- len of a control word. -/
def bfLen (b : Nat) : Nat := min (bitsOf b 9 5 + 1) (32 - bfPos b)

def bfxVal (a b : Nat) : Nat :=
  let f := a / 2 ^ bfPos b % 2 ^ bfLen b
  if b / 1024 % 2 = 1 ∧ 2 ^ (bfLen b - 1) ≤ f then f + 2 ^ 32 - 2 ^ bfLen b else f

def bfiVal (a b c : Nat) : Nat :=
  a % 2 ^ bfPos b + c % 2 ^ bfLen b * 2 ^ bfPos b + a / 2 ^ (bfPos b + bfLen b) * 2 ^ (bfPos b + bfLen b)

/-- The low `n` bits of `a` in reverse. -/
def revBits : Nat → Nat → Nat
  | 0, _ => 0
  | n + 1, a => a % 2 * 2 ^ n + revBits n (a / 2)

def clzVal (a : Nat) : Nat := if a = 0 then 32 else 31 - Nat.log2 a

/-- Trailing zeros among `n` bits. -/
def ctzVal : Nat → Nat → Nat
  | 0, _ => 0
  | n + 1, a => if a % 2 = 1 then 0 else 1 + ctzVal n (a / 2)

def popcVal : Nat → Nat → Nat
  | 0, _ => 0
  | n + 1, a => a % 2 + popcVal n (a / 2)

def bswapVal (a : Nat) : Nat :=
  a % 256 * 2 ^ 24 + a / 2 ^ 8 % 256 * 2 ^ 16 + a / 2 ^ 16 % 256 * 2 ^ 8 + a / 2 ^ 24 % 256

def planBfx (w : OpA) (ins : Ins) : Plan :=
  intForm w true false ins (fun _ a b _ => fillScalar (fmtFMT ins.fa) (bfxVal a b))
def planBfi (w : OpA) (ins : Ins) : Plan :=
  intForm w true true ins (fun _ a b c => fillScalar (fmtFMT ins.fa) (bfiVal a b c))
def planBrev (w : OpA) (ins : Ins) : Plan :=
  intForm w true false ins (fun _ a b _ => fillScalar (fmtFMT ins.fa) (revBits (min (b % 64) 32) a))
def planClz (w : OpA) (ins : Ins) : Plan := intForm w false false ins (fun _ a _ _ => clzVal a)
def planCtz (w : OpA) (ins : Ins) : Plan := intForm w false false ins (fun _ a _ _ => ctzVal 32 a)
def planPopc (w : OpA) (ins : Ins) : Plan := intForm w false false ins (fun _ a _ _ => popcVal 32 a)
def planBswap (w : OpA) (ins : Ins) : Plan :=
  intForm w false false ins (fun _ a _ _ => fillScalar (fmtFMT ins.fa) (bswapVal a))

def execBfx (w : OpA) (s : State) : Out := operate s w.t0 w.t1 (planBfx w (insOf s))
def execBfi (w : OpA) (s : State) : Out := operate s w.t0 w.t1 (planBfi w (insOf s))
def execBrev (w : OpA) (s : State) : Out := operate s w.t0 w.t1 (planBrev w (insOf s))
def execClz (w : OpA) (s : State) : Out := operate s w.t0 w.t1 (planClz w (insOf s))
def execCtz (w : OpA) (s : State) : Out := operate s w.t0 w.t1 (planCtz w (insOf s))
def execPopc (w : OpA) (s : State) : Out := operate s w.t0 w.t1 (planPopc w (insOf s))
def execBswap (w : OpA) (s : State) : Out := operate s w.t0 w.t1 (planBswap w (insOf s))

/-! ## CMP (R367) -/

def planCmp (r : CmpRel) (w : OpA) (ins : Ins) : Plan :=
  intForm w true false ins (fun t a b _ => flagNat (r.holds (t.read a) (t.read b)))

def execCmpeq (w : OpA) (s : State) : Out := operate s w.t0 w.t1 (planCmp .eq w (insOf s))
def execCmpne (w : OpA) (s : State) : Out := operate s w.t0 w.t1 (planCmp .ne w (insOf s))
def execCmplt (w : OpA) (s : State) : Out := operate s w.t0 w.t1 (planCmp .lt w (insOf s))
def execCmple (w : OpA) (s : State) : Out := operate s w.t0 w.t1 (planCmp .le w (insOf s))
def execCmpgt (w : OpA) (s : State) : Out := operate s w.t0 w.t1 (planCmp .gt w (insOf s))
def execCmpge (w : OpA) (s : State) : Out := operate s w.t0 w.t1 (planCmp .ge w (insOf s))

/-! ## SELECT (R368) -/

/-- Lanes of an "any" operand at the type's width, bits unchanged (R368). -/
def rawLanes (t : TyCode) (v : Nat) : List Nat := if tyVec t then lanesOf (tyWidth t) (tyLanes t) v else [v % 2 ^ 32]

/-- Lanes of the selector c: an integer scalar, or lanes of width w. -/
def selLanes (t : TyCode) (fc v : Nat) : List Nat :=
  if tyVec t then lanesOf (tyWidth t) (tyLanes t) v else [decScalar fc v]

def planSel (w : OpA) (ins : Ins) : Plan :=
  predicated w.pred ins emitNothing
    (streams w.mm true w.ib true ins (rawLanes w.ty) (rawLanes w.ty) (selLanes w.ty ins.fc) (lanesImm w.ty w.imm.toNat)
      (fun a b c => { outs := toBoth (outLanes w.ty (zip3 (fun x y z => if z ≠ 0 then x else y) a b c)) }))

/-- min(max(A, B), C) on float codes of format f (R368). -/
def clampFloat (f : FloatF) (a b c : Nat) : Nat :=
  f.rnd .rne false 0 ((FVal.maxT (f.dec a) (f.dec b)).minT (f.dec c))

def clampInt (t : IntF) (a b c : Nat) : Nat :=
  let m := if t.read a < t.read b then t.read b else t.read a
  t.pat (if t.read c < m then t.read c else m)

def planClamp (w : OpA) (ins : Ins) : Plan :=
  if tyFloat w.ty then
    predicated w.pred ins emitNothing
      (streams w.mm true w.ib true ins (floatLanes w.ty ins.fa ins.ha) (floatLanes w.ty ins.fb ins.hb)
        (floatLanes w.ty ins.fc ins.hc) (lanesImm w.ty w.imm.toNat)
        (fun a b c => { outs := toBoth (outLanes w.ty (zip3 (clampFloat (tyF w.ty)) a b c)) }))
  else intForm w true true ins clampInt

def execSel (w : OpA) (s : State) : Out := operate s w.t0 w.t1 (planSel w (insOf s))
def execClamp (w : OpA) (s : State) : Out := operate s w.t0 w.t1 (planClamp w (insOf s))

/-! ## IMM (R369) -/

/-- A wide form: one result on T0 for each data token on a (R369). -/
def wideForm (w : OpW) (ins : Ins) (f : IntF → Nat → Nat → Nat) : Plan :=
  predicated w.pred ins emitNothing
    (oneStream ins (fun x => { outs := [(false, .sc (f (tyInt .i32 ins.fa) (decScalar ins.fa x) w.imm.toNat))] }))

def execMovi (w : OpW) (s : State) : Out := operate s w.t0 .none (wideForm w (insOf s) (fun _ _ i => i))
def execAddi (w : OpW) (s : State) : Out := operate s w.t0 .none (wideForm w (insOf s) (fun _ a i => (a + i) % 2 ^ 32))
def execAndi (w : OpW) (s : State) : Out := operate s w.t0 .none (wideForm w (insOf s) (fun _ a i => a &&& i))
def execOri (w : OpW) (s : State) : Out := operate s w.t0 .none (wideForm w (insOf s) (fun _ a i => a ||| i))
def execXori (w : OpW) (s : State) : Out := operate s w.t0 .none (wideForm w (insOf s) (fun _ a i => a ^^^ i))
def execCmplti (w : OpW) (s : State) : Out :=
  operate s w.t0 .none (wideForm w (insOf s) (fun t a i => flagNat (decide (t.read a < t.read i))))

end Sys2Proof.Machine
end

