-- ==== Sys2Proof/Machine/FlowOps.lean ====
section
/-! DEFINITION. Flow, loop, accumulate and exit forms: majors 0x09 to 0x0C (R370 to R383), and the two steps that take
bounds and permits off their buffers without a firing (R377, R378). -/
namespace Sys2Proof.Machine

/-- An "any" operand's value as its type passes it (R370). -/
def anyV (vec : Bool) (v : Nat) : OutV := if vec then .vec v else .sc v

/-- B ≠ 0 for a scalar integer decider (R370). -/
def deciderOn (fmt v : Nat) : Bool := decide (decScalar fmt v ≠ 0)

/-! ## FLOW (R370 to R374) -/

def planFan (w : OpA) (ins : Ins) : Plan := oneStream ins (fun x => { outs := toBoth (anyV (tyVec w.ty) x) })

/-- Two aligned operands: data with data, stops of one level forwarded to both targets (R370). -/
def alignedPair (a b : Inp) (second : Pos) (k : Nat → Nat → Fire) : Plan :=
  match a, b with
  | .empty, _ | _, .empty => .wait
  | .data x, .data y => .fire { k x y with eat := [.a, second] }
  | .stop l, .stop m => if l = m then .fire { eat := [.a, second], outs := toBoth (.stop l) } else .mismatch
  | _, _ => .mismatch

/-- A form whose decider b is an operand aligned with a, or the immediate, which is no input (R329). -/
def decided (w : OpA) (ins : Ins) (k : Nat → Bool → Fire) : Plan :=
  if w.ib then oneStream ins (fun x => k x (w.imm != 0))
  else alignedPair ins.a ins.b .b (fun x y => k x (deciderOn ins.fb y))

def planSteer (w : OpA) (ins : Ins) : Plan :=
  decided w ins (fun x on => { outs := [(!on, anyV (tyVec w.ty) x)] })

def planGate (w : OpA) (ins : Ins) : Plan :=
  decided w ins (fun x on => { outs := if on then toBoth (anyV (tyVec w.ty) x) else [] })

def planSort2 (w : OpA) (ins : Ins) : Plan :=
  alignedPair ins.a ins.c .c
    (fun x y => { outs := [((decScalar ins.fc y).testBit (w.imm.toNat % 32), anyV (tyVec w.ty) x)] })

/-- MERGE (R371): the decider c says which input is needed; the other is left untouched. An immediate b is no input: its value
stands ready, and a stop needs one on a only (R329). -/
def planMerge (w : OpA) (ins : Ins) : Plan :=
  match ins.c with
  | .empty => .wait
  | .broken => .mismatch
  | .data d =>
    let fromA := deciderOn ins.fc d
    if w.ib ∧ !fromA then .fire { eat := [.c], outs := toBoth (outLanes w.ty (lanesImm w.ty w.imm.toNat)) }
    else match (if fromA then ins.a else ins.b) with
    | .empty => .wait
    | .data x => .fire { eat := [if fromA then .a else .b, .c], outs := toBoth (anyV (tyVec w.ty) x) }
    | _ => .mismatch
  | .stop l =>
    if w.ib then
      match ins.a with
      | .empty => .wait
      | .stop m => if m = l then .fire { eat := [.a, .c], outs := toBoth (.stop l) } else .mismatch
      | _ => .mismatch
    else match ins.a, ins.b with
    | .empty, _ | _, .empty => .wait
    | .stop m, .stop n => if m = l ∧ n = l then .fire { eat := [.a, .b, .c], outs := toBoth (.stop l) } else .mismatch
    | _, _ => .mismatch

/-- "need data on y" (R373). -/
def needData (i : Inp) (k : Nat → Plan) : Plan :=
  match i with
  | .empty => .wait
  | .data x => k x
  | _ => .mismatch

/-- "need stop M on y". -/
def needStop (i : Inp) (m : Nat) (k : Plan) : Plan :=
  match i with
  | .empty => .wait
  | .stop l => if l = m then k else .mismatch
  | _ => .mismatch

/-- CARRY (R373). -/
def planCarry (w : OpA) (ins : Ins) : Plan :=
  let lv := w.imm.toNat % 8
  let next := (ins.st.getD 0 0).toNat % 2 = 1
  let v := anyV (tyVec w.ty)
  match ins.c with
  | .empty => .wait
  | .broken => .mismatch
  | .data _ =>
    if next then needData ins.b (fun x => .fire { eat := [.b, .c], outs := [(false, v x)] })
    else needData ins.a (fun x => .fire { eat := [.a, .c], outs := [(false, v x)], st := [(0, 1)] })
  | .stop m =>
    if m < lv then .fire { eat := [.c], outs := [(false, .stop m)] }
    else if m = lv then
      if next then needData ins.b (fun x => .fire { eat := [.b, .c], outs := [(false, .stop lv), (true, v x)], st := [(0, 0)] })
      else needData ins.a (fun x => .fire { eat := [.a, .c], outs := [(false, .stop lv), (true, v x)], st := [(0, 0)] })
    else if next then .mismatch
    else needStop ins.a m (.fire { eat := [.a, .c], outs := toBoth (.stop m) })

/-- INVAR (R374): the value stays at the head of a's buffer. -/
def planInvar (w : OpA) (ins : Ins) : Plan :=
  let lv := w.imm.toNat % 8
  match ins.c with
  | .empty => .wait
  | .broken => .mismatch
  | .data _ => needData ins.a (fun x => .fire { eat := [.c], outs := toBoth (anyV (tyVec w.ty) x), peek := [.a] })
  | .stop m =>
    if m < lv then .fire { eat := [.c], outs := toBoth (.stop m) }
    else if m = lv then needData ins.a (fun _ => .fire { eat := [.a, .c], outs := toBoth (.stop m) })
    else needStop ins.a m (.fire { eat := [.a, .c], outs := toBoth (.stop m) })

/-- SINK (R372): CTL tokens for data if TICK, for stops of level L and above if L ≠ 0. -/
def planSink (w : OpA) (ins : Ins) : Plan :=
  let lv := w.imm.toNat % 8
  let tick := w.imm.toNat / 8 % 2 = 1
  match ins.a with
  | .empty => .wait
  | .broken => .mismatch
  | .data _ => .fire { eat := [.a], outs := if tick then toBoth (.sc 0) else [] }
  | .stop m => .fire { eat := [.a], outs := if lv ≠ 0 ∧ lv ≤ m then toBoth (.sc 0) else [] }

def execFan (w : OpA) (s : State) : Out := operate s w.t0 w.t1 (planFan w (insOf s))
def execSteer (w : OpA) (s : State) : Out := operate s w.t0 w.t1 (planSteer w (insOf s))
def execGate (w : OpA) (s : State) : Out := operate s w.t0 w.t1 (planGate w (insOf s))
def execMerge (w : OpA) (s : State) : Out := operate s w.t0 w.t1 (planMerge w (insOf s))
def execCarry (w : OpA) (s : State) : Out := operate s w.t0 w.t1 (planCarry w (insOf s))
def execInvar (w : OpA) (s : State) : Out := operate s w.t0 w.t1 (planInvar w (insOf s))
def execSort2 (w : OpA) (s : State) : Out := operate s w.t0 w.t1 (planSort2 w (insOf s))
def execSink (w : OpA) (s : State) : Out := operate s w.t0 w.t1 (planSink w (insOf s))

/-! ## LOOP (R375 to R379) -/

/-- The value that a selector of ITER names (R376). -/
def iterVal (t : Nat) (th : Thread) (sel : Nat) : Nat :=
  match sel with
  | 0 => th.x
  | 1 => th.y
  | 2 => th.z
  | 3 => (th.x + th.ex * (th.y + th.ey * th.z)) % 2 ^ 32
  | _ => t

/-- ITER fires once at each frame entry (R376). -/
def planIter (w : OpA) (t : Nat) (th : Thread) (ins : Ins) : Plan :=
  if (ins.st.getD 0 0).toNat % 2 = 1 then .wait
  else .fire { outs := [(false, .sc (iterVal t th (w.imm.toNat % 8))), (true, .sc (iterVal t th (w.imm.toNat / 8 % 8)))],
               st := [(0, 1)] }

/-- CTR (R377): words 0 trip count, 1 pending bound, 2 PV and RUN, 3 next index. An entry takes the bound that was pending as its
cycle began; one that arrives in that cycle stays pending for the next entry (R189). -/
def planCtr (w : OpA) (ins : Ins) : Plan :=
  let lv := w.imm.toNat % 8
  let flags := (ins.st.getD 2 0).toNat
  let pv := flags % 2 = 1
  let run := flags / 2 % 2 = 1
  let trip := (ins.st.getD 0 0).toNat
  let i := (ins.st.getD 3 0).toNat
  let go (eat : List Pos) (trip i : Nat) (pvNow : Nat) (pre : List (Nat × Word)) : Plan :=
    if i < trip then
      .fire { eat := eat, outs := toBoth (.sc i),
              st := pre ++ [(2, BitVec.ofNat 32 (pvNow + 2)), (3, BitVec.ofNat 32 (i + 1))], keepsState := true }
    else .fire { eat := eat, outs := toBoth (.stop lv), st := pre ++ [(2, BitVec.ofNat 32 pvNow), (3, BitVec.ofNat 32 i)],
                 keepsState := true }
  if run then go [] trip i (flags % 2) []
  else match ins.a with
    | .empty => .wait
    | .broken => .mismatch
    | .data _ =>
      match ins.early with
      | none =>
        if pv then go [.a] (ins.st.getD 1 0).toNat 0 0 [(0, ins.st.getD 1 0)]
        else go [.a] trip 0 (flags % 2) []
      | some none => go [.a] trip 0 (flags % 2) []
      | some (some b) => go [.a] b.toNat 0 (flags % 2) [(0, b)]
    | .stop m => if m ≤ lv then .mismatch else .fire { eat := [.a], outs := toBoth (.stop m) }

/-- PERMIT (R378): data passes while the count is above 0 and lowers it. -/
def planPermit (ins : Ins) : Plan :=
  let n := (ins.st.getD 0 0).toNat
  match ins.a with
  | .empty => .wait
  | .broken => .mismatch
  | .data x =>
    if n = 0 then .wait
    else .fire { eat := [.a], outs := toBoth (anyV (fmtVEC ins.fa) x), st := [(0, BitVec.ofNat 32 (n - 1))] }
  | .stop l => .fire { eat := [.a], outs := toBoth (.stop l) }

def planStopgen (w : OpA) (ins : Ins) : Plan := oneStream ins (fun _ => { outs := toBoth (.stop (w.imm.toNat % 8)) })

/-- CNTSTOP (R379). -/
def planCntstop (w : OpA) (vec : Bool) (ins : Ins) : Plan :=
  let lv := w.imm.toNat % 8
  let n := w.imm.toNat / 8
  let cnt := (ins.st.getD 0 0).toNat
  if cnt = n then .fire { outs := toBoth (.stop lv), st := [(0, 0)], keepsState := true, endsState := true }
  else match ins.a with
    | .empty => .wait
    | .broken => .mismatch
    | .data x => .fire { eat := [.a], outs := toBoth (anyV vec x), st := [(0, BitVec.ofNat 32 (cnt + 1))], keepsState := true }
    | .stop m =>
      if m ≤ lv then .mismatch
      else if 0 < cnt then .fire { outs := toBoth (.stop lv), st := [(0, 0)], keepsState := true, endsState := true }
      else .fire { eat := [.a], outs := toBoth (.stop m) }

/-- STOPLVL (R379). -/
def planStoplvl (w : OpA) (vec : Bool) (ins : Ins) : Plan :=
  let d := w.imm.toNat % 8
  let up := w.imm.toNat / 8 % 2 = 1
  match ins.a with
  | .empty => .wait
  | .broken => .mismatch
  | .data x => .fire { eat := [.a], outs := toBoth (anyV vec x) }
  | .stop m =>
    if up then (if 7 < m + d then .mismatch else .fire { eat := [.a], outs := toBoth (.stop (m + d)) })
    else if m ≤ d then .fire { eat := [.a] }
    else .fire { eat := [.a], outs := toBoth (.stop (m - d)) }

/-- Thread number and descriptor of the executing context. -/
def curThread (s : State) : Nat × Thread :=
  match (curCtx s).thread with
  | some t => (t, threadAt s t)
  | none => (0, {})

def execCtr (w : OpA) (s : State) : Out := operate s w.t0 w.t1 (planCtr w (insOf s))
def execIter (w : OpA) (s : State) : Out :=
  operate s w.t0 w.t1 (planIter w (curThread s).1 (curThread s).2 (insOf s))
def execPermit (w : OpA) (s : State) : Out := operate s w.t0 w.t1 (planPermit (insOf s))
def execStopgen (w : OpA) (s : State) : Out := operate s w.t0 w.t1 (planStopgen w (insOf s))
def execCntstop (w : OpA) (s : State) : Out := operate s w.t0 w.t1 (planCntstop w (fmtVEC (insOf s).fa) (insOf s))
def execStoplvl (w : OpA) (s : State) : Out := operate s w.t0 w.t1 (planStoplvl w (fmtVEC (insOf s).fa) (insOf s))

/-- The slot that a unit event names, as the executing site. -/
def atSlot (s : State) (isl slot unit : Nat) : State :=
  { s with cur := { isl := isl, slot := slot, cell := unit / 8, k := unit % 8 } }

/-- Consume the head of operand `pos` of a slot without a firing. -/
def takeHead (s : State) (isl slot unit pos : Nat) : State :=
  modCtx s isl slot (fun c => popBuf c (unit / 8) (operandKey c (unit / 8) (unit % 8) pos) 1)

/-- A bound reaches the counter's input and is taken off the buffer at once, without a firing: it becomes the pending
bound and replaces an earlier one; a stop is discarded (R189, R377). The bound that was pending as the cycle began is kept for an
entry in this cycle. Only a CTR with BOUND = 1 of an active context takes it. -/
def execCtrBoundArrival (isl slot unit : Nat) (s : State) : Out :=
  let c := ctxAt s isl slot
  match decodeOp ((c.block.insts.getD unit 0).toNat) with
  | .ok (.ctr w) =>
    if c.st = .active ∧ w.imm.toNat / 64 % 2 = 1 then
      match operandIn c (unit / 8) (unit % 8) 2 with
      | .data v =>
        let d := depsOf ((bufFull c (unit / 8) (operandKey c (unit / 8) (unit % 8) 2)).take 1)
        let was := match earlyOf s c unit with
          | some w => w
          | none => if (opWord c unit 2).toNat % 2 = 1 then some (opWord c unit 1) else none
        .next (modCtx (takeHead s isl slot unit 2) isl slot (fun c =>
          let c1 : Ctx := { c with sdeps := c.sdeps.set [] unit (mergeDeps (c.sdeps.get [] unit) d)
                                   early := c.early.set (0, none) unit (s.cycle + 1, was) }
          setOpWord (setOpWord c1 unit 1 (BitVec.ofNat 32 v)) unit 2 (BitVec.ofNat 32 ((opWord c unit 2).toNat / 2 * 2 + 1))))
      | .stop _ => .next (takeHead s isl slot unit 2)
      | _ => .next s
    else .next s
  | _ => .next s

/-- A permit reaches a PERMIT's b input: the count rises by 1, or FLT_PERMIT_EXCESS if it equals k; a stop is discarded
(R188, R378). -/
def execPermitReturn (isl slot unit : Nat) (s : State) : Out :=
  let c := ctxAt s isl slot
  match decodeOp ((c.block.insts.getD unit 0).toNat) with
  | .ok (.permit w) =>
    if c.st = .active then
      match operandIn c (unit / 8) (unit % 8) 1 with
      | .data _ =>
        let n := (opWord c unit 0).toNat
        if n = w.imm.toNat % 16 then
          .next (raiseAt (takeHead s isl slot unit 1) { isl := isl, slot := slot, cell := unit / 8, k := unit % 8 }
            (firingNo c unit) 0x9017 0 0 0)
        else .next (modCtx (takeHead s isl slot unit 1) isl slot (fun c => setOpWord c unit 0 (BitVec.ofNat 32 (n + 1))))
      | .stop _ => .next (takeHead s isl slot unit 1)
      | _ => .next s
    else .next s
  | _ => .next s

/-! ## ACCUM (R380, R381) -/

/-- Rounding mode and saturate modifier of class F (R330). -/
def rmF (w : OpA) : RMode := rmodeOf (w.md.toNat % 8)
def satF (w : OpA) : Bool := w.md.toNat / 8 % 2 == 1

/-- An accumulator over the stream a: `step acc g v` gives the accumulator and generator after data v (R381). -/
def accum (w : OpA) (ins : Ins) (init : Nat) (step : Nat → Nat → Nat → Nat × Nat) : Plan :=
  let lv := w.imm.toNat % 8
  let acc := (ins.st.getD 0 0).toNat
  let g := (ins.st.getD 13 0).toNat
  match ins.a with
  | .empty => .wait
  | .broken => .mismatch
  | .data v =>
    let (acc', g') := step acc g v
    .fire { eat := [.a], st := [(0, BitVec.ofNat 32 acc'), (1, 1), (13, BitVec.ofNat 32 g')], keepsState := true }
  | .stop m =>
    if m < lv then .fire { eat := [.a], st := [(1, 1)], keepsState := true }
    else if m = lv then
      .fire { eat := [.a], outs := toBoth (.sc acc), st := [(0, BitVec.ofNat 32 init), (1, 0)], keepsState := true,
              endsState := true }
    else if (ins.st.getD 1 0).toNat % 2 = 1 then .mismatch
    else .fire { eat := [.a], outs := toBoth (.stop m) }

/-- The initial value of an accumulator form (R380): `kind` 0 ACC, 1 ACCMIN, 2 ACCMAX, 3 ACCCNT. -/
def accInit (kind : Nat) (ty : TyCode) (fa : Nat) : Nat :=
  match kind with
  | 1 => if tyFloat ty then f32F.infc false else (tyInt ty fa).pat (tyInt ty fa).maxv
  | 2 => if tyFloat ty then f32F.infc true else (tyInt ty fa).pat (tyInt ty fa).minv
  | _ => 0

def planAcc (w : OpA) (ins : Ins) : Plan :=
  accum w ins 0 (fun acc g v =>
    if tyFloat w.ty then
      let g' := drawFor (rmF w) g
      (f32F.rnd (rmF w) (satF w) g' (FVal.sum (rmF w) [f32F.dec acc, f32F.dec (lane (floatLanes .f32 ins.fa ins.ha v) 0)]), g')
    else
      let t := tyInt w.ty ins.fa
      (fitTo t (satI w) (t.read acc + t.read (decScalar ins.fa v)), g))

def planAccmin (w : OpA) (ins : Ins) : Plan :=
  accum w ins (accInit 1 w.ty ins.fa) (fun acc g v =>
    if tyFloat w.ty then
      (f32F.rnd .rne false 0 ((f32F.dec acc).minT (f32F.dec (lane (floatLanes .f32 ins.fa ins.ha v) 0))), g)
    else
      let t := tyInt w.ty ins.fa
      (if t.read (decScalar ins.fa v) < t.read acc then decScalar ins.fa v else acc, g))

def planAccmax (w : OpA) (ins : Ins) : Plan :=
  accum w ins (accInit 2 w.ty ins.fa) (fun acc g v =>
    if tyFloat w.ty then
      (f32F.rnd .rne false 0 ((f32F.dec acc).maxT (f32F.dec (lane (floatLanes .f32 ins.fa ins.ha v) 0))), g)
    else
      let t := tyInt w.ty ins.fa
      (if t.read acc < t.read (decScalar ins.fa v) then decScalar ins.fa v else acc, g))

def planAcccnt (w : OpA) (ins : Ins) : Plan :=
  accum w ins 0 (fun acc g _ => (fitTo ⟨32, false⟩ (satI w) (acc + 1), g))

def execAcc (w : OpA) (s : State) : Out := operate s w.t0 w.t1 (planAcc w (insOf s))
def execAccmin (w : OpA) (s : State) : Out := operate s w.t0 w.t1 (planAccmin w (insOf s))
def execAccmax (w : OpA) (s : State) : Out := operate s w.t0 w.t1 (planAccmax w (insOf s))
def execAcccnt (w : OpA) (s : State) : Out := operate s w.t0 w.t1 (planAcccnt w (insOf s))

/-! ## EXIT (R382, R190) -/

def planExit (w : OpA) (ins : Ins) : Plan :=
  match ins.a with
  | .empty => .wait
  | .broken => .mismatch
  | .data _ => .fire { eat := [.a], exit := match w.t0 with | .exit x => some x.toNat | _ => none }
  | .stop _ => .fire { eat := [.a] }

def planExitsel (w : OpA) (ins : Ins) : Plan :=
  match ins.a with
  | .empty => .wait
  | .broken => .mismatch
  | .data v =>
    let x := scalarInt ins.fa v
    .fire { eat := [.a], exit := some (if 0 ≤ x ∧ x ≤ 7 then x.toNat else w.imm.toNat % 8) }
  | .stop _ => .fire { eat := [.a] }

def execExitOp (w : OpA) (s : State) : Out := operate s w.t0 w.t1 (planExit w (insOf s))
def execExitsel (w : OpA) (s : State) : Out := operate s w.t0 w.t1 (planExitsel w (insOf s))

end Sys2Proof.Machine
end

