-- ==== Sys2Proof/Machine/FloatOps.lean ====
section
/-! DEFINITION. Floating-point arithmetic, compares, classes and conversions: majors 0x20 to 0x22 (R384 to R392). -/
namespace Sys2Proof.Machine

/-- The generator word as a draw leaves it; nothing is written where nothing was drawn (R300). -/
def genWord (m : RMode) (g : Nat) : List (Nat × Word) := match m with | .sr => [(13, BitVec.ofNat 32 g)] | _ => []

def zip3F (f : FVal → FVal → FVal → FVal) (d : FloatF) : List Nat → List Nat → List Nat → List FVal
  | a :: l, b :: m, c :: n => f (d.dec a) (d.dec b) (d.dec c) :: zip3F f d l m n
  | _, _, _ => []

/-- A float form over a, b and c: exact values rounded once per lane in F, a draw for each under SR (R384). -/
def floatForm (w : OpA) (useB useC : Bool) (ins : Ins) (f : FVal → FVal → FVal → FVal) : Plan :=
  predicated w.pred ins emitNothing
    (streams w.mm useB w.ib useC ins (floatLanes w.ty ins.fa ins.ha) (floatLanes w.ty ins.fb ins.hb)
      (floatLanes w.ty ins.fc ins.hc) (lanesImm w.ty w.imm.toNat)
      (fun a b c =>
        let r := rndList (tyF w.ty) (rmF w) (satF w) (ins.st.getD 13 0).toNat (zip3F f (tyF w.ty) a b c)
        { outs := toBoth (outLanes w.ty r.1), st := genWord (rmF w) r.2 }))

/-! ## FARITH (R388, R389) -/

def planFadd (w : OpA) (ins : Ins) : Plan := floatForm w true false ins (fun a b _ => FVal.sum (rmF w) [a, b])
def planFsub (w : OpA) (ins : Ins) : Plan := floatForm w true false ins (fun a b _ => FVal.sum (rmF w) [a, b.neg])
def planFmul (w : OpA) (ins : Ins) : Plan := floatForm w true false ins (fun a b _ => a.mul b)
def planFfma (w : OpA) (ins : Ins) : Plan := floatForm w true true ins (fun a b c => FVal.sum (rmF w) [a.mul b, c])
def planFfms (w : OpA) (ins : Ins) : Plan := floatForm w true true ins (fun a b c => FVal.sum (rmF w) [a.mul b, c.neg])
def planFmin (w : OpA) (ins : Ins) : Plan := floatForm w true false ins (fun a b _ => a.minT b)
def planFmax (w : OpA) (ins : Ins) : Plan := floatForm w true false ins (fun a b _ => a.maxT b)
def planFabs (w : OpA) (ins : Ins) : Plan := floatForm w false false ins (fun a _ _ => a.abs)
def planFneg (w : OpA) (ins : Ins) : Plan := floatForm w false false ins (fun a _ _ => a.neg)
def planFrcp (w : OpA) (ins : Ins) : Plan := floatForm w false false ins (fun a _ _ => a.rcp)
def planFrsq (w : OpA) (ins : Ins) : Plan := floatForm w false false ins (fun a _ _ => a.rsq)
def planFsqrt (w : OpA) (ins : Ins) : Plan := floatForm w false false ins (fun a _ _ => a.sqrt)

def execFadd (w : OpA) (s : State) : Out := operate s w.t0 w.t1 (planFadd w (insOf s))
def execFsub (w : OpA) (s : State) : Out := operate s w.t0 w.t1 (planFsub w (insOf s))
def execFmul (w : OpA) (s : State) : Out := operate s w.t0 w.t1 (planFmul w (insOf s))
def execFfma (w : OpA) (s : State) : Out := operate s w.t0 w.t1 (planFfma w (insOf s))
def execFfms (w : OpA) (s : State) : Out := operate s w.t0 w.t1 (planFfms w (insOf s))
def execFmin (w : OpA) (s : State) : Out := operate s w.t0 w.t1 (planFmin w (insOf s))
def execFmax (w : OpA) (s : State) : Out := operate s w.t0 w.t1 (planFmax w (insOf s))
def execFabs (w : OpA) (s : State) : Out := operate s w.t0 w.t1 (planFabs w (insOf s))
def execFneg (w : OpA) (s : State) : Out := operate s w.t0 w.t1 (planFneg w (insOf s))
def execFrcp (w : OpA) (s : State) : Out := operate s w.t0 w.t1 (planFrcp w (insOf s))
def execFrsq (w : OpA) (s : State) : Out := operate s w.t0 w.t1 (planFrsq w (insOf s))
def execFsqrt (w : OpA) (s : State) : Out := operate s w.t0 w.t1 (planFsqrt w (insOf s))

/-! ## FCMP (R390) -/

def zip2F (f : FVal → FVal → Bool) (d : FloatF) : List Nat → List Nat → List Nat
  | a :: l, b :: m => flagNat (f (d.dec a) (d.dec b)) :: zip2F f d l m
  | _, _ => []

def planFcmp (f : FVal → FVal → Bool) (w : OpA) (ins : Ins) : Plan :=
  predicated w.pred ins emitNothing
    (streams w.mm true w.ib false ins (floatLanes w.ty ins.fa ins.ha) (floatLanes w.ty ins.fb ins.hb)
      (floatLanes w.ty ins.fc ins.hc) (lanesImm w.ty w.imm.toNat)
      (fun a b _ => { outs := toBoth (outLanes w.ty (zip2F f (tyF w.ty) a b)) }))

def execFcmpeq (w : OpA) (s : State) : Out := operate s w.t0 w.t1 (planFcmp (fun a b => a.eqv b) w (insOf s))
def execFcmpne (w : OpA) (s : State) : Out := operate s w.t0 w.t1 (planFcmp (fun a b => !a.eqv b) w (insOf s))
def execFcmplt (w : OpA) (s : State) : Out := operate s w.t0 w.t1 (planFcmp (fun a b => a.lt b) w (insOf s))
def execFcmple (w : OpA) (s : State) : Out := operate s w.t0 w.t1 (planFcmp (fun a b => a.lt b || a.eqv b) w (insOf s))
def execFcmpun (w : OpA) (s : State) : Out := operate s w.t0 w.t1 (planFcmp (fun a b => a == .nan || b == .nan) w (insOf s))

/-- The class bit of a code of a format (R390). -/
def classBit (f : FloatF) (c : Nat) : Nat :=
  match f.dec c with
  | .nan => 8
  | .inf n => if n then 0 else 7
  | .fin n m _ =>
    if m = 0 then (if n then 3 else 4)
    else if m < 2 ^ f.n then (if n then 2 else 5)
    else (if n then 1 else 6)

/-- What FCLASS delivers for a code under a mask. -/
def classVal (f : FloatF) (mask c : Nat) : Nat :=
  if mask = 0 then 2 ^ classBit f c else flagNat (mask.testBit (classBit f c))

/-- Codes that FCLASS classifies and their format: raw codes of the edge's format with SEN = 0, else scaled in F. -/
def classLanes (w : OpA) (ins : Ins) (v : Nat) : List Nat :=
  if fmtSEN ins.fa then (floatLanes w.ty ins.fa ins.ha v).map (classVal (tyF w.ty) (w.imm.toNat % 512))
  else if tyVec w.ty then (lanesOf (tyWidth w.ty) (tyLanes w.ty) v).map (classVal (tyF w.ty) (w.imm.toNat % 512))
  else [classVal (floatOf (fmtFMT ins.fa)) (w.imm.toNat % 512) (v % 2 ^ fmtBits (fmtFMT ins.fa))]

def planFclass (w : OpA) (ins : Ins) : Plan :=
  predicated w.pred ins emitNothing (oneStream ins (fun v => { outs := toBoth (outLanes w.ty (classLanes w ins v)) }))

def execFclass (w : OpA) (s : State) : Out := operate s w.t0 w.t1 (planFclass w (insOf s))

/-! ## CONV (R391, R392) -/

/-- Source values of FCVT, FTOI and FRND; type 010 holds e4m3 or e5m2 lanes (R391). -/
def convFloats (ty : TyCode) (fa ha v : Nat) : List FVal :=
  match ty with
  | .vi8 =>
    let f := floatOf (fmtFMT fa)
    (lanesOf 8 64 v).map (fun c => if fmtSEN fa then f.dec (f.rnd .rne false 0 (decFloat fa ha c)) else f.dec c)
  | _ => (floatLanes ty fa ha v).map (tyF ty).dec

/-- Source values of ICVT (R356). -/
def convInts (ty : TyCode) (fa v : Nat) : List FVal := (intLanes ty fa v).map (fun x => FVal.ofInt ((tyInt ty fa).read x))

/-- Integer format of a destination code. -/
def intOf (f : Nat) : IntF := ⟨fmtBits f, [1, 2, 3].contains f⟩

/-- A value rounded to an integer format (R299). -/
def ftoiVal (t : IntF) (md : RMode) (sat : Bool) (g : Nat) (x : FVal) : Nat :=
  match x with
  | .nan => 0
  | .inf n => if sat then t.pat (if n then t.minv else t.maxv) else 0
  | .fin n m e => fitTo t sat (FVal.toInt md g n m e)

/-- A value rounded to an integer and kept in format F (R391, FRND). -/
def frndVal (f : FloatF) (md : RMode) (g : Nat) (x : FVal) : Nat :=
  match x with
  | .fin n m e =>
    let i := FVal.toInt md g n m e
    if i = 0 then f.sgn n else f.rnd .rne false 0 (FVal.ofInt i)
  | _ => f.rnd .rne false 0 x

/-- Convert values in order with a draw for each (R300). -/
def convList (k : Nat → FVal → Nat) (md : RMode) : Nat → List FVal → List Nat × Nat
  | g, [] => ([], g)
  | g, x :: t =>
    let g := drawFor md g
    let r := convList k md g t
    (k g x :: r.1, r.2)

/-- The source lanes that a conversion converts (R392). -/
def convPick (ty : TyCode) (dfmt part : Nat) (l : List FVal) : List FVal :=
  if tyVec ty ∧ tyWidth ty < fmtBits dfmt then (l.drop (part * (512 / fmtBits dfmt))).take (512 / fmtBits dfmt) else l

/-- A conversion of a: values of the source, `k draw value` the destination pattern (R391, R392). -/
def convForm (w : OpA) (ins : Ins) (vals : Nat → List FVal) (k : Nat → FVal → Nat) : Plan :=
  let dfmt := w.imm.toNat % 32
  predicated w.pred ins emitNothing (oneStream ins (fun v =>
    let r := convList k (rmF w) (ins.st.getD 13 0).toNat (convPick w.ty dfmt (w.imm.toNat / 32 % 4) (vals v))
    { outs := toBoth (if tyVec w.ty then .vec (packLanes (fmtBits dfmt) r.1) else .sc (fillScalar dfmt (lane r.1 0))),
      st := genWord (rmF w) r.2 }))

def planFcvt (w : OpA) (ins : Ins) : Plan :=
  convForm w ins (convFloats w.ty ins.fa ins.ha) (fun g x => (floatOf (w.imm.toNat % 32)).rnd (rmF w) (satF w) g x)
def planIcvt (w : OpA) (ins : Ins) : Plan :=
  convForm w ins (convInts w.ty ins.fa) (fun g x => (floatOf (w.imm.toNat % 32)).rnd (rmF w) (satF w) g x)
def planFtoi (w : OpA) (ins : Ins) : Plan :=
  convForm w ins (convFloats w.ty ins.fa ins.ha) (ftoiVal (intOf (w.imm.toNat % 32)) (rmF w) (satF w))
def planFrnd (w : OpA) (ins : Ins) : Plan :=
  convForm w ins (convFloats w.ty ins.fa ins.ha) (frndVal (tyF w.ty) (rmF w))

def execFcvt (w : OpA) (s : State) : Out := operate s w.t0 w.t1 (planFcvt w (insOf s))
def execIcvt (w : OpA) (s : State) : Out := operate s w.t0 w.t1 (planIcvt w (insOf s))
def execFtoi (w : OpA) (s : State) : Out := operate s w.t0 w.t1 (planFtoi w (insOf s))
def execFrnd (w : OpA) (s : State) : Out := operate s w.t0 w.t1 (planFrnd w (insOf s))

end Sys2Proof.Machine
end

