-- ==== Sys2Proof/Machine/VecOps.lean ====
section
/-! DEFINITION. Vector, reduction, dot-product, complex, block floating point, nested-plane and coordinate forms:
majors 0x23 to 0x2A (R393 to R407). -/
namespace Sys2Proof.Machine

/-! ## VINT (R393, R394) -/

def planVaddmin (w : OpA) (ins : Ins) : Plan :=
  predicated w.pred ins emitNothing
    (streams w.mm true w.ib true ins (lanesOf 16 32) (lanesOf 16 32) (lanesOf 16 32) (lanesImm .vi16 w.imm.toNat)
      (fun a b c => { outs := toBoth (.vec (packLanes 16 (zip3 (fun x y z => min (min (x + y) 65535) z) a b c))) }))

/-- Lane index and pattern of the extreme lane; the lowest lane on a tie. `better x y`: x replaces y. -/
def extreme (better : Nat → Nat → Bool) : Nat → List Nat → Nat × Nat
  | i, [] => (i, 0)
  | i, [x] => (i, x)
  | i, x :: t => let r := extreme better (i + 1) t; if better r.2 x then r else (i, x)

def idxVal (r : Nat × Nat) : Nat := r.2 % 2 ^ 16 + r.1 % 32 * 2 ^ 16

def planVminidx (w : OpA) (ins : Ins) : Plan :=
  let t : IntF := ⟨16, fmtSigned ins.fa⟩
  predicated w.pred ins emitNothing (oneStream ins (fun v =>
    { outs := toBoth (.sc (idxVal (extreme (fun x y => decide (t.read x < t.read y)) 0 (lanesOf 16 32 v)))) }))
def planVmaxidx (w : OpA) (ins : Ins) : Plan :=
  let t : IntF := ⟨16, fmtSigned ins.fa⟩
  predicated w.pred ins emitNothing (oneStream ins (fun v =>
    { outs := toBoth (.sc (idxVal (extreme (fun x y => decide (t.read y < t.read x)) 0 (lanesOf 16 32 v)))) }))

def execVaddmin (w : OpA) (s : State) : Out := operate s w.t0 w.t1 (planVaddmin w (insOf s))
def execVminidx (w : OpA) (s : State) : Out := operate s w.t0 w.t1 (planVminidx w (insOf s))
def execVmaxidx (w : OpA) (s : State) : Out := operate s w.t0 w.t1 (planVmaxidx w (insOf s))

/-! ## VLANE (R395, R396) -/

/-- Lanes of a vector operand; scaled float lanes are decoded (R312). -/
def vecLanes (ty : TyCode) (f h v : Nat) : List Nat :=
  if tyFloat ty then floatLanes ty f h v else lanesOf (tyWidth ty) (tyLanes ty) v

/-- The low w bits of a scalar that carries a lane format (R395). -/
def scalarLane (ty : TyCode) (f h v : Nat) : Nat :=
  if tyFloat ty ∧ fmtSEN f then (tyF ty).rnd .rne false 0 (decFloat f h (v % 2 ^ tyWidth ty)) else v % 2 ^ tyWidth ty

/-- A scalar result in a's lane format (R293). -/
def laneScalar (fa x : Nat) : OutV := .sc (fillScalar (fmtFMT fa) x)

/-- a and, if `useC`, c in step (R358): `k a c`. -/
def withFill (w : OpA) (useC : Bool) (ins : Ins) (k : List Nat → Nat → Fire) : Plan :=
  streams .trap false false useC ins (fun v => (vecLanes w.ty ins.fa ins.ha v, 0)) (fun _ => ([], 0))
    (fun v => ([], scalarLane w.ty ins.fc ins.hc v)) ([], 0) (fun a _ c => k a.1 c.2)

def planVlsh (w : OpA) (ins : Ins) : Plan :=
  let sh := w.imm.toNat % 128
  let n := tyLanes w.ty
  withFill w (decide (w.imm.toNat / 128 % 2 = 1)) ins (fun a fill =>
    { outs := [(false, .vec (packLanes (tyWidth w.ty) ((List.range n).map (fun i => if sh ≤ i then lane a (i - sh) else fill)))),
               (true, laneScalar ins.fa (lane a (n - 1)))] })

def planVlsr (w : OpA) (ins : Ins) : Plan :=
  let sh := w.imm.toNat % 128
  let n := tyLanes w.ty
  withFill w (decide (w.imm.toNat / 128 % 2 = 1)) ins (fun a fill =>
    { outs := [(false, .vec (packLanes (tyWidth w.ty) ((List.range n).map (fun i => if i + sh < n then lane a (i + sh) else fill)))),
               (true, laneScalar ins.fa (lane a 0))] })

/-- a and b aligned under trap mode (R385). -/
def pairForm (ins : Ins) (k : Nat → Nat → Fire) : Plan :=
  streams .trap true false false ins id id id 0 (fun a b _ => k a b)

def planVperm (w : OpA) (ins : Ins) : Plan :=
  pairForm ins (fun a b =>
    let la := vecLanes w.ty ins.fa ins.ha a
    { outs := toBoth (.vec (packLanes (tyWidth w.ty) ((lanesOf (tyWidth w.ty) (tyLanes w.ty) b).map (fun i => lane la i)))) })

def planVbcast (w : OpA) (ins : Ins) : Plan :=
  oneStream ins (fun v =>
    let x := if w.imm.toNat / 64 % 2 = 1 then scalarLane w.ty ins.fa ins.ha v
             else lane (vecLanes w.ty ins.fa ins.ha v) (w.imm.toNat % 64)
    { outs := toBoth (.vec (packLanes (tyWidth w.ty) (List.replicate (tyLanes w.ty) x))) })

def planVextr (w : OpA) (ins : Ins) : Plan :=
  oneStream ins (fun v =>
    { outs := toBoth (laneScalar ins.fa (lane (vecLanes w.ty ins.fa ins.ha v) (w.imm.toNat % 64))) })

def planVins (w : OpA) (ins : Ins) : Plan :=
  pairForm ins (fun a b =>
    { outs := toBoth (.vec (packLanes (tyWidth w.ty)
        ((vecLanes w.ty ins.fa ins.ha a).set (w.imm.toNat % 64) (scalarLane w.ty ins.fb ins.hb b)))) })

/-- A lane narrowed to half its width with a's signedness (R396). -/
def narrowLane (t : IntF) (sat : Bool) (x : Nat) : Nat := fitTo ⟨t.w / 2, t.signed⟩ sat (t.read x)

def planVpack (w : OpA) (ins : Ins) : Plan :=
  let t := tyInt w.ty ins.fa
  pairForm ins (fun a b =>
    let l := lanesOf t.w (tyLanes w.ty) a ++ lanesOf t.w (tyLanes w.ty) b
    { outs := toBoth (.vec (packLanes (t.w / 2) (l.map (narrowLane t (w.imm.toNat % 2 == 1))))) })

def planVunpk (w : OpA) (ins : Ins) : Plan :=
  let t := tyInt w.ty ins.fa
  oneStream ins (fun v =>
    let l := (lanesOf t.w (tyLanes w.ty) v).map (fun x => (⟨2 * t.w, t.signed⟩ : IntF).pat (t.read x))
    { outs := [(false, .vec (packLanes (2 * t.w) (l.take (tyLanes w.ty / 2)))),
               (true, .vec (packLanes (2 * t.w) (l.drop (tyLanes w.ty / 2))))] })

def execVlsh (w : OpA) (s : State) : Out := operate s w.t0 w.t1 (planVlsh w (insOf s))
def execVlsr (w : OpA) (s : State) : Out := operate s w.t0 w.t1 (planVlsr w (insOf s))
def execVperm (w : OpA) (s : State) : Out := operate s w.t0 w.t1 (planVperm w (insOf s))
def execVbcast (w : OpA) (s : State) : Out := operate s w.t0 w.t1 (planVbcast w (insOf s))
def execVextr (w : OpA) (s : State) : Out := operate s w.t0 w.t1 (planVextr w (insOf s))
def execVins (w : OpA) (s : State) : Out := operate s w.t0 w.t1 (planVins w (insOf s))
def execVpack (w : OpA) (s : State) : Out := operate s w.t0 w.t1 (planVpack w (insOf s))
def execVunpk (w : OpA) (s : State) : Out := operate s w.t0 w.t1 (planVunpk w (insOf s))

/-! ## VSUM (R397, R314, R315) -/

/-- One node or step: patterns x and y and the generator (R397). -/
def sumOp (w : OpA) (fa : Nat) (g x y : Nat) : Nat × Nat :=
  let t := tyInt w.ty fa
  if tyFloat w.ty then
    let f := tyF w.ty
    match w.imm.toNat % 8 with
    | 0 => let g := drawFor (rmF w) g; (f.rnd (rmF w) (satF w) g (FVal.sum (rmF w) [f.dec x, f.dec y]), g)
    | 1 => (f.rnd .rne false 0 ((f.dec x).minT (f.dec y)), g)
    | _ => (f.rnd .rne false 0 ((f.dec x).maxT (f.dec y)), g)
  else
    match w.imm.toNat % 8 with
    | 0 => (fitTo t (satI w) (t.read x + t.read y), g)
    | 1 => (if t.read y < t.read x then y else x, g)
    | 2 => (if t.read x < t.read y then y else x, g)
    | 3 => (x &&& y, g)
    | 4 => (x ||| y, g)
    | _ => (x ^^^ y, g)

/-- One level of the pairwise tree (R315). -/
def vredLevel (op : Nat → Nat → Nat → Nat × Nat) : Nat → List Nat → List Nat × Nat
  | g, x :: y :: t =>
    let r := op g x y
    let q := vredLevel op r.2 t
    (r.1 :: q.1, q.2)
  | g, l => (l, g)

/-- `k` levels of the tree. -/
def vredTree (op : Nat → Nat → Nat → Nat × Nat) : Nat → Nat → List Nat → List Nat × Nat
  | 0, g, l => (l, g)
  | k + 1, g, l => let r := vredLevel op g l; vredTree op k r.2 r.1

/-- y_i = y_(i−1) op x_i upwards from the lane `y` (R314). -/
def vscanList (op : Nat → Nat → Nat → Nat × Nat) : Nat → Nat → List Nat → List Nat × Nat
  | g, _, [] => ([], g)
  | g, y, x :: t =>
    let r := op g y x
    let q := vscanList op r.2 r.1 t
    (r.1 :: q.1, q.2)

/-- Generator word for OP 0 on a float type under SR; nothing else draws. -/
def sumGen (w : OpA) (g : Nat) : List (Nat × Word) :=
  if tyFloat w.ty ∧ w.imm.toNat % 8 = 0 then genWord (rmF w) g else []

def planVred (w : OpA) (ins : Ins) : Plan :=
  oneStream ins (fun v =>
    let r := vredTree (sumOp w ins.fa) 6 (ins.st.getD 13 0).toNat (vecLanes w.ty ins.fa ins.ha v)
    { outs := toBoth (laneScalar ins.fa (lane r.1 0)), st := sumGen w r.2 })

def planVscan (w : OpA) (ins : Ins) : Plan :=
  oneStream ins (fun v =>
    let l := vecLanes w.ty ins.fa ins.ha v
    let r := vscanList (sumOp w ins.fa) (ins.st.getD 13 0).toNat (lane l 0) l.tail
    let first := if tyFloat w.ty then (tyF w.ty).rnd .rne false 0 ((tyF w.ty).dec (lane l 0)) else lane l 0
    { outs := toBoth (.vec (packLanes (tyWidth w.ty) (first :: r.1))), st := sumGen w r.2 })

def execVred (w : OpA) (s : State) : Out := operate s w.t0 w.t1 (planVred w (insOf s))
def execVscan (w : OpA) (s : State) : Out := operate s w.t0 w.t1 (planVscan w (insOf s))

/-! ## VDOT4 (R398) -/

/-- Σ over four lanes from 4j of A·B. -/
def dotInt (ta tb : IntF) (a b : List Nat) (j : Nat) : Int :=
  ([0, 1, 2, 3].map (fun k => ta.read (lane a (4 * j + k)) * tb.read (lane b (4 * j + k)))).sum

def dotFloat (a b : List Nat) (j : Nat) : List FVal :=
  [0, 1, 2, 3].map (fun k => (f16F.dec (lane a (4 * j + k))).mul (f16F.dec (lane b (4 * j + k))))

def planVdot4 (w : OpA) (ins : Ins) : Plan :=
  predicated w.pred ins emitNothing
    (streams .trap true false true ins id id id 0 (fun a b c =>
      if tyFloat w.ty then
        let la := floatLanes .vf16 ins.fa ins.ha a
        let lb := floatLanes .vf16 ins.fb ins.hb b
        let lc := floatLanes .vf32 ins.fc ins.hc c
        let half := w.imm.toNat % 2
        let vals := (List.range 8).map (fun j => FVal.sum (rmF w) (f32F.dec (lane lc (8 * half + j)) :: dotFloat la lb j))
        let r := rndList f32F (rmF w) (satF w) (ins.st.getD 13 0).toNat vals
        { outs := toBoth (.vec (packLanes 32 (if half = 0 then r.1 ++ lc.drop 8 else lc.take 8 ++ r.1))),
          st := genWord (rmF w) r.2 }
      else
        let la := lanesOf 8 64 a
        let lb := lanesOf 8 64 b
        let lc := lanesOf 32 16 c
        let t : IntF := ⟨32, true⟩
        { outs := toBoth (.vec (packLanes 32 ((List.range 16).map (fun j =>
            fitTo t (satI w) (t.read (lane lc j) + dotInt ⟨8, fmtSigned ins.fa⟩ ⟨8, fmtSigned ins.fb⟩ la lb j))))) }))

def execVdot4 (w : OpA) (s : State) : Out := operate s w.t0 w.t1 (planVdot4 w (insOf s))

/-! ## CPLX (R399) -/

/-- The complex values of an operand as pairs of part patterns; scaled cf16 parts are rounded in f16 (R301, R312). -/
def cplxVals (f h v : Nat) : List (Nat × Nat) :=
  let n := if fmtVEC f then 16 else 1
  (lanesOf 32 n v).map (fun x =>
    let part (p : Nat) : Nat := if fmtFMT f = 17 ∧ fmtSEN f then f16F.rnd .rne false 0 ((f16F.dec p).scale (scaleExp h)) else p
    (part (x % 2 ^ 16), part (x / 2 ^ 16)))

/-- The value of a list of complex pairs. -/
def cplxOut (fa : Nat) (l : List Nat) : OutV := if fmtVEC fa then .vec (packLanes 32 l) else .sc (lane l 0)

/-- Round parts in order, each with a draw: `k draw part`. -/
def roundParts {α : Type} (md : RMode) (k : Nat → α → Nat) : Nat → List (α × α) → List Nat × Nat
  | g, [] => ([], g)
  | g, (r, i) :: t =>
    let g1 := drawFor md g
    let g2 := drawFor md g1
    let q := roundParts md k g2 t
    ((k g1 r + k g2 i * 2 ^ 16) :: q.1, q.2)

/-- A ci16 part from its exact value P in units of 2^−30 (R399). -/
def ciRound (w : OpA) (g : Nat) (p : Int) : Nat :=
  fitTo ⟨16, true⟩ (satF w) (FVal.toInt (rmF w) g (decide (p < 0)) p.natAbs (-15))

def zip3C {α β γ δ : Type} (f : α → β → γ → δ) : List α → List β → List γ → List δ
  | a :: l, b :: m, c :: n => f a b c :: zip3C f l m n
  | _, _, _ => []

/-- A complex product form: `pi` gives the exact parts of ci16 values, `pf` those of cf16 values. -/
def cplxForm (w : OpA) (useB useC : Bool) (ins : Ins) (pi : Int × Int → Int × Int → Int × Int → Int × Int)
    (pf : FVal × FVal → FVal × FVal → FVal × FVal → FVal × FVal) : Plan :=
  predicated w.pred ins emitNothing
    (streams w.mm useB false useC ins (cplxVals ins.fa ins.ha) (cplxVals ins.fb ins.hb)
      (fun v => if useC then cplxVals ins.fc ins.hc v else List.replicate 16 (0, 0)) (List.replicate 16 (0, 0))
      (fun a b c =>
        let g := (ins.st.getD 13 0).toNat
        let r :=
          if fmtFMT ins.fa = 17 then
            let d (x : Nat × Nat) : FVal × FVal := (f16F.dec x.1, f16F.dec x.2)
            roundParts (rmF w) (fun g x => f16F.rnd (rmF w) (satF w) g x) g
              (zip3C (fun x y z => pf (d x) (d y) (d z)) a b c)
          else
            let d (x : Nat × Nat) : Int × Int := (sextNat 16 x.1, sextNat 16 x.2)
            roundParts (rmF w) (ciRound w) g (zip3C (fun x y z => pi (d x) (d y) (d z)) a b c)
        { outs := toBoth (cplxOut ins.fa r.1), st := genWord (rmF w) r.2 }))

def planCmul (w : OpA) (ins : Ins) : Plan :=
  cplxForm w true false ins (fun a b _ => (a.1 * b.1 - a.2 * b.2, a.1 * b.2 + a.2 * b.1))
    (fun a b _ => (FVal.sum (rmF w) [a.1.mul b.1, (a.2.mul b.2).neg], FVal.sum (rmF w) [a.1.mul b.2, a.2.mul b.1]))

def planCmac (w : OpA) (ins : Ins) : Plan :=
  cplxForm w true true ins
    (fun a b c => (a.1 * b.1 - a.2 * b.2 + c.1 * 2 ^ 15, a.1 * b.2 + a.2 * b.1 + c.2 * 2 ^ 15))
    (fun a b c => (FVal.sum (rmF w) [a.1.mul b.1, (a.2.mul b.2).neg, c.1], FVal.sum (rmF w) [a.1.mul b.2, a.2.mul b.1, c.2]))

def planCmulj (w : OpA) (ins : Ins) : Plan :=
  cplxForm w true false ins (fun a b _ => (a.1 * b.1 + a.2 * b.2, a.2 * b.1 - a.1 * b.2))
    (fun a b _ => (FVal.sum (rmF w) [a.1.mul b.1, a.2.mul b.2], FVal.sum (rmF w) [a.2.mul b.1, (a.1.mul b.2).neg]))

/-- The conjugate of a value (R399): exact; −(−32,768) fits under SAT. -/
def conjVal (w : OpA) (fa : Nat) (x : Nat × Nat) : Nat :=
  if fmtFMT fa = 17 then
    f16F.rnd .rne false 0 (f16F.dec x.1) + f16F.rnd .rne false 0 (f16F.dec x.2).neg * 2 ^ 16
  else x.1 + fitTo ⟨16, true⟩ (satF w) (-(sextNat 16 x.2)) * 2 ^ 16

def planCconj (w : OpA) (ins : Ins) : Plan :=
  predicated w.pred ins emitNothing
    (oneStream ins (fun v => { outs := toBoth (cplxOut ins.fa ((cplxVals ins.fa ins.ha v).map (conjVal w ins.fa))) }))

def planCmag2 (w : OpA) (ins : Ins) : Plan :=
  predicated w.pred ins emitNothing (oneStream ins (fun v =>
    let l := cplxVals ins.fa ins.ha v
    if fmtFMT ins.fa = 17 then
      let r := rndList f32F (rmF w) (satF w) (ins.st.getD 13 0).toNat
        (l.map (fun x => FVal.sum (rmF w) [(f16F.dec x.1).mul (f16F.dec x.1), (f16F.dec x.2).mul (f16F.dec x.2)]))
      { outs := toBoth (cplxOut ins.fa r.1), st := genWord (rmF w) r.2 }
    else
      { outs := toBoth (cplxOut ins.fa (l.map (fun x =>
          (sextNat 16 x.1 * sextNat 16 x.1 + sextNat 16 x.2 * sextNat 16 x.2).toNat))) }))

def execCmul (w : OpA) (s : State) : Out := operate s w.t0 w.t1 (planCmul w (insOf s))
def execCmac (w : OpA) (s : State) : Out := operate s w.t0 w.t1 (planCmac w (insOf s))
def execCconj (w : OpA) (s : State) : Out := operate s w.t0 w.t1 (planCconj w (insOf s))
def execCmulj (w : OpA) (s : State) : Out := operate s w.t0 w.t1 (planCmulj w (insOf s))
def execCmag2 (w : OpA) (s : State) : Out := operate s w.t0 w.t1 (planCmag2 w (insOf s))

/-! ## BLOCK (R400 to R402) -/

/-- The larger of two magnitudes as they are held: f32 codes for cf16, integers for ci16. -/
def magMax (cf : Bool) (x y : Nat) : Nat :=
  if cf then f32F.rnd .rne false 0 ((f32F.dec x).maxT (f32F.dec y)) else max x y

/-- Largest part magnitude of a token (R400). -/
def maxAbsVal (f h v : Nat) : Nat :=
  let cf := fmtFMT f = 17
  let m (p : Nat) : Nat := if cf then f32F.rnd .rne false 0 (f16F.dec p).abs else (sextNat 16 p).natAbs
  (cplxVals f h v).foldl (fun acc x => magMax cf acc (magMax cf (m x.1) (m x.2))) 0

def planMaxabs (w : OpA) (ins : Ins) : Plan :=
  if w.imm.toNat % 8 = 0 then oneStream ins (fun v => { outs := toBoth (.sc (maxAbsVal ins.fa ins.ha v)) })
  else
    let lv := w.imm.toNat % 8
    let acc := (ins.st.getD 0 0).toNat
    match ins.a with
    | .empty => .wait
    | .broken => .mismatch
    | .data v =>
      .fire { eat := [.a], st := [(0, BitVec.ofNat 32 (magMax (fmtFMT ins.fa = 17) acc (maxAbsVal ins.fa ins.ha v))), (1, 1)],
              keepsState := true }
    | .stop m =>
      if m < lv then .fire { eat := [.a], st := [(1, 1)], keepsState := true }
      else if m = lv then
        .fire { eat := [.a], outs := toBoth (.sc acc), st := [(0, 0), (1, 0)], keepsState := true, endsState := true }
      else if (ins.st.getD 1 0).toNat % 2 = 1 then .mismatch
      else .fire { eat := [.a], outs := toBoth (.stop m) }

/-- The largest s in 0 to `k` for which every part fits i16 after a shift by s (R401). -/
def bfpShift : Nat → List Int → Nat
  | 0, _ => 0
  | k + 1, l => if l.all (fun v => decide (-32768 ≤ v * 2 ^ (k + 1)) && decide (v * 2 ^ (k + 1) ≤ 32767)) then k + 1
                else bfpShift k l

/-- Mantissas of a group's parts in order, with a draw for each (R401). -/
def bfpParts (md : RMode) (mw sh : Nat) : Nat → List Int → List Nat × Nat
  | g, [] => ([], g)
  | g, v :: t =>
    let g := drawFor md g
    let q := FVal.toInt md g (decide (v < 0)) v.natAbs ((sh : Int) - (16 - mw))
    let q := satTo ⟨mw, true⟩ q
    let r := bfpParts md mw sh g t
    ((⟨16, true⟩ : IntF).pat (q * 2 ^ (16 - mw)) :: r.1, r.2)

/-- Parts of the values from lane `i`, `n` of them, real before imaginary. -/
def partsFrom (l : List (Nat × Nat)) (i n : Nat) : List Int :=
  (((l.drop i).take n).map (fun x => [sextNat 16 x.1, sextNat 16 x.2])).flatten

/-- The cb16 unit of twelve ci16 values (R401, R302). -/
def bfpUnit (md : RMode) (mw g : Nat) (l : List (Nat × Nat)) : Nat × Nat :=
  let g0 := partsFrom l 0 4
  let g1 := partsFrom l 4 4
  let g2 := partsFrom l 8 4
  let s0 := bfpShift 15 g0
  let s1 := bfpShift 15 g1
  let s2 := bfpShift 15 g2
  let m0 := bfpParts md mw s0 g g0
  let m1 := bfpParts md mw s1 m0.2 g1
  let m2 := bfpParts md mw s2 m1.2 g2
  (packLanes 16 (m0.1 ++ m1.1 ++ m2.1) + 2 ^ 384 * packLanes 8 [127 - s0, 127 - s1, 127 - s2], m2.2)

def planBfpenc (w : OpA) (ins : Ins) : Plan :=
  let mw := if w.imm.toNat % 16 = 0 then 16 else w.imm.toNat % 16
  oneStream ins (fun v =>
    let r := bfpUnit (rmF w) mw (ins.st.getD 13 0).toNat (cplxVals ins.fa ins.ha v)
    { outs := toBoth (.vec r.1), st := genWord (rmF w) r.2 })

/-- Exact value of part `p` (0 real, 1 imaginary) of value j of a cb16 unit in units of 2^−15, scaled by the edge's
factor (R302, R312): the signed mantissa and the exponent of two. -/
def cb16Part (f h v j p : Nat) : Int × Int :=
  let m := sextNat 16 (v / 2 ^ (32 * j + 16 * p))
  let ec := v / 2 ^ (384 + 8 * (j / 4)) % 256
  (m, (ec : Int) - 127 + (if fmtSEN f then scaleExp h else 0))

def bfpDecList (md : RMode) (f h v : Nat) : Nat → List Nat → List Nat × Nat
  | g, [] => ([], g)
  | g, i :: t =>
    let g := drawFor md g
    let x := cb16Part f h v (i / 2) (i % 2)
    let q := sat16 (FVal.toInt md g (decide (x.1 < 0)) x.1.natAbs x.2)
    let r := bfpDecList md f h v g t
    ((⟨16, true⟩ : IntF).pat q :: r.1, r.2)

def planBfpdec (w : OpA) (ins : Ins) : Plan :=
  oneStream ins (fun v =>
    let r := bfpDecList (rmF w) ins.fa ins.ha v (ins.st.getD 13 0).toNat (List.range 24)
    { outs := toBoth (.vec (packLanes 16 r.1)), st := genWord (rmF w) r.2 })

def execMaxabs (w : OpA) (s : State) : Out := operate s w.t0 w.t1 (planMaxabs w (insOf s))
def execBfpenc (w : OpA) (s : State) : Out := operate s w.t0 w.t1 (planBfpenc w (insOf s))
def execBfpdec (w : OpA) (s : State) : Out := operate s w.t0 w.t1 (planBfpdec w (insOf s))

/-! ## PLANE (R403 to R405) -/

/-- Byte key of plane `j` of the area of a PLANE form: plane 7 lies at word 16·ABASE (R403). -/
def planeKey (s : State) (w : OpA) (j : Nat) : Nat :=
  winKey s s.cur.isl s.cur.slot (curCtx s) s.cur.cell (16 * (w.imm.toNat / 32)) + 32 * (7 - j)

/-- Bits `j` of 64 lanes as 8 bytes. -/
def bitColumn (j : Nat) (l : List Nat) : Nat := packLanes 1 (l.map (fun x => x / 2 ^ j % 2))

/-- The words, by key, that bit j of 64 elements from element 64·ph makes in each plane (R404). -/
def columnWords (s : State) (w : OpA) (ph : Nat) (l : List Nat) : List (Nat × List Word) :=
  (List.range 8).map (fun j => (planeKey s w j + 8 * ph, natWords 2 (bitColumn j l)))

/-- The newest firing writes words of its area: the bank write waits in the check stage (R273). -/
def deferArea (s : State) (ws : List (Nat × List Word)) : State :=
  { s with chks := s.chks.map (fun r => if r.tag + 1 = s.nextChk then { r with area := ws } else r) }

/-- Words of the bank are still to be read or written by earlier firings of the executing slot's port: the form reads and writes them
as bank words of its own port, in order (R230, R403). -/
def areaBusy (s : State) (k n : Nat) : Bool :=
  let meet (x m : Nat) : Bool := decide (x < k + 4 * n) && decide (k < x + 4 * m)
  s.accs.any (fun a => a.site.isl == s.cur.isl && a.site.slot == s.cur.slot && a.site.cell == s.cur.cell && isAccess a
      && a.space == .cell && a.phase != .performed && meet a.addr (accSpan a))
    || s.chks.any (fun r => r.isl == s.cur.isl && r.slot == s.cur.slot && r.cell == s.cur.cell
      && r.area.any (fun e => meet e.1 e.2.length))

/-- In debug mode the detector checks and records what a firing of the slot, as it was in `s`, has touched by key; what the slot sends
from now on derives from it (R290). -/
def touchArea (s : State) (w : OpA) (pl : Plan) (wrote : Bool) (keys : List Nat) (t : State) : State :=
  if !debugOf s s.cur.isl then t
  else
    let c := curCtx s
    let n := curSlotNo s
    let deps := match pl with | .fire f => fireDeps c s.cur.cell s.cur.k f | _ => []
    let t := if wrote then modCtx t s.cur.isl s.cur.slot (fun c => { c with sdeps := c.sdeps.set [] n (mergeDeps (c.sdeps.get [] n) [areaDep s]) }) else t
    hazardArea t (c.thread.getD 0) (firingNo c n) (16 * (w.imm.toNat / 32) + (keys.headD 0 - planeKey s w 7) / 4) wrote deps keys

/-- A firing reads words of the area, given as (key, words): poison stops the thread (R285), an uncorrectable word makes the
firing fail (R272), and only good words let it go on as `k`. -/
def readArea (w : OpA) (s : State) (k : State → Out) : List (Nat × Nat) → Out
  | [] => k s
  | (a, n) :: t =>
    match readCheck s a n with
    | (.good, s) => readArea w s k t
    | (.poisoned j, s) => .next (raiseHere s 0x9033 (16 * (w.imm.toNat / 32) + (a - planeKey s w 7) / 4 + j) 1 0)
    | (.bad, s) => .next (failFiring s s.cur (firingNo (curCtx s) (curSlotNo s)) (unitsOf a n))

/-- PLANESPLIT (R404); `plane j` is the area's plane. -/
def planPlanesplit (w : OpA) (plane : Nat → Nat) (ins : Ins) : Plan :=
  let p := w.imm.toNat % 16
  let ph := (ins.st.getD 0 0).toNat
  let next (n : Nat) : List (Nat × Word) := [(0, BitVec.ofNat 32 n)]
  if ph < 4 then
    match ins.a with
    | .empty => .wait
    | .broken => .mismatch
    | .data _ => .fire { eat := [.a], st := next (ph + 1), keepsState := true }
    | .stop m =>
      if ph = 0 then needStop ins.b m (.fire { eat := [.a, .b], outs := [(false, .stop m)] }) else .mismatch
  else if ph = 4 then
    needData ins.b (fun x => .fire { eat := [.b], outs := [(false, .vec x)], st := next 5, keepsState := true })
  else
    let last := ph = 4 + p
    .fire { outs := [(false, .beats (if last ∧ p % 2 = 1 then [plane (12 - ph), 0] else [plane (12 - ph)]))],
            st := next (if last then 0 else ph + 1), keepsState := true, endsState := last }

def execPlanesplit (w : OpA) (s : State) : Out :=
  let ins := insOf s
  let ph := (ins.st.getD 0 0).toNat
  let go (s : State) : Out :=
    let pl := planPlanesplit w (fun j => leNat (rdBytes s (planeKey s w j) 32)) ins
    operateThen s w.t0 w.t1 pl
      (fun t =>
        if 5 ≤ ph then touchArea s w pl false [planeKey s w (12 - ph)] t
        else match ins.a with
          | .data v =>
            let ws := columnWords s w ph (lanesOf 8 64 v)
            if ph < 4 then touchArea s w pl true (ws.map (fun e => e.1)) (deferArea t ws) else t
          | _ => t)
  let wide := ph == 4 + w.imm.toNat % 16 && w.imm.toNat % 2 == 1
  let busy := if ph < 4 then (match ins.a with | .data _ => (List.range 8).any (fun j => areaBusy s (planeKey s w j + 8 * ph) 2) | _ => false)
    else decide (5 ≤ ph) && areaBusy s (planeKey s w (12 - ph)) 8
  if busy then .next s
  else if 5 ≤ ph ∧ mayFire s ∧ canSend s w.t0 w.t1 [(false, .beats (if wide then [0, 0] else [0]))] then
    readArea w s go [(planeKey s w (12 - ph), 8)]
  else go s

/-- Element bits that PLANEJOIN emits: the planes read, bit 7 − p set for MID (R405). -/
def joinLane (p : Nat) (mid : Bool) (plane : Nat → Nat) (e : Nat) : Nat :=
  ((List.range p).map (fun i => (plane (7 - i) / 2 ^ e % 2) * 2 ^ (7 - i))).sum
    + (if mid ∧ p < 8 then 2 ^ (7 - p) else 0)

/-- The heads of a's buffer as single beats. -/
def beatsOf (c : Ctx) (cell k : Nat) : List Tok := bufFull c cell (operandKey c cell k 0)

/-- PLANEJOIN (R405): `beats` are the tokens at the head of a. -/
def planPlanejoin (plane : Nat → Nat) (beats : List Tok) (ins : Ins) : Plan :=
  let p := fmtPL ins.fa
  let ph := (ins.st.getD 0 0).toNat
  let next (n : Nat) : List (Nat × Word) := [(0, BitVec.ofNat 32 n)]
  if ph < 2 + p then
    match beats with
    | [] => .wait
    | t :: r =>
      if t.stop ≠ 0 then
        (if ph = 0 then .fire { eat := [.a], beatsA := 1, outs := toBoth (.stop t.stop) } else .mismatch)
      else if ph < 2 then
        .fire { eat := [.a], beatsA := 1, outs := [(true, .beats [t.data.toNat])], st := next (ph + 1), keepsState := true }
      else if ph = 1 + p ∧ p % 2 = 1 then
        (match r with
         | [] => .wait
         | x :: _ => if x.stop ≠ 0 then .mismatch else .fire { eat := [.a], beatsA := 2, st := next (ph + 1), keepsState := true })
      else .fire { eat := [.a], beatsA := 1, st := next (ph + 1), keepsState := true }
  else
    let u := ph - 2 - p
    .fire { outs := [(false, .vec (packLanes 8 ((List.range 64).map (fun i => joinLane p (fmtMID ins.fa) plane (64 * u + i)))))],
            st := next (if u = 3 then 0 else ph + 1), keepsState := true, endsState := decide (u = 3) }

def execPlanejoin (w : OpA) (s : State) : Out :=
  let ins := insOf s
  let ph := (ins.st.getD 0 0).toNat
  let beats := beatsOf (curCtx s) s.cur.cell s.cur.k
  let p := fmtPL ins.fa
  let column := (List.range p).map (fun i => planeKey s w (7 - i) + 8 * (ph - 2 - p))
  let go (s : State) : Out :=
    let pl := planPlanejoin (fun j => leNat (rdBytes s (planeKey s w j) 32)) beats ins
    operateThen s w.t0 w.t1 pl
      (fun t =>
        if 2 + p ≤ ph then touchArea s w pl false column t
        else if 2 ≤ ph then
          match beats with
          | b :: _ => touchArea s w pl true [planeKey s w (9 - ph)] (deferArea t [(planeKey s w (9 - ph), natWords 8 b.data.toNat)])
          | [] => t
        else t)
  let busy := if 2 + p ≤ ph then column.any (fun k => areaBusy s k 2) else decide (2 ≤ ph) && areaBusy s (planeKey s w (9 - ph)) 8
  if busy then .next s
  else if 2 + p ≤ ph ∧ mayFire s ∧ canSend s w.t0 w.t1 [(false, .vec 0)] then readArea w s go (column.map (fun k => (k, 2)))
  else go s

/-! ## COORD (R406, R407) -/

/-- The field that a selector names of (coordinate, position in a, position in b); none is 0xFFFFFFFF. -/
def coordSel (sel c : Nat) (x y : Option Nat) : Nat :=
  match sel with
  | 0 => c
  | 1 => x.getD 0xFFFFFFFF
  | _ => y.getD 0xFFFFFFFF

def coordOut (w : OpA) (c : Nat) (x y : Option Nat) : List (Bool × OutV) :=
  [(false, .sc (coordSel (w.imm.toNat % 4) c x y)), (true, .sc (coordSel (w.imm.toNat / 4 % 4) c x y))]

def planCoord (union : Bool) (w : OpA) (ins : Ins) : Plan :=
  let lv := w.imm.toNat / 16 % 8
  let pa := (ins.st.getD 0 0).toNat
  let pb := (ins.st.getD 1 0).toNat
  let wd (n : Nat) : Word := BitVec.ofNat 32 n
  let takeA (x : Nat) : Plan :=
    .fire { eat := [.a], outs := if union then coordOut w x (some pa) none else [], st := [(0, wd (pa + 1))] }
  let takeB (y : Nat) : Plan :=
    .fire { eat := [.b], outs := if union then coordOut w y none (some pb) else [], st := [(1, wd (pb + 1))] }
  match ins.a, ins.b with
  | .empty, _ | _, .empty => .wait
  | .broken, _ | _, .broken => .mismatch
  | .data x, .data y =>
    if x < y then takeA x
    else if y < x then takeB y
    else .fire { eat := [.a, .b], outs := coordOut w x (some pa) (some pb), st := [(0, wd (pa + 1)), (1, wd (pb + 1))] }
  | .data x, .stop m => if m = lv then takeA x else .mismatch
  | .stop m, .data y => if m = lv then takeB y else .mismatch
  | .stop m, .stop n =>
    if m = n ∧ lv ≤ m then .fire { eat := [.a, .b], outs := toBoth (.stop m), st := [(0, 0), (1, 0)] } else .mismatch

def execIsect (w : OpA) (s : State) : Out := operate s w.t0 w.t1 (planCoord false w (insOf s))
def execUnion (w : OpA) (s : State) : Out := operate s w.t0 w.t1 (planCoord true w (insOf s))

end Sys2Proof.Machine
end

