-- ==== Sys2Proof/Machine/Xlate.lean ====
section
/-! DEFINITION. Page tables and translation caches (R245 to R252), SBUF windows (R253), and the two steps of an
invalidation. -/
namespace Sys2Proof.Machine

/-- Kinds of access that a walk checks (R248). -/
inductive XKind where
  | read | write | rmw | fetch
  deriving DecidableEq, Repr

def XKind.code : XKind → Nat
  | .read => 0 | .write => 1 | .rmw => 2 | .fetch => 3

/-- Fields of a table entry (R247). -/
def pteV (e : Nat) : Bool := e.testBit 0
def pteLeaf (e : Nat) : Bool := e.testBit 1
def pteRd (e : Nat) : Bool := e.testBit 2
def pteWr (e : Nat) : Bool := e.testBit 3
def pteHost (e : Nat) : Bool := e.testBit 4
def pteX (e : Nat) : Bool := e.testBit 5
def pteAddr (e : Nat) : Nat := bitsOf e 59 13 * 2 ^ 13

/-- A PA inside the map of R245. -/
def paOk (pa : Nat) : Bool := decide (pa < 2 ^ 38) && decide (pa % 2 ^ 36 < 48 * 2 ^ 30)

/-- A malformed entry at level `lv` (R248). -/
def pteBad (e lv : Nat) : Bool :=
  bitsOf e 12 6 != 0 || bitsOf e 63 60 != 0 ||
  (pteLeaf e && lv == 0) || (!pteLeaf e && lv == 3) ||
  (!pteLeaf e && (pteRd e || pteWr e || pteHost e || pteX e || bitsOf e 59 48 != 0)) ||
  (pteLeaf e && lv == 1 && bitsOf e 32 13 != 0) || (pteLeaf e && lv == 2 && bitsOf e 22 13 != 0) ||
  (pteLeaf e && !pteHost e && !paOk (pteAddr e))

/-- Whether permissions allow a kind of access (R248). -/
def permits (rd wr x : Bool) : XKind → Bool
  | .read => rd
  | .write => wr
  | .rmw => rd && wr
  | .fetch => x

/-- log2 of the page size of a leaf's level (R246). -/
def pageBits (lv : Nat) : Nat := 13 + 10 * (3 - lv)

/-- Where a walk ends: a fault with its level, or a leaf. -/
inductive WalkEnd where
  | fault (code level : Nat)
  | leaf (e level : Nat)
  deriving DecidableEq, Repr

/-- The walk from table `t` at level `lv`, without the permission check (R248). It reads codewords of HBM4 like any reader: one that is
uncorrectable ends it (R288, log entry 53). -/
def walkFrom (s : State) (va : Nat) : Nat → Nat → Nat → WalkEnd × State
  | 0, _, lv => (.fault 0x9003 lv, s)
  | n + 1, t, lv =>
    let a := t + 8 * bitsOf va (52 - 10 * lv) (43 - 10 * lv)
    match readCheck s a 2 with
    | (.good, s) =>
      let e := rdDword s a
      if !pteV e then (.fault 0x9001 lv, s)
      else if pteBad e lv then (.fault 0x9003 lv, s)
      else if pteLeaf e then (.leaf e lv, s)
      else walkFrom s va n (pteAddr e % 2 ^ 48) (lv + 1)
    | (_, s) => (.fault 0x9006 lv, s)

/-- PTROOT of a space: EN in bit 0, the root's PA above it (R249). -/
def ptRoot (s : State) (sp : Nat) : Nat := s.xl.ptroot.get 0 sp

def walk (s : State) (sp va : Nat) : WalkEnd × State :=
  let r := ptRoot s sp
  if r % 2 = 0 then (.fault 0x9001 0, s) else walkFrom s va 4 (r / 2 ^ 13 * 2 ^ 13) 0

/-- Physical or bus address of a leaf. -/
def leafAddr (e lv va : Nat) : Nat := pteAddr e / 2 ^ pageBits lv * 2 ^ pageBits lv + va % 2 ^ pageBits lv

/-- Detail 1 of a translation fault (R254). -/
def xDetail (level : Nat) (k : XKind) (host : Bool) : Nat := level + 4 * k.code + (if host then 16 else 0)

/-- A translation: the address and HOST, or the fault code, level and HOST. -/
inductive XRes where
  | ok (addr : Nat) (host : Bool)
  | fault (code detail : Nat)
  deriving DecidableEq, Repr

def tlbHit (l : List TlbEnt) (sp va : Nat) : Option TlbEnt :=
  l.find? (fun e => e.space == sp && e.vpage == va / 2 ^ pageBits e.level)

/-- Entries a translation cache holds (R250): 4,096 shared, 256 on the IOD, 16 of a stream. -/
def tlbCap (i : Nat) : Nat := if i < 4 then 4096 else if i = 4 then 256 else 16

/-- Enter a translation; the oldest entry goes when the cache is full (log entry 5). -/
def tlbFill (i : Nat) (l : List TlbEnt) (e : TlbEnt) : List TlbEnt :=
  let l := l ++ [e]
  l.drop (l.length - tlbCap i)

/-- Permission of an entry that a cache gives, without a new walk (R250). -/
def fromEntry (e : TlbEnt) (va : Nat) (k : XKind) : XRes :=
  if permits e.rd e.wr e.x k then .ok (e.base + va % 2 ^ pageBits e.level) e.host
  else .fault 0x9002 (xDetail e.level k e.host)

/-- Enter a translation in cache `i`. -/
def tlbPut (s : State) (i : Nat) (e : TlbEnt) : State :=
  { s with xl := { s.xl with tlbs := s.xl.tlbs.set [] i (tlbFill i (s.xl.tlbs.get [] i) e) } }

/-- Translate a VA through a cache that walks: a hit, or a walk that fills it; the entry that gave the translation (R248). -/
def translateAt (s : State) (i sp va : Nat) (k : XKind) : XRes × Option TlbEnt × State :=
  match tlbHit (s.xl.tlbs.get [] i) sp va with
  | some e => (fromEntry e va k, some e, s)
  | none =>
    match walk s sp va with
    | (.fault c lv, s) => (.fault c (if c = 0x9006 then 0 else xDetail lv k false), none, s)
    | (.leaf e lv, s) =>
      if permits (pteRd e) (pteWr e) (pteX e) k then
        let t : TlbEnt := { space := sp, level := lv, vpage := va / 2 ^ pageBits lv, base := leafAddr e lv 0,
                            rd := pteRd e, wr := pteWr e, host := pteHost e, x := pteX e }
        (.ok (leafAddr e lv va) (pteHost e), some t, tlbPut s i t)
      else (.fault 0x9002 (xDetail lv k (pteHost e)), none, s)

/-- Translate a VA of a space through cache `i`. A stream TLB that misses asks the shared TLB of its memory-port die (R250). -/
def translate (s : State) (i sp va : Nat) (k : XKind) : XRes × State :=
  if i < 16 then
    let (x, _, s) := translateAt s i sp va k
    (x, s)
  else match tlbHit (s.xl.tlbs.get [] i) sp va with
    | some e => (fromEntry e va k, s)
    | none =>
      match translateAt s ((i - 16) / 128) sp va k with
      | (x, some e, s) => (x, tlbPut s i e)
      | (x, none, s) => (x, s)

/-- Memory key of a translated address. -/
def physKey (addr : Nat) (host : Bool) : Nat := if host then hostBase + addr else addr

/-- The space of an island's accesses (R246, R249): its thread's partition, or the service space. -/
def spaceOf (s : State) (isl : Nat) (c : Ctx) : Nat :=
  if 256 ≤ isl then 16 else match c.thread with | some t => (threadAt s t).part | none => c.part

/-- Cache of an island's scalar accesses (R250). -/
def tlbOf (isl : Nat) : Nat := if isl < 256 then isl / 64 else 4

/-- Privilege level of an island's context: 0 T, 1 S, 2 H (R107). -/
def levelOf (s : State) (isl : Nat) (c : Ctx) : Nat :=
  if isl = 260 then 2 else if 256 ≤ isl then 1
  else match c.thread with | some t => (threadAt s t).level | none => 0

/-- VA of a service image area (R121). -/
def areaVa (a : Nat) : Nat := if a = 0 then 0x1000000 else 0x1400000

/-- A VA lies in the image area that the image of a service island does not own: SI3 runs the new image, the others the running
one (R121). -/
def otherArea (s : State) (isl va : Nat) : Bool :=
  let a := areaVa (if isl = 259 then s.fw.area else 1 - s.fw.area)
  decide (256 ≤ isl) && decide (a ≤ va) && decide (va < a + 2 ^ 22)

/-- Translate for a cell; the holm's accesses are physical (R249). An image reaches only its own area: the other's pages are as
if they were not mapped for it (log entry 69). -/
def translateCell (s : State) (isl : Nat) (c : Ctx) (va : Nat) (k : XKind) : XRes × State :=
  if isl = 260 then (if paOk va then .ok va false else .fault 0x9001 (xDetail 0 k false), s)
  else if otherArea s isl va then (.fault 0x9001 (xDetail 3 k false), s)
  else translate s (tlbOf isl) (spaceOf s isl c) va k

/-! ## SBUF windows (R253) -/

/-- SBWIN of partition p, die k, window w. -/
def sbWin (s : State) (p k w : Nat) : Nat := (s.xl.sbwin.get 0 (16 * p + 4 * k + w)).toNat

/-- Bytes `a` to `a + len − 1` of SBUF lie in a window that is in use; a pool window allows reads only. -/
def inWindow (v a len : Nat) (reads : Bool) : Bool :=
  v.testBit 0 && decide (bitsOf v 9 1 * 2 ^ 16 ≤ a % 2 ^ 25) &&
    decide (a % 2 ^ 25 + len ≤ (bitsOf v 9 1 + bitsOf v 18 10 + 1) * 2 ^ 16) && (!v.testBit 19 || reads)

/-- An SBUF access of a level is allowed (R253). -/
def sbufAllowed (s : State) (p level a len : Nat) (reads : Bool) : Bool :=
  decide (a + len ≤ 2 ^ 27) && decide (a / 2 ^ 25 = (a + len - 1) / 2 ^ 25) &&
    (level != 0 || [0, 1, 2, 3].any (fun w => inWindow (sbWin s p (a / 2 ^ 25) w) a len reads))

/-! ## Invalidation (R251, R252) -/

/-- Entries that an invalidation names. -/
def invNames (sp : Nat) (all : Bool) (va : Nat) (e : TlbEnt) : Bool :=
  e.space == sp && (all || e.vpage == va / 2 ^ pageBits e.level)

/-- A VA of the space may have been translated with an entry that the invalidation removes: it lies on the named page, or on
the page of a cached entry that is removed. -/
def invHits (s : State) (sp : Nat) (all : Bool) (va a : Nat) : Bool :=
  all || a / 2 ^ 13 == va / 2 ^ 13 || s.xl.tlbs.any (fun t => t.2.any (fun e => invNames sp all va e && e.vpage == a / 2 ^ pageBits e.level))

/-- An access may have been translated with a removed entry; one that a fault holds has no translation. -/
def invCovers (s : State) (sp : Nat) (all : Bool) (va : Nat) (a : Acc) : Bool :=
  (a.space == .hbm || a.space == .host) && a.part == sp && a.phase != .held && a.phase != .performed && invHits s sp all va a.va

/-- Elements being moved and units in flight of the streams and copies of a space that may have been translated with a removed entry. -/
def invUnits (s : State) (sp : Nat) (all : Bool) (va : Nat) : List Nat :=
  let reqs := (s.ces.flatMap (fun e => e.2.run.toList ++ e.2.aside)).filter (fun r =>
    (if r.owner < 0x1000 then (threadAt s r.owner).part else (queueAt s (r.owner - 0x1000)).part) == sp)
  let hits (e n : Nat) : Bool := decide (e / 2 ^ 60 = 0) && invHits s sp all va (e % 2 ^ 53 + 64 * n)
  (s.gens.flatMap (fun g => match g.2.run, g.2.thread with
    | some r, some t => if (threadAt s t).part = sp ∧ (r.spec.getD 0 0).toNat % 4 = 0 then
        (r.pipe.filter (fun p => p.left != [] && p.keys.zipIdx.any (fun k => invHits s sp all va (p.addr + 64 * k.2)))).map (fun p => p.id) else []
    | _, _ => [])) ++
  reqs.flatMap (fun r => (r.inFlight.filter (fun u => hits r.src u.unit || hits r.dst u.unit)).map (fun u => u.id))

/-- TLBINV with GO = 1: the named entries leave every cache at once, and the accesses translated with them are noted
(R251). A write while GO reads 1 is ignored, a space above 16 is refused, and only level H reaches the register. -/
def tlbInvGo (s : State) (v : Word) : State :=
  let sp := v.toNat % 32
  let all := v.toNat.testBit 5
  if s.xl.inv.toNat.testBit 31 then s
  else if 16 < sp then s
  else if !v.toNat.testBit 31 then { s with xl := { s.xl with inv := BitVec.ofNat 32 (v.toNat % 64) } }
  else
    { s with xl := { s.xl with
        inv := BitVec.ofNat 32 (v.toNat % 64 + 2 ^ 31),
        tlbs := s.xl.tlbs.map (fun t => (t.1, t.2.filter (fun e => !invNames sp all s.xl.invVa e))) |>.filter (fun t => t.2 ≠ []),
        invOld := (s.accs.filter (invCovers s sp all s.xl.invVa)).map (fun a => a.id) ++ invUnits s sp all s.xl.invVa
          ++ (s.pcie.posted.filter (fun w => fnOf s sp == some w.fn)).map (fun w => w.id) } }

def execTlbinvGo (l : Level) (v : Word) (s : State) : Out :=
  match l with
  | .h => .next (tlbInvGo s v)
  | _ => .next s

/-- An invalidation can complete: every access translated with a removed entry is performed or dropped (R251). -/
def tlbInvReady (s : State) : Bool :=
  s.xl.inv.toNat.testBit 31 && s.xl.invOld.all (fun i =>
    !(s.accs.any (fun a => a.id == i && a.phase != .performed))
      && !(s.ces.any (fun e => (e.2.run.toList ++ e.2.aside).any (fun r => r.inFlight.any (fun u => u.id == i))))
      && !(s.gens.any (fun g => g.2.run.any (fun r => r.pipe.any (fun p => p.id == i && p.left != [])))))

/-- Functions whose writes to host memory an invalidation still covers: performed, but not complete at the host (R251, R228). -/
def invPosted (s : State) : List Nat :=
  ((s.pcie.posted.filter (fun w => s.xl.invOld.contains w.id)).map (fun w => w.fn)).eraseDups

/-- GO reads 0; entries that were filled from the old tables meanwhile leave too, so that later accesses walk (R251,
R252). -/
def tlbInvDone (s : State) : State :=
  let v := s.xl.inv.toNat
  { s with xl := { s.xl with
      inv := BitVec.ofNat 32 (v % 64), invOld := [], invAsked := none,
      tlbs := s.xl.tlbs.map (fun t => (t.1, t.2.filter (fun e => !invNames (v % 32) (v.testBit 5) s.xl.invVa e)))
        |>.filter (fun t => t.2 ≠ []) } }

end Sys2Proof.Machine
end

