-- ==== Sys2Proof/Machine/MemOps.lean ====
section
/-! DEFINITION. Loads and stores of the four spaces, stream and copy requests, counters and spill queues: majors 0x40
to 0x46 (R408 to R420). A firing issues an access; ACCESS_COMPLETE performs it. -/
namespace Sys2Proof.Machine

/-! ## Aligned operands (R408) -/

/-- What the operands of a memory form present together. -/
inductive MIn where
  | wait
  | mismatch
  | stop (l : Nat)
  | data
  deriving DecidableEq, Repr

/-- All data, or all stops of one level; anything else is a mismatch (R408). -/
def alignAll (l : List Inp) : MIn :=
  if l.any (· == .empty) then .wait
  else if l.any (· == .broken) then .mismatch
  else if l.all (fun i => match i with | .data _ => true | _ => false) then .data
  else match l with
    | .stop n :: _ => if l.all (· == .stop n) then .stop n else .mismatch
    | _ => .mismatch

def inpVal : Inp → Nat
  | .data v => v
  | _ => 0

/-- A memory form: its operands in step, the predicate, and the plan of a performing firing (R408, R328). With the
condition false the firing consumes its inputs and emits only its completion token, if it has one (R414). -/
def memPlan (w : OpA) (ins : Ins) (ops : List (Pos × Inp)) (comp : Bool) (k : Fire) : Plan :=
  let eat := ops.map (·.1)
  match alignAll (ops.map (·.2)) with
  | .wait => .wait
  | .mismatch => .mismatch
  | .stop l => predicated w.pred ins id (.fire { eat := eat, outs := toBoth (.stop l) })
  | .data =>
    predicated w.pred ins
      (fun f => { eat := f.eat, beatsB := f.beatsB, outs := if comp then [(true, .sc 0)] else [] })
      (.fire { k with eat := eat })

/-- The firing performs: its inputs are data and its predicate holds. -/
def performs (w : OpA) (ins : Ins) (ops : List (Pos × Inp)) : Bool :=
  (alignAll (ops.map (·.2)) == .data) &&
    (match w.pred, ins.p with
     | .always, _ => true
     | m, .data v => predHolds m ins.fp v
     | _, _ => false)

/-! ## Issuing an access -/

/-- The kinds of operation that R410 counts: memory, counter, owner-update, group, time and holm-call operations. -/
def countsKind : AccKind → Bool
  | .fence _ | .emit _ | .late _ | .trap | .request | .tile _ _ _ _ => false
  | _ => true

/-- Operations of a cell outstanding (R410). -/
def outstanding (s : State) (isl cell : Nat) : Nat :=
  (s.accs.filter (fun a => a.site.isl == isl && a.site.cell == cell && a.phase != .performed && countsKind a.kind)).length

/-- The access that the executing firing issues; its id is the next one. -/
def newAcc (s : State) (kind : AccKind) (space : Space) (addr va n : Nat) : Acc :=
  let c := curCtx s
  { id := s.nextAcc, site := s.cur, thread := c.thread.getD 0, firing := firingNo c (curSlotNo s), kind := kind,
    space := space, addr := addr, va := va, n := n, since := s.dtime, part := spaceOf s s.cur.isl c }

/-- An access of the firing that has just been carried out: it waits in the cell's check stage (R273). -/
def pushAcc (s : State) (a : Acc) : State :=
  let a := { a with chk := some (s.nextChk - 1), phase := if a.phase = .issued then .check else a.phase }
  { s with accs := s.accs ++ [a], nextAcc := s.nextAcc + 1 }

/-- Outputs whose entries an access reserves when it issues (R176). -/
def reserved (a : Acc) : List (Bool × OutV) :=
  List.replicate (accNeed a).1 (false, .sc 0) ++ List.replicate (accNeed a).2 (true, .sc 0)

/-- Results of earlier firings of the executing slot have not left yet (R488). -/
def slotPending (s : State) : Bool := s.accs.any (fun a => a.site == s.cur && !a.done1)

/-- Fire a form whose outputs wait for those of its earlier firings: a stop or a completion token becomes a pending
operation while results are due (R408, R426, R488). -/
def fireOrdered (s : State) (t0 t1 : Target) (pl : Plan) : Out :=
  match pl with
  | .fire f =>
    if mayFire s && slotPending s && f.outs ≠ [] then
      if room s t0 t1 f.outs then
        let lv := match f.outs with | (_, .stop l) :: _ => l | _ => 0
        let deps := liveDeps s s.cur.isl (fireDeps (curCtx s) s.cur.cell s.cur.k f)
        let a := { newAcc s (.emit lv) .sys 0 0 1 with
                     t0 := if f.outs.any (fun o => !o.1) then t0 else .none
                     t1 := t1, deps := deps, phase := .performed }
        .next (pushAcc (commit s t0 t1 { f with outs := [] }) a)
      else .next s
    else operate s t0 t1 pl
  | pl => operate s t0 t1 pl

/-- A memory form whose inputs are there fires and issues `a`: fewer than sixteen operations of its cell are outstanding and the
results have room (R176, R410). -/
def issueReady (s : State) (w : OpA) (a : Acc) : Bool :=
  (!countsKind a.kind || decide (outstanding s s.cur.isl s.cur.cell < 16)) && room s w.t0 w.t1 (reserved { a with t0 := w.t0, t1 := w.t1 })

/-- Fire a memory form: not ready while its results have no room or sixteen operations are outstanding (R176, R410). On
performing, the inputs are consumed and `a` is issued with what they derive from; an access that faults at the firing
raises instead (R413). -/
def fireMem (s : State) (w : OpA) (ins : Ins) (ops : List (Pos × Inp)) (k : Fire)
    (a : Except (Nat × Nat × Nat) Acc) (post : State → State) : Out :=
  if !mayFire s then .next s
  else if performs w ins ops then
    match a with
    | .error (code, addr, d1) =>
      if room s w.t0 w.t1 [(false, .sc 0), (true, .sc 0)] then .next (raiseHere s code addr d1 0) else .next s
    | .ok acc =>
      let acc := { acc with t0 := w.t0, t1 := w.t1 }
      if issueReady s w acc then
        match memPlan w ins ops true k with
        | .fire f =>
          let deps := liveDeps s s.cur.isl (fireDeps (curCtx s) s.cur.cell s.cur.k f)
          .next (post (pushAcc (commit s w.t0 w.t1 { f with outs := [] }) { acc with deps := deps }))
        | _ => .next s
      else .next s
  else fireOrdered s w.t0 w.t1 (memPlan w ins ops true k)

/-- A translation fault at the firing: the access is issued and held, and the resumable fault is raised (R260, R413). -/
def heldAcc (s : State) (a : Acc) : XRes → Acc
  | .ok addr host => { a with addr := physKey addr host, space := if host then .host else .hbm }
  | .fault _ _ => { a with phase := .held, space := .hbm }

/-- Raise the fault of a translation that held an access. -/
def raiseHeld (s : State) (a : Acc) : XRes → State
  | .ok _ _ => s
  | .fault c d => raiseAt s a.site a.firing c a.va d 0

/-! ## Addresses (R412, R413) -/

def modW (w : OpA) (i : Nat) : Bool := w.md.toNat / 2 ^ i % 2 == 1
/-- CONS, VEC, W64, ORD of class M (R330). -/
def mCons (w : OpA) : Bool := modW w 0
def mVec (w : OpA) : Bool := modW w 1
def mW64 (w : OpA) : Bool := modW w 2
def mOrd (w : OpA) : Bool := modW w 3
/-- Words that a form moves. -/
def mWords (w : OpA) : Nat := if mVec w then 16 else if mW64 w then 2 else 1
/-- OFF (R412). -/
def mOff (w : OpA) : Int := if w.ib then 0 else sextNat 11 (w.imm.toNat / 32)

/-- An address of 64 bits as the record shows it. -/
def addr64 (x : Int) : Nat := modPow 64 x

/-- A CELL access of `n` words at window word `x` of cell `tgt` (R413). -/
def cellAddr (s : State) (tgt : Nat) (x : Int) (n : Nat) : Except (Nat × Nat × Nat) Nat :=
  let c := curCtx s
  if x % (n : Int) ≠ 0 then .error (0x9010, addr64 x, 0)
  else if x < 0 ∨ (winLen c tgt : Int) < x + n then .error (0x9011, addr64 x, 0)
  else .ok (winKey s s.cur.isl s.cur.slot c tgt x.toNat)

/-- An SBUF access of `n` words at byte `x` (R413, R253). -/
def sbufAddr (s : State) (x : Int) (n : Nat) (reads : Bool) : Except (Nat × Nat × Nat) Nat :=
  let c := curCtx s
  if x % (4 * n : Int) ≠ 0 then .error (0x9010, addr64 x, 0)
  else if x < 0 ∨ !sbufAllowed s (spaceOf s s.cur.isl c) (levelOf s s.cur.isl c) x.toNat (4 * n) reads then
    .error (0x9004, addr64 x, 0)
  else .ok (sbufBase + x.toNat)

/-- The VA of a GLOB access, or the fault that comes before translation (R413). -/
def globVa (x : Int) (n : Nat) (k : XKind) : Except (Nat × Nat × Nat) Nat :=
  if x % (4 * n : Int) ≠ 0 then .error (0x9010, addr64 x, 0)
  else if x < 0 ∨ (2 ^ 53 : Int) < x + 4 * n then .error (0x9001, addr64 x, xDetail 0 k false)
  else .ok x.toNat

/-- A SYS access: alignment, then the level (R413). -/
def sysAddr (s : State) (x : Int) : Except (Nat × Nat × Nat) Nat :=
  let y := (x % (2 ^ 29 : Int)).toNat
  if y % 4 ≠ 0 then .error (0x9010, y, 0)
  else if levelOf s s.cur.isl (curCtx s) = 0 then .error (0x9012, y, 0)
  else .ok y

/-! ## The forms (R411, R414) -/

/-- Address word A_u (R412). -/
def addrA (ins : Ins) : Int := (inpVal ins.a : Nat)
/-- High word of a VA: C_u[20:0] (R413). -/
def addrC (ins : Ins) : Int := (inpVal ins.c % 2 ^ 21 * 2 ^ 32 : Nat)

/-- Words that a store writes: B's bits, two tokens for W64, or sext(IMM) (R412, R414). -/
def storeWords (w : OpA) (ins : Ins) (b2 : Inp) : List Word :=
  if w.ib then [BitVec.ofNat 32 (modPow 32 (sextNat 16 w.imm.toNat))]
  else if mVec w then natWords 16 (inpVal ins.b)
  else if mW64 w then [BitVec.ofNat 32 (inpVal ins.b), BitVec.ofNat 32 (inpVal b2)]
  else [BitVec.ofNat 32 (inpVal ins.b)]

/-- The second token at the head of b, for W64 stores. -/
def secondB (s : State) : Inp :=
  presents false ((bufFull (curCtx s) s.cur.cell (operandKey (curCtx s) s.cur.cell s.cur.k 1)).drop 1)

/-- Operands of a store: a, b unless immediate, and b's second token for W64. -/
def storeOps (w : OpA) (ins : Ins) (b2 : Inp) : List (Pos × Inp) :=
  (.a, ins.a) :: (if w.ib then [] else [(.b, ins.b)]) ++
    (if mW64 w && !w.ib then (match ins.b with | .data _ => [(.b, b2)] | _ => []) else [])

/-- Operands to consume: b once, with two tokens for W64. -/
def storeEat (w : OpA) : Fire := { beatsB := if mW64 w && !w.ib then 2 else 0 }

/-- A store whose second token is a stop is a mismatch; the consumption names b once (R414). -/
def dedupB (l : List (Pos × Inp)) : List (Pos × Inp) :=
  match l with
  | x :: (.b, y) :: (.b, z) :: t => x :: (.b, if z == .empty then .empty else match z with | .data _ => y | _ => .broken) :: t
  | _ => l

def execLdc (w : OpA) (s : State) : Out :=
  let ins := insOf s
  fireMem s w ins [(.a, ins.a)] {}
    ((cellAddr s s.cur.cell (addrA ins + mOff w * mWords w) (mWords w)).map
      (fun k => { newAcc s .load .cell k (addrA ins + mOff w * mWords w).toNat (mWords w) with vec := mVec w }))
    (hazardCheck false)

def execLdcf (w : OpA) (s : State) : Out :=
  let ins := insOf s
  fireMem s w ins [(.a, ins.a)] {}
    ((cellAddr s s.cur.cell (addrA ins + mOff w * mWords w) (mWords w)).map
      (fun k => { newAcc s .loadFull .cell k (addrA ins + mOff w * mWords w).toNat (mWords w) with vec := mVec w, cons := mCons w }))
    (hazardCheck (mCons w))

def execStc (w : OpA) (s : State) : Out :=
  let ins := insOf s
  fireMem s w ins (storeOps w ins .empty) {}
    ((cellAddr s s.cur.cell (addrA ins + mOff w * mWords w) (mWords w)).map
      (fun k => { newAcc s .store .cell k (addrA ins + mOff w * mWords w).toNat (mWords w) with val := storeWords w ins .empty }))
    (hazardCheck true)

def execStcr (w : OpA) (s : State) : Out :=
  let ins := insOf s
  fireMem s w ins (storeOps w ins .empty) {}
    ((cellAddr s (w.imm.toNat % 16) (addrA ins + mOff w * mWords w) (mWords w)).map
      (fun k => { newAcc s .storeFull .cell k (addrA ins + mOff w * mWords w).toNat (mWords w) with val := storeWords w ins .empty }))
    (hazardCheck true)

def execClreCell (w : OpA) (s : State) : Out :=
  let ins := insOf s
  fireMem s w ins [(.a, ins.a)] {}
    ((cellAddr s s.cur.cell (addrA ins + mOff w * mWords w) (mWords w)).map
      (fun k => newAcc s .clear .cell k (addrA ins + mOff w * mWords w).toNat (mWords w)))
    (hazardCheck true)

/-- SBUF byte address of a form (R413). -/
def sbufX (w : OpA) (ins : Ins) : Int := addrA ins + 4 * mOff w * mWords w

def execLds (w : OpA) (s : State) : Out :=
  let ins := insOf s
  fireMem s w ins [(.a, ins.a)] {}
    ((sbufAddr s (sbufX w ins) (mWords w) true).map
      (fun k => { newAcc s .load .sbuf k (sbufX w ins).toNat (mWords w) with vec := mVec w }))
    (hazardCheck false)

def execLdsf (w : OpA) (s : State) : Out :=
  let ins := insOf s
  fireMem s w ins [(.a, ins.a)] {}
    ((sbufAddr s (sbufX w ins) (mWords w) (!mCons w)).map
      (fun k => { newAcc s .loadFull .sbuf k (sbufX w ins).toNat (mWords w) with vec := mVec w, cons := mCons w }))
    (hazardCheck (mCons w))

def execSts (w : OpA) (s : State) : Out :=
  let ins := insOf s
  let b2 := secondB s
  fireMem s w ins (dedupB (storeOps w ins b2)) (storeEat w)
    ((sbufAddr s (sbufX w ins) (mWords w) false).map
      (fun k => { newAcc s .store .sbuf k (sbufX w ins).toNat (mWords w) with val := storeWords w ins b2 }))
    (hazardCheck true)

def execClreSbuf (w : OpA) (s : State) : Out :=
  let ins := insOf s
  fireMem s w ins [(.a, ins.a)] {}
    ((sbufAddr s (sbufX w ins) (mWords w) false).map
      (fun k => newAcc s .clear .sbuf k (sbufX w ins).toNat (mWords w)))
    (hazardCheck true)

/-- VA of a form (R413). -/
def globX (w : OpA) (ins : Ins) : Int := addrC ins + addrA ins + 4 * mOff w * mWords w

/-- A GLOB form: the VA is translated at the firing; a translation fault that is resumable holds the access, any other
is raised (R413, R260). -/
def fireGlob (s : State) (w : OpA) (ins : Ins) (ops : List (Pos × Inp)) (k : Fire) (kind : AccKind) (xk : XKind) (n : Nat)
    (x : Int) (set : Acc → Acc) (wrote : Bool) : Out :=
  match globVa x n xk with
  | .error (0x9001, va, d) =>
    let a := { set (newAcc s kind .hbm 0 va n) with phase := .held }
    fireMem s w ins ops k (.ok a) (fun t => raiseAt t a.site a.firing 0x9001 va d 0)
  | .error e => fireMem s w ins ops k (.error e) id
  | .ok va =>
    let (r, s1) := translateCell s s.cur.isl (curCtx s) va xk
    match r with
    | .fault 0x9003 d => fireMem s w ins ops k (.error (0x9003, va, d)) id
    | r =>
      let a := heldAcc s (set (newAcc s kind .hbm 0 va n)) r
      fireMem (if mayFire s && performs w ins ops && issueReady s w a then s1 else s) w ins ops k (.ok a)
        (fun t => if a.phase = .held then raiseHeld t a r else hazardCheck wrote t)

def execLdg (w : OpA) (s : State) : Out :=
  let ins := insOf s
  fireGlob s w ins [(.a, ins.a), (.c, ins.c)] {} .load .read (mWords w) (globX w ins) (fun a => { a with vec := mVec w }) false

def execStg (w : OpA) (s : State) : Out :=
  let ins := insOf s
  let b2 := secondB s
  fireGlob s w ins (dedupB (storeOps w ins b2) ++ [(.c, ins.c)]) (storeEat w) .store .write (mWords w) (globX w ins)
    (fun a => { a with val := storeWords w ins b2 }) true

def execSyrd (w : OpA) (s : State) : Out :=
  let ins := insOf s
  let x := (inpVal ins.a % 2 ^ 29 : Nat) + 4 * mOff w
  fireMem s w ins [(.a, ins.a)] {} ((sysAddr s x).map (fun y => newAcc s .load .sys y y 1)) id

def execSywr (w : OpA) (s : State) : Out :=
  let ins := insOf s
  let x := (inpVal ins.a % 2 ^ 29 : Nat) + 4 * mOff w
  fireMem s w ins (storeOps w ins .empty) {}
    ((sysAddr s x).map (fun y => { newAcc s .store .sys y y 1 with val := storeWords w ins .empty })) id

/-! ## Stream and copy requests (R416) -/

/-- Words of the operator state, 0 to n − 1, as tokens. -/
def groupToks (st : List Word) (n : Nat) (last : Nat) (deps : List Nat) : List Tok :=
  ((st.take (n - 1)).map (fun v => scalarTok v.toNat deps)) ++ [scalarTok last deps]

/-- Tokens that a slot has sent on T0 wait to leave behind the first (R416, R424): the slot does not fire again. -/
def groupBusy (s : State) (w : OpA) : Bool :=
  match targetPlace s s.cur.isl s.cur.slot s.cur.cell w.t0 with
  | some p => heldBack s s.cur.isl s.cur.slot p (match w.t0 with | .vc v => 256 + v.toNat | _ => 2 * curSlotNo s)
  | none => false

/-- The source of a request group: context slot, cell and VC. -/
def vcSource (isl slot cell vc : Nat) : Nat := 32 * (16 * (8 * isl + slot) + cell) + vc

def requestKey (s : State) (w : OpA) : Nat :=
  match w.t0 with
  | .vc v => vcSource s.cur.isl s.cur.slot s.cur.cell v.toNat
  | _ => 0

/-- The firing that stores the last word `v` of a group of `g` has been carried out as `t`: the words leave by T0, the first
into the buffer, the rest behind it, with the operation that its completion token waits for. -/
def sendGroup (w : OpA) (g v : Nat) (st : List Word) (acc : Acc) (t : State) : State :=
  match targetPlace t t.cur.isl t.cur.slot t.cur.cell w.t0 with
  | some p =>
    let n := t.flights.length
    let t := sendTokens t t.cur.isl t.cur.slot t.cur.cell (curSlotNo t) 0 w.t0 (groupToks st g v acc.deps)
    pushAcc { t with flights := holdBack n p (t.flights.zipIdx.map (fun e =>
      { e.1 with chk := if n ≤ e.2 then some (t.nextChk - 1) else e.1.chk })) } acc
  | none => t

/-- The firing that stores the last word of a group (R416). -/
def lastWord (cnt v : Nat) : Fire :=
  { eat := [.a], st := [(cnt, BitVec.ofNat 32 v), (12, 0)], keepsState := true, endsState := true }

/-- ENGRQ (R416): gathers `g` words in operator state, word 12 the count. The firing that stores the last word is ready
once T0 can accept one token; it puts the first word in the switchbox buffer and the rest behind it, each entering as
room comes (place 4096 + the buffer), and no other token of the VC comes between them. -/
def execGather (g : Nat) (w : OpA) (s : State) : Out :=
  let ins := insOf s
  let cnt := (ins.st.getD 12 0).toNat
  if groupBusy s w then .next s
  else match ins.a with
    | .empty => .next s
    | .broken => operate s w.t0 w.t1 .mismatch
    | .stop l => fireOrdered s w.t0 w.t1 (if cnt = 0 then .fire { eat := [.a], outs := [(true, .stop l)] } else .mismatch)
    | .data v =>
      if cnt + 1 < g then
        operate s w.t0 w.t1
          (.fire { eat := [.a], st := [(cnt, BitVec.ofNat 32 v), (12, BitVec.ofNat 32 (cnt + 1))], keepsState := true })
      else if room s w.t0 w.t1 [(false, .sc 0), (true, .sc 0)] then
        let deps := liveDeps s s.cur.isl (fireDeps (curCtx s) s.cur.cell s.cur.k (lastWord cnt v))
        operateThen s w.t0 w.t1 (.fire (lastWord cnt v))
          (sendGroup w g v ins.st { newAcc s .request .sys (requestKey s w) 0 1 with t1 := w.t1, deps := deps })
      else .next s

def execStream (w : OpA) (s : State) : Out := execGather 12 w s
def execCopy (w : OpA) (s : State) : Out := execGather 8 w s

/-! ## Counters (R418, R419) -/

/-- A counter address with a reserved bit of R68 set: bit 63 = 0 for SBUF (bits 62:27 and 2:0 reserved), 1 for GLOB
(bits 62:53 reserved). -/
def ctrReserved (a : Nat) : Bool :=
  if a.testBit 63 then decide (a % 2 ^ 63 / 2 ^ 53 ≠ 0) else decide (a / 2 ^ 27 ≠ 0) || decide (a % 8 ≠ 0)

/-- Value of CTRADD's or target of WAITGE's operand b (R418). -/
def ctrValue (w : OpA) (ins : Ins) (b2 : Inp) : Nat :=
  if w.ib then modPow 32 (sextNat 16 w.imm.toNat)
  else if mW64 w then inpVal ins.b + 2 ^ 32 * inpVal b2
  else inpVal ins.b

/-- A counter form: the address of a and c, the checks of R418 in their order, then the access. None of them may reach a pool
window: it is no load of R253. -/
def fireCtr (s : State) (w : OpA) (ins : Ins) (ops : List (Pos × Inp)) (k : Fire) (kind : AccKind) (xk : XKind) (v : Nat)
    (set : Acc → Acc) : Out :=
  let a := inpVal ins.a + 2 ^ 32 * inpVal ins.c
  if ctrReserved a then fireMem s w ins ops k (.error (0x9015, a, 0)) id
  else if v.testBit 63 then fireMem s w ins ops k (.error (0x9015, a, 0)) id
  else if a.testBit 63 then fireGlob s w ins ops k kind xk 2 (a % 2 ^ 63 : Nat) set (xk == .rmw)
  else
    fireMem s w ins ops k
      ((sbufAddr s (a : Nat) 2 false).map (fun key => set (newAcc s kind .sbuf key a 2))) (hazardCheck (xk == .rmw))

def execCtradd (w : OpA) (s : State) : Out :=
  let ins := insOf s
  let b2 := secondB s
  let v := ctrValue w ins b2
  fireCtr s w ins (dedupB (storeOps w ins b2) ++ [(.c, ins.c)]) (storeEat w) .ctrAdd .rmw v
    (fun a => { a with val := natWords 2 v, rel := mOrd w })

def execWaitge (w : OpA) (s : State) : Out :=
  let ins := insOf s
  let b2 := secondB s
  let v := ctrValue w ins b2
  fireCtr s w ins (dedupB (storeOps w ins b2) ++ [(.c, ins.c)]) (storeEat w) .waitGe .read v
    (fun a => { a with val := natWords 2 v, n := 1 })

def execCtrrd (w : OpA) (s : State) : Out :=
  let ins := insOf s
  fireCtr s w ins [(.a, ins.a), (.c, ins.c)] {} .ctrRead .read 0 id

/-! ## Spill queues (R420, R220, R221, R472, R473) -/

/-- Fields of a spill-queue descriptor (R324). -/
def spCell (d : DWord × DWord) : Nat := bitsOf d.1.toNat 3 0
def spVc (d : DWord × DWord) : Nat := bitsOf d.1.toNat 8 4
def spK (d : DWord × DWord) : Nat := bitsOf d.1.toNat 11 9
def spW (d : DWord × DWord) : Nat := bitsOf d.1.toNat 14 12 + 1
def spLog2 (d : DWord × DWord) : Nat := bitsOf d.1.toNat 19 15
def spBase (d : DWord × DWord) : Nat := bitsOf d.1.toNat 33 20
def spFmt (d : DWord × DWord) : Nat := bitsOf d.1.toNat 49 34
def spAddr (d : DWord × DWord) : Nat := bitsOf d.2.toNat 26 0

/-- Index of the descriptor whose QPUSH is slot K of a cell: its VC entry feeds that slot. -/
def pushDesc (c : Ctx) (cell k : Nat) : Option Nat :=
  c.block.spills.findIdx? (fun d => spCell d == cell && (vcsOf c cell k 0).any (fun e => vcVc e == spVc d))

def popDesc (c : Ctx) (cell k : Nat) : Option Nat :=
  c.block.spills.findIdx? (fun d => spCell d == cell && spK d == k)

def descAt (c : Ctx) (i : Nat) : DWord × DWord := c.block.spills.getD i (0, 0)
def spillAt (c : Ctx) (i : Nat) : SpillQ := c.spills.get {} i
def setSpill (c : Ctx) (i : Nat) (q : SpillQ) : Ctx := { c with spills := c.spills.set {} i q }

/-- Entries in the ring. -/
def ringCount (q : SpillQ) : Nat := (q.rtail + 2 ^ 32 - q.rhead) % 2 ^ 32

/-- nr and ns as they stand at the start of a cycle (R473). -/
def atStart (q : SpillQ) (cycle : Nat) : Nat × Nat := if q.mark.1 = cycle + 1 then q.mark.2 else (q.nr, ringCount q)

/-- The queue as it is about to change in a cycle. -/
def markSpill (q : SpillQ) (cycle : Nat) : SpillQ := { q with mark := (cycle + 1, atStart q cycle) }

/-- Entries that a queue with `nr` resident and `ns` spilled takes (R221). -/
def spillFree (d : DWord × DWord) (x : Nat × Nat) : Nat := (if x.2 = 0 then 32 - x.1 else 0) + (2 ^ spLog2 d - x.2)

/-- A push is accepted (R221, R473): room in the resident store or in the ring, now and at the start of the cycle, beyond what `n`
pushes in the check stage take. -/
def spillRoom (d : DWord × DWord) (q : SpillQ) (cycle n : Nat) : Bool :=
  decide (n < spillFree d (atStart q cycle)) && decide (n < spillFree d (q.nr, ringCount q))

/-- A push goes to the resident store (R221, R473): it has room, and nothing is in the ring nor was at the start of the cycle. -/
def toResident (q : SpillQ) (cycle : Nat) : Bool :=
  let x := atStart q cycle
  decide (x.2 = 0) && decide (x.1 < 32) && decide (ringCount q = 0) && decide (q.nr < 32)

/-- Pushes onto a spill queue of a context in the check stage. -/
def pushesHeld (s : State) (isl slot i : Nat) : Nat :=
  (s.chks.filter (fun r => r.isl == isl && r.slot == slot && (match r.push with | some (j, _) => j == i | none => false))).length

/-- The newest firing pushes an entry: the bank write waits in the check stage (R273). -/
def deferPush (s : State) (i : Nat) (ws : List Word) (level : Nat) : State :=
  { s with chks := s.chks.map (fun r => if r.tag + 1 = s.nextChk then { r with push := some (i, ws, level) } else r) }

/-- What the entries of a spill queue derive from (R233). -/
def coverSpill (s : State) (i : Nat) (deps : List Nat) : State :=
  modCtx s s.cur.isl s.cur.slot (fun c =>
    let q := spillAt c i
    setSpill c i { q with deps := liveDeps s s.cur.isl (mergeDeps q.deps deps) })

/-- SBUF key of ring slot n, and of its tag byte (R472). -/
def ringKey (d : DWord × DWord) (n : Nat) : Nat := sbufBase + spAddr d + 64 + 2 ^ spLog2 d + 32 * (n % 2 ^ spLog2 d)
def tagKey (d : DWord × DWord) (n : Nat) : Nat := sbufBase + spAddr d + 64 + n % 2 ^ spLog2 d

/-- Key of the resident slot's words. -/
def residentKey (s : State) (isl slot : Nat) (d : DWord × DWord) (n : Nat) : Nat :=
  winKey s isl slot (ctxAt s isl slot) (spCell d) (spBase d + spW d * (n % 32))

/-- A context's spill queues may reach `n` bytes of SBUF at a key: no pool window lets them (R253). -/
def spillMay (s : State) (isl slot k n : Nat) : Bool :=
  let c := ctxAt s isl slot
  sbufAllowed s (spaceOf s isl c) (levelOf s isl c) (k - sbufBase) n false

/-- The first of the SBUF places of ring slot n, its words and its tag byte, that a queue may not reach, as a byte address. -/
def ringBarred (s : State) (isl slot : Nat) (d : DWord × DWord) (n : Nat) : Option Nat :=
  if !spillMay s isl slot (ringKey d n) (4 * spW d) then some (ringKey d n - sbufBase)
  else if !spillMay s isl slot (tagKey d n) 1 then some (tagKey d n - sbufBase)
  else none

/-- Push an entry of words (a stop entry: zeros and its level) to the resident tail or the ring tail (R221). An entry whose place
in the ring lies outside the thread's windows stops the thread at the firing that pushed it (R253). -/
def spillPush (s : State) (x : Site) (firing i : Nat) (ws : List Word) (level : Nat) : State :=
  let (isl, slot) := (x.isl, x.slot)
  let c := ctxAt s isl slot
  let d := descAt c i
  let q := markSpill (spillAt c i) s.cycle
  if toResident q s.cycle then
    let n := (q.reshead + q.nr) % 32
    let s := writtenBank (wrWords s (residentKey s isl slot d n) ws) (residentKey s isl slot d n) ws.length
    modCtx s isl slot (fun c => setSpill c i { q with nr := q.nr + 1, rtag := (q.rtag ++ List.replicate (32 - q.rtag.length) 0).set n level })
  else if let some a := ringBarred s isl slot d q.rtail then raiseAt s x firing 0x9004 a 0 0
  else
    let s := wrWords s (ringKey d q.rtail) ws
    let s := wrBytes s (tagKey d q.rtail) [BitVec.ofNat 8 level]
    modCtx s isl slot (fun c => setSpill c i { q with rtail := (q.rtail + 1) % 2 ^ 32 })

/-- QPUSH (R420): words 0 to 7 gather an entry, word 8 counts them. -/
def execQpush (w : OpA) (s : State) : Out :=
  let ins := insOf s
  let c := curCtx s
  match pushDesc c s.cur.cell s.cur.k with
  | none => .next s
  | some i =>
    let d := descAt c i
    let cnt := (ins.st.getD 8 0).toNat
    let ok := spillRoom d (spillAt c i) s.cycle (pushesHeld s s.cur.isl s.cur.slot i)
    match ins.a with
    | .empty => .next s
    | .broken => operate s w.t0 w.t1 .mismatch
    | .stop l =>
      if cnt ≠ 0 then operate s w.t0 w.t1 .mismatch
      else if ok then
        let f : Fire := { eat := [.a], outs := toBoth (.stop l) }
        operateThen s w.t0 w.t1 (.fire f)
          (fun t => deferPush (coverSpill t i (fireDeps c s.cur.cell s.cur.k f)) i (List.replicate (spW d) 0) l)
      else .next s
    | .data v =>
      if cnt + 1 < spW d then
        operate s w.t0 w.t1
          (.fire { eat := [.a], st := [(cnt, BitVec.ofNat 32 v), (8, BitVec.ofNat 32 (cnt + 1))], keepsState := true })
      else if ok then
        let f : Fire := { eat := [.a], outs := toBoth (.sc 0), st := [(cnt, BitVec.ofNat 32 v), (8, 0)], keepsState := true, endsState := true }
        operateThen s w.t0 w.t1 (.fire f)
          (fun t => deferPush (coverSpill t i (fireDeps c s.cur.cell s.cur.k f)) i (ins.st.take cnt ++ [BitVec.ofNat 32 v]) 0)
      else .next s

/-- QPOP (R420): word 0 is the position within the entry; the entry leaves the resident store at its first firing. The
words of the entry in progress stand in operator-state words 1 to 7. A poisoned word stops the thread (R285); an uncorrectable
one makes the firing fail (R272). -/
def execQpop (w : OpA) (s : State) : Out :=
  let ins := insOf s
  let c := curCtx s
  match popDesc c s.cur.cell s.cur.k with
  | none => .next s
  | some i =>
    let d := descAt c i
    let q := spillAt c i
    let pos := (ins.st.getD 0 0).toNat
    let next := if pos + 1 < spW d then pos + 1 else 0
    let n := curSlotNo s
    if pos ≠ 0 then
      operate s w.t0 w.t1
        (.fire { outs := toBoth (.sc (ins.st.getD pos 0).toNat), st := [(0, BitVec.ofNat 32 next)], keepsState := true, endsState := next == 0 })
    else if q.nr = 0 ∨ !mayFire s ∨ !room s w.t0 w.t1 (toBoth (.sc 0)) then .next s
    else
      let k := residentKey s s.cur.isl s.cur.slot d q.reshead
      match readCheck s k (spW d) with
      | (.poisoned j, s) => .next (raiseHere s 0x9033 (spBase d + spW d * (q.reshead % 32) + j) 1 0)
      | (.bad, s) => .next (failFiring s s.cur (firingNo c n) (unitsOf k (spW d)))
      | (.good, s) =>
        let ws := rdWords s k (spW d)
        let lv := q.rtag.getD q.reshead 0
        let pop (t : State) : State := modCtx t s.cur.isl s.cur.slot (fun c =>
          setSpill c i { markSpill q s.cycle with nr := q.nr - 1, reshead := (q.reshead + 1) % 32 })
        let s := modCtx s s.cur.isl s.cur.slot (fun c => { c with sdeps := c.sdeps.set [] n (liveDeps s s.cur.isl q.deps) })
        if lv ≠ 0 then operateThen s w.t0 w.t1 (.fire { outs := toBoth (.stop lv), keepsState := true, endsState := true }) pop
        else
          operateThen s w.t0 w.t1
            (.fire { outs := toBoth (.sc (ws.getD 0 0).toNat), keepsState := true, endsState := next == 0,
                     st := (0, BitVec.ofNat 32 next) :: (ws.zipIdx.drop 1).map (fun e => (e.2, e.1)) }) pop

/-- QCOUNT (R420): nr + ns for each data token. -/
def execQcount (w : OpA) (s : State) : Out :=
  let c := curCtx s
  let n := match popDesc c s.cur.cell (w.imm.toNat % 8) with
    | some i => (spillAt c i).nr + ringCount (spillAt c i)
    | none => 0
  operate s w.t0 w.t1 (oneStream (insOf s) (fun _ => { outs := toBoth (.sc n) }))

/-- The slot that pops a queue has taken a fault and fires no more. -/
def popBlocked (s : State) (c : Ctx) (d : DWord × DWord) : Bool :=
  match c.thread with
  | some t => (threadAt s t).blocked.contains (128 * c.blkIdx + 8 * spCell d + spK d)
  | none => false

/-- Refill (R221, R473): the oldest ring entry moves to the resident tail while the context is active. `idx` is the
descriptor. A ring slot outside the thread's windows is a fault of the slot that pops the queue (R253). -/
def execSpillRefill (isl slot idx : Nat) (s : State) : Out :=
  let c := ctxAt s isl slot
  let d := descAt c idx
  let q := markSpill (spillAt c idx) s.cycle
  if c.st = .active ∧ idx < c.block.spills.length ∧ ringCount q ≠ 0 ∧ q.nr < 32 ∧ !popBlocked s c d then
    if let some a := ringBarred s isl slot d q.rhead then
      .next (raiseAt s { isl := isl, slot := slot, cell := spCell d, k := spK d } (firingNo c (8 * spCell d + spK d)) 0x9004 a 0 0)
    else
    let n := (q.reshead + q.nr) % 32
    let lv := (rdByte s (tagKey d q.rhead)).toNat % 8
    let s := writtenBank (wrWords s (residentKey s isl slot d n) (rdWords s (ringKey d q.rhead) (spW d))) (residentKey s isl slot d n) (spW d)
    .next (modCtx s isl slot (fun c => setSpill c idx
      { q with nr := q.nr + 1, rhead := (q.rhead + 1) % 2 ^ 32,
               rtag := (q.rtag ++ List.replicate (32 - q.rtag.length) 0).set n lv }))
  else .next s

end Sys2Proof.Machine
end

