-- ==== Sys2Proof/Machine/Check.lean ====
section
/-! DEFINITION. The check stage of a cell (R273): the outputs of a firing, its tokens, memory requests, bank writes and the
exit that it names, are held until every earlier firing of the cell has passed. -/
namespace Sys2Proof.Machine

/-- An exit named by a firing reaches the home sequencer (R190). -/
def nameExit (s : State) (r : ChkRec) (x : Nat) : State :=
  let c := ctxAt s r.isl r.slot
  let site : Site := { isl := r.isl, slot := r.slot, cell := r.cell, k := r.k }
  match c.thread with
  | none => s
  | some t =>
    if !c.exen.testBit x then raiseAt s site r.firing 0x9019 0 0 0
    else match (threadAt s t).exit with
      | none => modThread s t (fun th => { th with exit := some x })
      | some y => if x = y then s else raiseAt s site r.firing 0x9018 0 0 0

/-- An answered call gets its status, which is on its way back to the caller (R9, R434). -/
def answerCall (s : State) (ticket status : Nat) : State :=
  match s.fw.opened.find? (fun c => c.ticket == ticket) with
  | none => s
  | some c =>
    { s with
      fw := { s.fw with opened := s.fw.opened.filter (fun x => x.ticket != ticket) },
      accs := s.accs.map (fun a => if some a.id = c.acc then { a with phase := .die, res := [BitVec.ofNat 32 status] } else a) }

/-- The outputs of a firing pass the check stage (R273): its tokens and its memory requests leave the cell, its keeps are
written (R359), the words of a PLANE form enter the bank (R403), its entry enters the spill queue's store, the exit that it names reaches the home sequencer, and the status
of a holm call reaches its caller. -/
def passFiring (s : State) (r : ChkRec) : State :=
  let s := { s with
    chks := s.chks.filter (fun x => x.tag != r.tag),
    flights := s.flights.map (fun f => if f.chk = some r.tag then { f with chk := none } else f),
    accs := s.accs.map (fun a => if a.chk = some r.tag then
      { a with chk := none, phase := if a.phase = .check then .issued else a.phase } else a) }
  let s := if r.keeps = [] then s else modCtx s r.isl r.slot (fun c => r.keeps.foldl (fun c e => setKeep c r.cell e.1 e.2) c)
  let s := r.area.foldl (fun s e => writtenBank (wrWords s e.1 e.2) e.1 e.2.length) s
  let s := match r.push with | some (i, ws, lv) => spillPush s { isl := r.isl, slot := r.slot, cell := r.cell, k := r.k } r.firing i ws lv | none => s
  let s := match r.exit with
    | some x => nameExit s r x
    | none => s
  match r.ret with
  | some (t, v) => answerCall s t v
  | none => s

/-- Firings of a cell whose outputs have not all passed the check stage, oldest first. -/
def unchecked (s : State) (isl cell : Nat) : List ChkRec := s.chks.filter (fun r => r.isl == isl && r.cell == cell)

/-- A firing may pass the check stage: no failure of the cell stands, and every read of the bank by an earlier firing has found its
words, so that its failure would be known (R273). -/
def mayPass (s : State) (r : ChkRec) : Bool := !cellFailed s r.isl r.cell && !readDue s r.isl r.cell r.accNo

def passIf (s : State) (r : ChkRec) : State := if mayPass s r then passFiring s r else s

/-- The oldest firing in the check stage of a cell passes it if it may. -/
def passOldest (s : State) (isl cell : Nat) : State :=
  match unchecked s isl cell with
  | r :: _ => passIf s r
  | [] => s

/-- The firings in the check stage of a cell pass it, oldest first, as far as they may. -/
def passCell (s : State) (isl cell : Nat) : State := (unchecked s isl cell).foldl passIf s

/-- The firings in the check stage of a context's slots pass it, oldest first, as far as they may: its cells finish them (R180). -/
def passCtxAll (s : State) (isl slot : Nat) : State := (s.chks.filter (fun r => r.isl == isl && r.slot == slot)).foldl passIf s

/-- A cell holds at most 16 firings in its check stage; while it holds 16 the cycle is no issue cycle (R183, R273). -/
def checkRoom (s : State) (isl cell : Nat) : Bool := decide ((unchecked s isl cell).length < 16)

end Sys2Proof.Machine
end

