-- ==== Sys2Proof/Machine/FrameFmt.lean ====
section
/-! DEFINITION. Formats along the edges of a frame (R308 to R313): which records an operand takesFmt, what a form's
targets carry, and the formats that the slot-operand edges of a block settle to. -/
namespace Sys2Proof.Machine

/-- FMT, PL, MID and VEC of a record: what the two ends of an edge agree on (R313). -/
def fmtBase (r : Nat) : Nat := r % 2 ^ 10 + (if fmtVEC r then 2 ^ 15 else 0)

def sameBase (a b : Nat) : Bool := fmtBase a == fmtBase b

/-- A record of one of some codes, with or without VEC. -/
def fmtIn (r : Nat) (vec : Bool) (l : List Nat) : Bool := fmtVEC r == vec && l.contains (fmtFMT r)

/-- A scalar integer (R311, type 000). -/
def intSc (r : Nat) : Bool := fmtIn r false [0, 1, 2, 3, 4, 5, 6]

/-- Integer lane formats of a width, signed first. -/
def intLane (w : Nat) (signed : Bool) : Nat := (if signed then 0 else 3) + (if w = 8 then 1 else if w = 16 then 2 else 3)
def intLaneFmts (w : Nat) : List Nat := [intLane w true, intLane w false]

/-- What an operand of a type code takesFmt (R311). -/
def accTy (t : TyCode) (r : Nat) : Bool :=
  match t with
  | .i32 => intSc r
  | .f32 => fmtIn r false [8, 9, 10, 11, 12]
  | .vi16 | .vi8 | .vi32 => fmtIn r true (intLaneFmts (tyWidth t))
  | .vf32 | .vf16 | .vbf16 => fmtIn r true [tyFmt t]

/-- Scalar lane formats of a type (R395). -/
def isLaneSc (t : TyCode) (r : Nat) : Bool :=
  fmtIn r false (if tyFloat t then [tyFmt t] else intLaneFmts (tyWidth t))

/-- Word operands named i32 or n32 (R412, R422). -/
def isWord (r : Nat) : Bool := fmtIn r false [3, 6]

/-- The operands a word uses, as position numbers 0 to 3 for a, b, c and p (R328, R329, R377, R395). -/
def usedPos (i : Instr) : List Nat :=
  match i.form with
  | some (maj, sub, w, f) =>
    let l := (if f.uses.contains 'a' then [0] else []) ++ (if f.uses.contains 'b' && !w.ib then [1] else [])
      ++ (if f.uses.contains 'c' || (maj == 10 && sub == 0 && w.imm.getLsbD 6)
            || (maj == 36 && decide (sub < 2) && w.imm.getLsbD 7) then [2] else [])
    l ++ (if w.pred == .always then [] else [3])
  | none =>
    match i.wide with
    | some (_, w) => if w.pred == .always then [0] else [0, 3]
    | none => []

/-- The edge into b or c has the signedness of a's (R356). -/
def signOk (pos : Nat) (fa : Option Nat) (r : Nat) : Bool :=
  pos == 0 || (match fa with | some f => fmtSigned f == fmtSigned r | none => true)

/-- The edge into b or c carries a's format. -/
def sameAsA (pos : Nat) (fa : Option Nat) (r : Nat) : Bool :=
  pos == 0 || (match fa with | some f => sameBase f r | none => true)

/-- Operands of the scalar and vector majors 0x01 to 0x2A, by position; `fa` is a's format where it is known. -/
def takesData (maj sub : Nat) (w : OpA) (pos : Nat) (fa : Option Nat) (r : Nat) : Bool :=
  match maj with
  | 1 | 2 | 3 | 4 | 5 | 6 => accTy w.ty r && signOk pos fa r
  | 7 =>
    if sub = 0 then
      (if pos = 2 then (if tyVec w.ty then fmtIn r true (intLaneFmts (tyWidth w.ty)) else intSc r)
       else fmtVEC r == tyVec w.ty && sameAsA pos fa r)
    else accTy w.ty r && (tyFloat w.ty || signOk pos fa r)
  | 9 =>
    if (sub = 3 ∨ sub = 4) ∧ pos < 2 then fmtVEC r == tyVec w.ty && sameAsA pos fa r
    else if pos = 0 then fmtVEC r == tyVec w.ty
    else if sub = 4 ∨ sub = 5 then true
    else intSc r
  | 10 => if sub = 0 then pos == 0 || fmtIn r false [6] else if sub = 2 then pos == 0 || fmtFMT r == 31 else intSc r
  | 11 => sub == 3 || accTy w.ty r
  | 12 => sub == 0 || intSc r
  | 32 | 33 => accTy w.ty r
  | 34 => if w.ty = .vi8 ∧ sub ≠ 1 then fmtIn r true [11, 12] else accTy w.ty r
  | 35 => if sub = 0 then fmtIn r true [5] else accTy w.ty r
  | 36 =>
    if sub < 2 ∧ pos = 2 then isLaneSc w.ty r && (match fa with | some f => fmtFMT f == fmtFMT r | none => true)
    else if sub = 2 ∧ pos = 1 then fmtIn r true (intLaneFmts (tyWidth w.ty))
    else if sub = 3 ∧ w.imm.getLsbD 6 then isLaneSc w.ty r
    else if sub = 5 ∧ pos = 1 then isLaneSc w.ty r && (match fa with | some f => fmtFMT f == fmtFMT r | none => true)
    else accTy w.ty r && (sub != 6 || signOk pos fa r)
  | 37 => accTy w.ty r
  | 38 =>
    if w.ty = .vi8 then (if pos = 2 then fmtIn r true [3] else fmtIn r true [1, 4])
    else if pos = 2 then fmtIn r true [8] else fmtIn r true [9]
  | 39 => [16, 17].contains (fmtFMT r) && sameAsA pos fa r
  | 40 => if sub = 0 then [16, 17].contains (fmtFMT r) else if sub = 1 then fmtIn r true [16] else fmtIn r true [18]
  | 41 => if sub = 0 then fmtIn r true [if pos = 0 then 1 else 4] else fmtIn r true [20]
  | 42 => fmtIn r false [6]
  | _ => true

/-- Operands of the memory and system majors 0x40 to 0x4E. -/
def takesMem (maj sub : Nat) (w : OpA) (pos : Nat) (fa : Option Nat) (r : Nat) : Bool :=
  match maj with
  | 64 | 65 | 66 | 67 =>
    if pos = 1 then (if w.md.getLsbD 2 then fmtIn r false [0, 6] else fmtVEC r == w.md.getLsbD 1)
    else if pos = 2 then intSc r else isWord r
  | 68 => fmtIn r false [0, 3, 6]
  | 69 => if pos = 1 then fmtIn r false [6] else intSc r
  | 70 => sub == 2 || !fmtVEC r
  | 71 =>
    if sub = 0 then (if pos = 2 then fmtIn r false [0] else intSc r)
    else if pos = 0 then intSc r
    else if sub = 9 then fmtIn r false [8, 9, 10, 11, 12]
    else isWord r
  | 72 => sameAsA 1 fa r
  | 77 => intSc r
  | 78 => sub == 3 || intSc r
  | _ => true

/-- Whether operand `pos` of an instruction takesFmt a record (R311). -/
def takesFmt (i : Instr) (pos : Nat) (fa : Option Nat) (r : Nat) : Bool :=
  if pos = 3 then intSc r
  else match i.form with
    | some (maj, sub, w, _) => if maj < 64 then takesData maj sub w pos fa r else takesMem maj sub w pos fa r
    | none =>
      match i.wide with
      | some (sub, _) => sub == 0 || intSc r
      | none => false

/-- T of an integer form (R356), as a record. -/
def intOut (t : TyCode) (fa : Nat) : Nat :=
  if tyVec t then mkFmt (intLane (tyWidth t) (fmtSigned fa)) true else if fmtSigned fa then 3 else 6

/-- n32, or the unsigned lanes of the type's width. -/
def flagOut (t : TyCode) : Nat := if tyVec t then mkFmt (intLane (tyWidth t) false) true else 6

/-- F of a floating-point form (R384), as a record. -/
def floatOut (t : TyCode) : Nat := mkFmt (tyFmt t) (tyVec t)

/-- What target `ti` of an instruction carries, given a's record `fa` and that of b. -/
def outData (maj sub : Nat) (w : OpA) (ti fa fb : Nat) : Nat :=
  match maj with
  | 1 => if sub = 2 ∧ ti = 1 then flagOut w.ty else intOut w.ty fa
  | 2 | 3 | 4 => intOut w.ty fa
  | 5 => if sub = 3 ∨ sub = 4 ∨ sub = 5 then 6 else fmtBase fa
  | 6 => flagOut w.ty
  | 7 => if sub = 0 then fmtBase fa else if tyFloat w.ty then floatOut w.ty else intOut w.ty fa
  | 9 => if sub = 7 then 31 else fmtBase fa
  | 10 => if sub < 2 then 6 else fmtBase fa
  | 11 => if sub = 3 then 6 else if tyFloat w.ty then 8 else intOut .i32 fa
  | 32 => floatOut w.ty
  | 33 => flagOut w.ty
  | 34 => if sub = 3 then floatOut w.ty else mkFmt (w.imm.toNat % 32) (tyVec w.ty)
  | 35 => if sub = 0 then mkFmt 5 true else 6
  | 36 =>
    if sub < 2 ∧ ti = 1 then fmtFMT fa
    else if sub = 3 then mkFmt (fmtFMT fa) true
    else if sub = 4 then fmtFMT fa
    else if sub = 6 then mkFmt (intLane (tyWidth w.ty / 2) (fmtSigned fa)) true
    else if sub = 7 then mkFmt (intLane (2 * tyWidth w.ty) (fmtSigned fa)) true
    else fmtBase fa
  | 37 => if sub = 0 then fmtFMT fa else fmtBase fa
  | 38 => mkFmt (if w.ty = .vi8 then 3 else 8) true
  | 39 => if sub = 4 then mkFmt (if fmtFMT fa = 16 then 6 else 8) (fmtVEC fa) else fmtBase fa
  | 40 => if sub = 0 then (if fmtFMT fa = 16 then 6 else 8) else if sub = 1 then mkFmt 18 true else mkFmt 16 true
  | 41 =>
    if sub = 0 then 20 + 32 * (w.imm.toNat % 16) + (if w.imm.getLsbD 4 then 2 ^ 9 else 0) + 2 ^ 15
    else if ti = 0 then mkFmt 1 true else mkFmt 4 true
  | _ => 6

def outMem (maj sub : Nat) (w : OpA) (ti fa : Nat) : Nat :=
  match maj with
  | 64 | 65 | 66 | 67 => if ti = 1 then 31 else mkFmt (w.imm.toNat % 32) (w.md.getLsbD 1)
  | 68 => if ti = 1 then 31 else 0
  | 69 => if ti = 1 then 31 else 6
  | 70 => if sub = 0 then 31 else 6
  | 71 => if ti = 1 then 31 else if sub = 0 then w.imm.toNat % 32 else 0
  | 72 => if ti = 1 then 31 else fmtBase fa
  | 73 => if sub = 4 then 6 else 31
  | 74 | 76 => fmtBase fa
  | 77 => 31
  | 78 => if sub = 1 then 31 else 6
  | _ => 6

/-- Whether what a form's targets carry depends on a's format. -/
def needsA (i : Instr) : Bool :=
  match i.form with
  | some (maj, sub, w, _) =>
    [1, 2, 3, 4, 5, 7, 9, 36, 37, 39, 40, 72, 74, 76].contains maj || (maj == 10 && decide (2 ≤ sub)) || (maj == 11 && w.ty == .i32)
  | none => match i.wide with | some (sub, _) => sub != 0 && sub != 5 | none => false

/-- Output format of a target; none while a's format, which it follows, is not known. `qf` is the record of the queue of
a QPOP. -/
def outFmt (i : Instr) (ti : Nat) (qf : Nat) (fa : Option Nat) : Option Nat :=
  if needsA i && fa.isNone then none
  else
    let a := fa.getD 0
    match i.form with
    | some (maj, sub, w, _) =>
      if maj = 70 ∧ sub = 1 then some (fmtBase qf)
      else some (if maj < 64 then outData maj sub w ti a 0 else outMem maj sub w ti a)
    | none =>
      match i.wide with
      | some (sub, _) => some (if sub = 0 then 0 else if sub = 5 then 6 else intOut .i32 a)
      | none => none

/-! ## A block's edges -/

/-- The instruction at slot `n` of a block; none for NONE. -/
def instAt (b : Block) (n : Nat) : Option Instr :=
  let w := (b.insts.getD n 0).toNat
  if w = 0 then none else match decodeOp w with | .ok i => some i | .error _ => none

/-- Targets of an instruction word. -/
def instTargets (i : Instr) : List Target :=
  match i.form with
  | some (_, _, w, _) => [w.t0, w.t1]
  | none => match i.wide with | some (_, w) => [w.t0] | none => []

/-- The VC entry of (C, VC) of a block, with its index. -/
def vcEntry (b : Block) (cell vc : Nat) : Option (Word × Nat) :=
  b.vcs.zipIdx.find? (fun e => vcCell e.1 == cell && vcVc e.1 == vc)

/-- Descriptors that name slot `n` as their QPOP (R324). -/
def popDescs (b : Block) (n : Nat) : List (DWord × DWord) :=
  b.spills.filter (fun d => 8 * bitsOf d.1.toNat 3 0 + bitsOf d.1.toNat 11 9 == n)

def spillFmt (d : DWord × DWord) : Nat := bitsOf d.1.toNat 49 34

/-- Records of the operands that VC entries feed, key 4·slot + position. -/
def vcFmts (b : Block) : Tab Nat :=
  b.vcs.foldr (fun e t => t.put (opKey (8 * vcCell e + vcK e) (vcPos e)) (vcFmt e)) []

def findFmt (t : Tab Nat) (k : Nat) : Option Nat := (t.find? (fun e => e.1 == k)).map (·.2)

/-- The format that a slot passes on: that of its operand a, or, of MERGE and CARRY, whose two data inputs carry one format, that
of b where a's is not known yet. -/
def passFmt (i : Instr) (t : Tab Nat) (n : Nat) : Option Nat :=
  match i with
  | .merge _ | .carry _ => (findFmt t (opKey n 0)).or (findFmt t (opKey n 1))
  | _ => findFmt t (opKey n 0)

/-- What slot `n`'s target carries, by what is known of the block's operands. -/
def slotOut (b : Block) (t : Tab Nat) (n ti : Nat) : Option Nat :=
  match instAt b n with
  | none => none
  | some i => outFmt i ti (match popDescs b n with | d :: _ => spillFmt d | [] => 0) (passFmt i t n)

/-- One pass over the slots: what each sends to slot operands becomes known there. -/
def fmtPass (b : Block) : Nat → Tab Nat → Tab Nat
  | 0, t => t
  | n + 1, t =>
    let t := fmtPass b n t
    match instAt b n with
    | none => t
    | some i =>
      (instTargets i).zipIdx.foldl (fun t x =>
        match x.1, slotOut b t n x.2 with
        | .operand q m, some r => if (findFmt t (opKey m.toNat q.code)).isSome then t else t.put (opKey m.toNat q.code) r
        | _, _ => t) t

def fmtPasses (b : Block) : Nat → Tab Nat → Tab Nat
  | 0, t => t
  | n + 1, t => let u := fmtPass b b.insts.length t; if u = t then t else fmtPasses b n u

/-- Records of the operand edges of a block (R313): every edge's format once the passes settle. -/
def blockFmts (b : Block) : Tab Nat := fmtPasses b 129 (vcFmts b)

end Sys2Proof.Machine
end

