-- ==== Sys2Proof/Machine/HostIf.lean ====
section
/-! DEFINITION. Operations that the units of the IOD share: functions and vectors of PCIe (R57 to R63), accesses of the
front end to GLOB (R78, R88, R495), counters (R217), slot clocks (R142 to R144), event notices (R49, R52, R106) and
messages of the command link (R50). -/
namespace Sys2Proof.Machine

/-- Device units (R46) in a microsecond and in a millisecond. -/
def usec : Nat := 16000
def msec : Nat := 16000000

/-- An intake request or SYS write of the new image in PROBATION takes a journal entry; the 16,384th entry pauses intake
and posts FW_JOURNAL_FULL (R132). -/
def journalOne (s : State) (e : JournalEntry) : State :=
  if s.fw.lr != .probation ∨ 16384 ≤ s.fw.journal.length then s
  else
    let s := { s with fw := { s.fw with journal := s.fw.journal ++ [e] } }
    if s.fw.journal.length = 16384 then postDeviceEvent { s with fw := { s.fw with paused := true } } 0x8005 [] else s

/-- A SYS write of service firmware at level S (R132). -/
def journalSys (s : State) (l : Level) (off : Nat) (v : Word) : State :=
  if l = .s then journalOne s (.sysWrite (8 * 2 ^ 25 + off) v) else s

/-! ## PCIe functions -/

/-- Vectors of a function (R57): 64 of the PF, 16 of a VF. -/
def vectorsOf (fn : Nat) : Nat := if fn = 0 then 64 else 16

/-- An MSI-X vector of a function is signalled (R57, R58, R90, R103). A vector that is masked, as all of a
function are after its reset (R62, R63), is not sent. -/
def raiseMsix (s : State) (fn vec : Nat) : State :=
  if s.pcie.masked.get false (64 * fn + vec) ∨ !s.pcie.up ∨ vectorsOf fn ≤ vec then s else emitOut s (.msix fn vec)

def raiseMsixOf (s : State) (p vec : Nat) : State :=
  match fnOf s p with
  | some f => raiseMsix s f vec
  | none => s

/-! ## Front-end accesses to GLOB -/

/-- The memory key of `n` words at a VA that the IOD reaches in a space: none if the translation faults, the request to the
host fails or the HBM4 line is uncorrectable, for a write too (R88, R93, R495). -/
def feKey (s : State) (p va n : Nat) (k : XKind) : Option Nat × State :=
  if 2 ^ 53 ≤ va then (none, s)
  else
    match translate s 4 p va k with
    | (.fault _ _, s) => (none, s)
    | (.ok a host, s) =>
      match placeKey s p host a n (k == .write) with
      | (.ok k, s) => (some k, s)
      | (.error _, s) => (none, s)

/-- Read words at a VA: the words, or the address at which the read failed. -/
def feWords (s : State) (p va : Nat) : Nat → Except Nat (List Word) × State
  | 0 => (.ok [], s)
  | n + 1 =>
    match feKey s p va 1 .read with
    | (none, s) => (.error va, s)
    | (some k, s) =>
      match feWords s p (va + 4) n with
      | (.ok l, s') => (.ok (rdWord s k :: l), s')
      | (.error e, s') => (.error e, s')

/-- Write bytes at a VA, a word at a time; false if some part failed. -/
def feWrite (s : State) (p va : Nat) : List Word → Bool × State
  | [] => (true, s)
  | v :: t =>
    match feKey s p va 1 .write with
    | (none, s) => (false, s)
    | (some k, s) => feWrite (wrWord s k v) p (va + 4) t

/-! ## Counters (R217) -/

/-- One atomic update of the counter at memory key `k`. -/
def ctrAdd (s : State) (k v : Nat) (poison : Bool) : State :=
  let c := rdDword s k
  let p := c / 2 ^ 63 % 2
  wrDword s k ((c % 2 ^ 63 + v) % 2 ^ 63 + 2 ^ 63 * (if poison then 1 else p))

/-- A counter address that R88 refuses: a reserved bit is 1 or a GLOB address is not 8-byte aligned. The answer is the
offset (0 low, 1 high) of the word that holds the offending bit. -/
def ctrBadWord (a : Nat) : Option Nat :=
  if a % 8 ≠ 0 then some 0
  else if a.testBit 63 then (if a % 2 ^ 63 / 2 ^ 53 = 0 then none else some 1)
  else if a % 2 ^ 32 / 2 ^ 27 ≠ 0 then some 0
  else if a / 2 ^ 32 ≠ 0 then some 1
  else none

/-- Where a counter access of partition p ends. -/
inductive CtrAt where
  | key (k : Nat)
  | window
  | fetch (addr : Nat)
  deriving DecidableEq, Repr

/-- The counter of a well-formed counter address, as an access of partition p at a level (R88, R253). -/
def ctrAt (s : State) (p level a : Nat) (k : XKind) : CtrAt × State :=
  if a.testBit 63 then
    match feKey s p (a % 2 ^ 53) 2 k with
    | (some key, s) => (.key key, s)
    | (none, s) => (.fetch a, s)
  else if sbufAllowed s p level (a % 2 ^ 27) 8 (k == .read) then (.key (sbufBase + a % 2 ^ 27), s)
  else (.window, s)

/-! ## Slot clocks (R142 to R144) -/

def clockAt (s : State) (c : Nat) : SlotClock := s.sched.clocks.get {} c

/-- SCCUR without the modulus; 0 before the epoch and while EN = 0 (R143). -/
def scIndex (s : State) (c : Nat) : Nat :=
  let k := clockAt s c
  if k.en ∧ k.epoch ≤ s.dtime ∧ 0 < k.len then (s.dtime - k.epoch) / k.len else 0

def scCur (s : State) (c : Nat) : Nat := scIndex s c % 2 ^ 32

/-- Start of symbol k within the slot (R142). -/
def symStart (k : SlotClock) (i : Nat) : Nat := if i = 0 then 0 else k.sym.get 0 i

/-- Symbols of a slot (R143). -/
def symCount (k : SlotClock) : Nat := if k.xcp then 12 else 14

/-- SCCURSYM (R143). -/
def scCurSym (s : State) (c : Nat) : Nat :=
  let k := clockAt s c
  if k.en ∧ k.epoch ≤ s.dtime ∧ 0 < k.len then
    let o := (s.dtime - k.epoch) % k.len
    ((List.range (symCount k)).filter (fun i => decide (symStart k i ≤ o))).length - 1
  else 0

/-- The time of symbol `k` of the slot named `i`, `f` units later (R91, R144): none where the rules refuse it. A time
before device time 0 is 0. -/
def resolveSym (s : State) (c i k f : Nat) : Option Nat :=
  let sc := clockAt s c
  if !sc.en ∨ 13 < k ∨ (sc.xcp ∧ 12 ≤ k) then none
  else
    let d : Int := sextNat 32 ((i + 2 ^ 32 - scCur s c) % 2 ^ 32)
    some (((sc.epoch : Int) + ((scCur s c : Nat) + d) * sc.len + symStart sc k + f).toNat)

/-- The slot clock of a partition (R139). -/
def clockOf (s : State) (p : Nat) : Nat := (s.sched.ptcfg.get {} p).sc

/-! ## The command link -/

/-- Fragments of a message of `n` bytes (R50). -/
def fragCount (n : Nat) : Nat := max 1 ((n + 1447) / 1448)

def sessAt (s : State) (n : Nat) : Session := s.link.sessions.get {} n

def setSess (s : State) (n : Nat) (x : Session) : State :=
  { s with link := { s.link with sessions := s.link.sessions.set {} n x } }

/-- Close a session and forget its messages (R55), but not the kicks that were accepted: they have been delivered (R53). -/
def dropSession (s : State) (n : Nat) : State :=
  { s with link := { s.link with sessions := s.link.sessions.del n,
                                 partial_ := s.link.partial_.filter (fun m => m.sess != n),
                                 msgs := s.link.msgs.filter (fun m => m.sess != n || m.typ == 0x10) } }

/-- Bytes 0 to 19 + LEN of a frame (R50). -/
def kcpBytes (f : KcpFrame) : List Byte :=
  leBytes 1 f.ver ++ leBytes 1 f.typ ++ leBytes 2 f.sess ++ leBytes 8 f.seq ++ leBytes 2 f.len ++ leBytes 1 f.frag
    ++ leBytes 1 f.frags ++ leBytes 4 f.msgid ++ f.payload

/-- Fragment `i` of a message that is sent: sequenced and tagged in its session, and with SEQ 0 and no TAG outside one (R50; that
SEQ and the frame's having no 802.1Q tag are log entry 70). -/
def kcpFragment (x : Session) (port typ sess msgid frags : Nat) (payload : List Byte) (i : Nat) : KcpFrame :=
  let part := (payload.drop (1448 * i)).take 1448
  let f : KcpFrame := { port := port, ver := 1, typ := typ, sess := sess, seq := if sess = 0 then 0 else x.sendSeq + i,
                        len := part.length, frag := i, frags := frags, msgid := msgid, payload := part, tag := [] }
  if sess = 0 then f else { f with tag := Config.hmac x.key (kcpBytes f) }

/-- A message leaves on a port (R49, R50) as fragments of at most 1,448 bytes, each with a sequence number of its session; the
session closes when the device's SEQ reaches 2^40 (R55). -/
def sendKcp (s : State) (port typ sess msgid : Nat) (payload : List Byte) : State :=
  let x := sessAt s sess
  let k := fragCount payload.length
  let s := (List.range k).foldl (fun s i => emitOut s (.kcp (kcpFragment x port typ sess msgid k payload i))) s
  if sess = 0 then s
  else if 2 ^ 40 < x.sendSeq + k then dropSession s sess
  else setSess s sess { x with sendSeq := x.sendSeq + k }

/-- NAK with a status (R52). -/
def sendNak (s : State) (m : KcpMsg) (status : Nat) : State := sendKcp s m.port 0x7F m.sess m.msgid (leBytes 1 status)

/-- Bytes of an event record with WR's partition in byte 11 as the event has it (R100). -/
def eventBytes (e : Event) : List Byte :=
  leBytes 8 e.time ++ leBytes 2 e.code ++ leBytes 1 e.src ++ leBytes 1 e.b11 ++ leBytes 4 e.pos ++ leBytes 4 e.hdr
    ++ e.detail.take 12 ++ List.replicate (12 - e.detail.length) 0

/-- Sessions that an EVNOTE goes to: those of level S, and those of level T of the queue's partition (R52). -/
def noteTakers (s : State) (e : Event) : List Nat :=
  let part := if e.src < 64 then some (queueAt s e.src).part else none
  (s.link.sessions.filter (fun x => x.2.openS && (x.2.level == .s || (x.2.level == .t && some x.2.part == part)))).map (·.1)

/-- An event notice (R49, R52). -/
def sendNote (s : State) (e : Event) : State :=
  (noteTakers s e).foldl (fun s n => sendKcp s s.link.notePort 0x20 n 0 (eventBytes e)) s

end Sys2Proof.Machine
end

