-- ==== Sys2Proof/Machine/StraitOps.lean ====
section
/-! DEFINITION. Straits (R30 to R48): rails and stripes, legs of circuits, strait queues, reroute and severing, delay
measurement, and the release of strait queues. -/
namespace Sys2Proof.Machine

/-! ## Dies, straits, ends and hops (R9, R10, R35) -/

/-- A die's place: ring positions 0 to 7, and 8 for the IOD. -/
def posOf (die : Nat) : Nat := if die < 4 then 2 * die + 1 else if die < 8 then 2 * (die - 4) else 8

/-- Lower and upper place of strait n: S0 to S7 are 0 to 7, IS0 to IS3 are 8 to 11. -/
def straitLo (n : Nat) : Nat := if n < 8 then n else 8
def straitHi (n : Nat) : Nat := if n < 8 then (n + 1) % 8 else 2 * (n - 8)

/-- A hop is 2·strait + direction, direction 0 from the lower to the upper place. -/
def hopFrom (h : Nat) : Nat := if h % 2 = 0 then straitLo (h / 2) else straitHi (h / 2)
def hopTo (h : Nat) : Nat := if h % 2 = 0 then straitHi (h / 2) else straitLo (h / 2)
def hopBack (h : Nat) : Nat := if h % 2 = 0 then h + 1 else h - 1

/-- Number of a strait's end. -/
def endNo (n : Nat) (upper : Bool) : Nat :=
  if n < 8 then n + (if upper then 8 else 0) else 8 + n + (if upper then 4 else 0)

/-- The end at which a hop arrives, and the end that it leaves. -/
def hopEnd (h : Nat) : Nat := endNo (h / 2) (h % 2 == 0)
def hopStart (h : Nat) : Nat := endNo (h / 2) (h % 2 == 1)

/-- Strait of an end, and whether it is its upper end. -/
def endStrait (e : Nat) : Nat := if e < 16 then e % 8 else 8 + (e - 16) % 4
def endUpper (e : Nat) : Bool := if e < 16 then decide (8 ≤ e) else decide (20 ≤ e)
/-- The hop that leaves an end. -/
def endHop (e : Nat) : Nat := 2 * endStrait e + (if endUpper e then 1 else 0)

def endAt (s : State) (e : Nat) : StraitEnd := s.straits.ends.get {} e

def modEnd (s : State) (e : Nat) (f : StraitEnd → StraitEnd) : State :=
  { s with straits := { s.straits with ends := s.straits.ends.set {} e (f (endAt s e)) } }

/-- Both ends of a strait. -/
def modStrait (s : State) (n : Nat) (f : StraitEnd → StraitEnd) : State :=
  modEnd (modEnd s (endNo n false) f) (endNo n true) f

/-- Rails in service. -/
def railsUp (v : Nat) : Nat := ((List.range 5).filter (fun k => v.testBit k)).length

/-- STATE of an end (R35): 0 UP, 1 DEGRADED, 2 DOWN. -/
def endState (x : StraitEnd) : Nat := if railsUp x.railOk = 5 then 0 else if railsUp x.railOk = 4 then 1 else 2

def straitDown (s : State) (n : Nat) : Bool := endState (endAt s (endNo n false)) == 2

/-! ## Paths (R9, R37, R44) -/

/-- `n` hops eastward, or westward, from a ring position. -/
def hopsEast : Nat → Nat → List Nat
  | 0, _ => []
  | n + 1, p => 2 * (p % 8) :: hopsEast n (p + 1)

def hopsWest : Nat → Nat → List Nat
  | 0, _ => []
  | n + 1, p => (2 * ((p + 7) % 8) + 1) :: hopsWest n (p + 7)

/-- The shorter way round the ring, eastward where both are equally long. -/
def ringPath (a b : Nat) : List Nat :=
  let d := (b + 8 - a) % 8
  if d ≤ 4 then hopsEast d a else hopsWest (8 - d) a

def backPath (path : List Nat) : List Nat := (path.map hopBack).reverse

/-- The hops that traffic from a place to a higher one takes: a die's with the IOD over ISk, from FDk through its western
neighbour MDk; along the ring otherwise (R9). -/
def ownPath (a b : Nat) : List Nat :=
  if b = 8 then (if a % 2 = 1 then [2 * (a - 1) + 1] else []) ++ [2 * (8 + a / 2) + 1] else ringPath a b

/-- The hops that accesses, requests and replies from one place to another take now: those that a reroute has installed, or
their own (R9, R44). -/
def curPath (s : State) (a b : Nat) : List Nat :=
  if a = b then []
  else if a < b then (if s.straits.paths.any (fun e => e.1 == 16 * a + b) then s.straits.paths.get [] (16 * a + b) else ownPath a b)
  else backPath (if s.straits.paths.any (fun e => e.1 == 16 * b + a) then s.straits.paths.get [] (16 * b + a) else ownPath b a)

/-- No strait of the path is DOWN (R34): what would take the path waits otherwise. -/
def pathOpen (s : State) (a b : Nat) : Bool := (curPath s a b).all (fun h => !straitDown s (h / 2))

/-- Place of an island's die. -/
def islPlace (isl : Nat) : Nat := posOf (dieOf isl)

/-- Place of the die whose memory a key lies in. -/
def keyPlace (k : Nat) : Nat :=
  if hostBase ≤ k then 8
  else if tileBase ≤ k then islPlace ((k - tileBase) / 8192 / 64)
  else if cellBase ≤ k then (if (k - cellBase) / 65536 < 4224 then posOf ((k - cellBase) / 65536 / 1056) else 8)
  else if sbufBase ≤ k then 2 * ((k - sbufBase) / 2 ^ 25 % 4)
  else 2 * (k / 2 ^ 36 % 4)

/-- A memory-port die reaches the memory of a key (R9, R34). -/
def mdReaches (s : State) (die k : Nat) : Bool := pathOpen s (2 * die) (keyPlace k)

/-! ## Wires, legs and queues -/

def wireAt (s : State) (h : Nat) : List Stripe := s.straits.wires.get [] h

def setWire (s : State) (h : Nat) (l : List Stripe) : State :=
  { s with straits := { s.straits with wires := s.straits.wires.set [] h l } }

/-- Put a stripe onto a hop; a DOWN strait carries nothing (R34). -/
def sendStripe (s : State) (h : Nat) (x : Stripe) : State :=
  if straitDown s (h / 2) then s else setWire s h (wireAt s h ++ [x])

def legAt (s : State) (n : Nat) : Leg := s.straits.legs.get {} n
def setLeg (s : State) (n : Nat) (x : Leg) : State :=
  { s with straits := { s.straits with legs := s.straits.legs.set {} n x } }

/-- A stripe along the path of a leg, or back along it. -/
def sendAlong (s : State) (path : List Nat) (x : Stripe) : State :=
  match path with
  | [] => s
  | h :: t => sendStripe s h { x with route := t }

/-- The strait queue of a running thread with a number. A queue that a stopped thread has left (R41) is no queue of a later
thread with the number of that one. -/
def findQueue (s : State) (t : Option Nat) (qid : Nat) : Option SQueue :=
  s.straits.queues.find? (fun q => !q.kept && some q.thread == t && q.qid == qid)

def modSQueue (s : State) (t : Option Nat) (qid : Nat) (f : SQueue → SQueue) : State :=
  { s with straits := { s.straits with
      queues := s.straits.queues.map (fun q => if !q.kept && some q.thread == t && q.qid == qid then f q else q) } }

/-- Slots that a strait queue has free. A leg A may fill them until the next acknowledgement tells it how many there are: when its
circuit is made, and when a frame is entered (log entry 61). -/
def queueRoom (s : State) (t : Option Nat) (qid : Nat) : Nat :=
  match findQueue s t qid with | some q => 2 ^ q.log2 - q.held.length | none => 0

/-! ## Stripe bodies (R32) -/

/-- KIND code of a token (R172). -/
def kindCode (t : Tok) : Nat := match t.kind with | .scalar => 0 | .vector => 1 | .bound => 2 | .permit => 3

/-- Bits that are 1 in a value of `n` bits. -/
def onesIn : Nat → Nat → Nat
  | 0, _ => 0
  | n + 1, v => v % 2 + onesIn n (v / 2)

/-- The 14-bit sideband (R172). -/
def sideband (ctx : Nat) (t : Tok) : Nat :=
  let vc := if 256 ≤ t.src ∧ t.src < 288 then t.src - 256 else 0
  let low := ctx % 8 + 8 * (t.stop % 8) + 64 * vc + 2048 * kindCode t
  low + 8192 * ((onesIn 13 low + onesIn 256 t.data.toNat) % 2)

/-- Bytes of a record: a token or beat with its sideband, or an engine's data unit of two beats (R32). -/
def recSize : List Tok → Nat
  | [t] => match t.kind with | .vector => 34 | _ => 6
  | _ => 64

def recBytes (ctx : Nat) : List Tok → List Byte
  | [t] => leBytes (recSize [t] - 2) t.data.toNat ++ leBytes 2 (sideband ctx t)
  | l => l.flatMap (fun t => leBytes 32 t.data.toNat)

/-- Waiting tokens as records. -/
def recsOf (units : Bool) : List Tok → List (List Tok)
  | [] => []
  | [t] => [[t]]
  | t :: u :: r =>
    if units && t.kind == .vector && t.stop == 0 && u.kind == .vector && u.stop == 0 then [t, u] :: recsOf units r
    else [t] :: recsOf units (u :: r)

/-- The stripe header (R32). -/
def stripeHdr (x : Stripe) : Nat :=
  x.circ % 512 + 512 * x.kind + 4096 * (if x.rsnd then 1 else 0) + 2 ^ 13 * (x.reserved % 8) + 2 ^ 16 * x.seq + 2 ^ 32 * x.len
    + 2 ^ 40 * x.src + 2 ^ 44 * x.dst + 2 ^ 48 * (x.reserved / 8)

/-- The payload: records, or the 4 bytes of an acknowledgement or a time reply. -/
def payload (x : Stripe) : List Byte :=
  if x.kind = 0 then (x.recs.map (recBytes x.ctx)).flatten else leBytes x.len x.free

/-- The 248 bytes of a stripe's body. -/
def stripeBody (x : Stripe) : List Byte := (leBytes 8 (stripeHdr x) ++ payload x ++ List.replicate 248 0).take 248

/-- The records that fit into a stripe, and the rest. -/
def packRecs : Nat → List (List Tok) → List (List Tok) × List (List Tok)
  | _, [] => ([], [])
  | left, t :: r =>
    if recSize t ≤ left then let p := packRecs (left - recSize t) r; (t :: p.1, p.2) else ([], t :: r)

/-! ## Flits (R31, R33) -/

/-- CRC-16/T10-DIF: polynomial 0x8BB7, initial value 0, no reflection. -/
def crcBits : Nat → Nat → Nat
  | 0, c => c
  | n + 1, c => crcBits n (if c.testBit 15 then (2 * c % 2 ^ 16) ^^^ 0x8BB7 else 2 * c)

def crc16 (l : List Byte) : Nat := l.foldl (fun c b => crcBits 8 (c ^^^ (256 * b.toNat))) 0

/-- A flit: 62 bytes of content and their CRC. -/
def flit (content : List Byte) : List Byte := content ++ leBytes 2 (crc16 content)

def xorBytes (l : List (List Byte)) : List Byte := (List.range 62).map (fun i => l.foldl (fun b c => b ^^^ c.getD i 0) 0)

/-- Content of data rail k. -/
def railContent (body : List Byte) (k : Nat) : List Byte := (body.drop (62 * k)).take 62

/-- The five flits of a stripe: four data rails and the parity rail. -/
def stripeFlits (body : List Byte) : List (List Byte) :=
  let d := [0, 1, 2, 3].map (railContent body)
  (d ++ [xorBytes d]).map flit

/-- Errors on the way, each the rail, the byte of its flit and the bits that are turned. -/
def strike (err : List (Nat × Nat × Byte)) (l : List (List Byte)) : List (List Byte) :=
  err.foldl (fun l e => l.modify e.1 (fun f => f.modify e.2.1 (fun b => b ^^^ e.2.2))) l

def flitOk (f : List Byte) : Bool := crc16 (f.take 62) == leNat (f.drop 62)

/-- The body as received: the content of a missing data flit is the XOR of the other four. -/
def rebuilt (flits : List (List Byte)) (miss : List Nat) : List Byte :=
  [0, 1, 2, 3].flatMap (fun k =>
    if miss.contains k then xorBytes (((List.range 5).filter (fun j => j != k)).map (fun j => (flits.getD j []).take 62))
    else (flits.getD k []).take 62)

/-- Records of the same sizes with the bits that arrived. -/
def patchRecs : List (List Tok) → List Byte → List (List Tok)
  | [], _ => []
  | [t] :: r, b =>
    let n := recSize [t]
    let sb := leNat ((b.drop (n - 2)).take 2)
    [{ t with data := BitVec.ofNat 256 (leNat (b.take (n - 2))), stop := bitsOf sb 5 3 }] :: patchRecs r (b.drop n)
  | l :: r, b =>
    l.zipIdx.map (fun e => { e.1 with data := BitVec.ofNat 256 (leNat ((b.drop (32 * e.2)).take 32)) }) :: patchRecs r (b.drop 64)

/-- The stripe that a hop's receiver sees: the one sent, or what errors that no CRC shows have made of it. -/
def seenStripe (s : State) (h : Nat) (x : Stripe) (body : List Byte) : Stripe :=
  if body = stripeBody x then x
  else
    let v := leNat (body.take 8)
    let kind := bitsOf v 11 9
    let on (l : Leg) : Bool := l.circ == v % 512 && l.path.contains (if kind = 1 then hopBack h else h)
    { x with
      leg := ((s.straits.legs.find? (fun l => on l.2)).map (·.1)).getD s.straits.nextLeg
      circ := v % 512, kind := kind, rsnd := v.testBit 12, seq := bitsOf v 31 16, len := bitsOf v 39 32, src := bitsOf v 43 40,
      dst := bitsOf v 47 44, reserved := bitsOf v 15 13 + 8 * bitsOf v 63 48, recs := patchRecs x.recs (body.drop 8),
      free := leNat ((body.drop 8).take 4) }

/-! ## Sending (R32, R40, R41) -/

/-- Stripes that the replay store of a die's strait domain holds, in slots of 256 bytes (R40). -/
def storeCap (die : Nat) : Nat := if die = 8 then 4096 else 8192

def storeUsed (s : State) (die : Nat) : Nat :=
  (s.straits.legs.map (fun l => if l.2.src = die then l.2.unacked.length else 0)).sum

/-- A sender may send its next stripe (R40). -/
def maySend (s : State) (l : Leg) : Bool :=
  l.pathOk && decide ((l.nextSeq + 65536 - l.lastAck) % 65536 ≤ 128) && decide (l.unacked.length < l.credit)
    && decide (storeUsed s l.src < storeCap l.src) && (match l.path with | h :: _ => !straitDown s (h / 2) | [] => false)

/-- The consumer's context is active and binds the queue (R41): it belongs to the circuit's thread, and to the frame of its
producer. -/
def consumerActive (s : State) (l : Leg) : Bool :=
  match l.dest with
  | some (.buf i σ _) =>
    let c := ctxAt s i σ
    c.st == .active && c.thread == l.thread && c.frame == (ctxAt s l.isl l.slot).frame
  | _ => false

/-- Context tag of a leg's records: that of the frame that binds the edge, at the leg's end in a context (R38). -/
def ctxTag (l : Leg) : Nat := match l.dest with | some (.buf _ σ _) => σ | _ => l.slot

def sendNew (s : State) (n : Nat) (l : Leg) (recs : List (List Tok)) : State :=
  let x : Stripe := { leg := n, circ := l.circ, ctx := ctxTag l, kind := 0, rsnd := false, seq := l.nextSeq,
                      len := (recs.map recSize).sum, src := l.src, dst := l.dst, recs := recs }
  sendAlong (setLeg s n { l with nextSeq := (l.nextSeq + 1) % 65536, unacked := l.unacked ++ [x] }) l.path x

def execStripeSend (leg : Nat) (s : State) : Out :=
  let l := legAt s leg
  if !maySend s l then .next s
  else if l.legB then
    match findQueue s l.thread l.queue with
    | some q =>
      match q.held.drop l.unacked.length with
      | x :: _ => if consumerActive s l then .next (sendNew s leg l x.recs) else .next s
      | [] => .next s
    | none => .next s
  else
    match packRecs 240 (recsOf l.units l.waiting) with
    | ([], _) => .next s
    | (recs, rest) => .next (sendNew s leg { l with waiting := rest.flatten } recs)

/-! ## Receiving (R33, R34, R39) -/

/-- The place in a receiving die's strait domain of what a leg brings: 3072 for a context's buffer, 8192 + the producer's
place for a unit. -/
def arrivePlace (l : Leg) : Nat := match l.dest with | some (.buf _ _ _) => 3072 | _ => 8192 + l.via

/-- Free slots that a leg's receiver reports: of its queue, or of the 128 of the consumer die's strait domain. -/
def freeSlots (s : State) (l : Leg) : Nat :=
  if l.legB ∨ l.direct then 128 - (s.flights.filter (fun f => some f.dest == l.dest && f.place == arrivePlace l)).length
  else queueRoom s l.thread l.queue

/-- The receiver of a leg acknowledges what it has accepted (R39). -/
def sendAck (s : State) (n : Nat) (rsnd : Bool) : State :=
  let l := legAt s n
  let x : Stripe := { leg := n, circ := l.circ, kind := 1, rsnd := rsnd, seq := (l.expect + 65535) % 65536, len := 4, src := l.dst,
                      dst := l.src, free := freeSlots s l }
  sendAlong (setLeg s n { l with owes := false }) (backPath l.path) x

/-- Tokens that a leg delivers wait in the strait domain of its receiver's die. -/
def deliverRecs (s : State) (l : Leg) (toks : List Tok) : State :=
  match l.dest with
  | some (.buf i σ k) =>
    { s with flights := s.flights ++ toks.map (fun t => { dest := .buf i σ k, tok := t, isl := i, slot := σ, place := 3072 }) }
  | some d =>
    { s with flights := s.flights ++ toks.map (fun t => { dest := d, tok := t, isl := l.isl, slot := l.slot, place := arrivePlace l }) }
  | none => s

/-- An accepted stripe of leg A goes into the queue's next slot, in SBUF (R38, R42). -/
def queueStripe (s : State) (l : Leg) (x : Stripe) : State :=
  match findQueue s l.thread l.queue with
  | some q =>
    let slot := (q.head + q.held.length) % 2 ^ q.log2
    let s := wrBytes s (sbufBase + 2 ^ 25 * q.mdie + q.base + 256 * slot) (stripeBody x)
    modSQueue s l.thread l.queue (fun q => { q with held := q.held ++ [x] })
  | none => s

/-- Stripes of a leg on every hop, gone but for those that satisfy `p`. -/
def purgeWires (s : State) (n : Nat) (p : Stripe → Bool) : State :=
  { s with straits := { s.straits with
      wires := (s.straits.wires.map (fun w => (w.1, w.2.filter (fun x => x.leg != n || decide (2 ≤ x.kind) || p x)))).filter (fun w => w.2 ≠ []) } }

/-- Leg B takes back what its receiver has not accepted: those tokens stay in the queue (R41). -/
def recallLeg (s : State) (n : Nat) : State :=
  let l := legAt s n
  let l := { l with unacked := l.unacked.filter (fun x => decide ((l.expect + 65535 - x.seq) % 65536 < 32768)), nextSeq := l.expect }
  purgeWires (setLeg s n l) n (fun x => x.kind == 1)

/-- The strait queue that a leg A feeds has no slot free. -/
def queueFull (s : State) (l : Leg) : Bool := !l.legB && !l.direct && queueRoom s l.thread l.queue == 0

/-- A stripe in order reaches a strait queue with no free slot: it waits on its strait (log entry 61). -/
def stripeWaits (s : State) (x : Stripe) : Bool :=
  x.kind == 0 && x.route == [] && s.straits.legs.any (fun l => l.1 == x.leg) && x.seq == (legAt s x.leg).expect && queueFull s (legAt s x.leg)

/-- A data stripe reaches its leg's receiver (R39). The strait domain of a die in core reset discards it (R43); leg B
delivers to the active frame only (R41). -/
def acceptData (s : State) (x : Stripe) : State :=
  let l := legAt s x.leg
  if x.dst < 4 ∧ (s.pkg.dies.get {} x.dst).inReset then s
  else if x.seq = l.expect then
    if l.legB ∧ !consumerActive s l then recallLeg s x.leg
    else if queueFull s l then s
    else
      let s := if l.legB ∨ l.direct then deliverRecs s l x.recs.flatten else queueStripe s l x
      let n := l.sinceAck + 1
      let l := { l with expect := (l.expect + 1) % 65536, sinceAck := n % 64, owes := true, lastAccept := some s.dtime }
      let s := setLeg s x.leg l
      if n = 64 then sendAck s x.leg false else s
  else sendAck s x.leg true

/-- Straits of a path that are DOWN. -/
def downOn (s : State) (path : List Nat) : List Nat := (path.map (· / 2)).filter (straitDown s)

/-- Detail of a strait event (R102). -/
def straitDetail (s : State) (e : Nat) : List Byte := leBytes 1 (endStrait e) ++ leBytes 1 (endAt s e).railOk

/-- A strait goes DOWN (R34, R44): every stripe on it is lost and legs that cross it have no path. -/
def goDown (s : State) (n : Nat) : State :=
  let s := setWire (setWire s (2 * n) []) (2 * n + 1) []
  let s := modStrait s n (fun x => { x with downAt := some s.dtime })
  { s with straits := { s.straits with legs := s.straits.legs.map (fun l =>
      (l.1, if l.2.path.any (fun h => h / 2 == n) then { l.2 with pathOk := false } else l.2)) } }

/-- A rail is marked failed, as the receiving end `e` reports it (R34). -/
def failRail (s : State) (e rail : Nat) : State :=
  let n := endStrait e
  if !(endAt s e).railOk.testBit rail then s
  else
    let before := endState (endAt s e)
    let s := modStrait s n (fun x => { x with railOk := x.railOk - 2 ^ rail, failedAt := x.failedAt.set 0 rail s.dtime })
    let after := endState (endAt s e)
    let s := if before = 2 ∨ after ≠ 2 then s else goDown s n
    if after = 1 then postDeviceEvent s 0x8040 (straitDetail s e)
    else if before ≠ 2 then postDeviceEvent s 0x8041 (straitDetail s e)
    else s

/-- CRC results of a stripe's five flits: consecutive failures of each rail are counted, and the eighth marks the rail
failed. -/
def countCrc (s : State) (e : Nat) : List (Nat × Bool) → State
  | [] => s
  | (k, b) :: t =>
    let n := if b then (endAt s e).bad.get 0 k + 1 else 0
    let s := modEnd s e (fun x => { x with bad := x.bad.set 0 k n })
    countCrc (if 8 ≤ n then failRail s e k else s) e t

/-- Rails whose flit an end misses: failed rails and CRC failures. -/
def missing (s : State) (e : Nat) (flits : List (List Byte)) : List Nat :=
  (List.range 5).filter (fun k => !flitOk (flits.getD k []) || !(endAt s e).railOk.testBit k)

/-- A reserved KIND, a reserved field or LEN over 240 (R33). -/
def badStripe (x : Stripe) : Bool := decide (5 ≤ x.kind) || decide (x.reserved ≠ 0) || decide (240 < x.len)

/-- A stripe that a hop's receiver uses: transit, data, acknowledgement, probe or reply (R43, R47). -/
def useStripe (s : State) (h : Nat) (x : Stripe) : State :=
  match x.route with
  | n :: t => sendStripe s n { x with route := t }
  | [] =>
    if x.kind < 2 ∧ !s.straits.legs.any (fun l => l.1 == x.leg) then s
    else match x.kind with
    | 0 => acceptData s x
    | 1 => setLeg s x.leg { legAt s x.leg with ackIn := (legAt s x.leg).ackIn ++ [x] }
    | 2 =>
      let (turn, s) := drawWord s
      sendStripe s (hopBack h) { x with kind := 3, len := 4, free := turn.toNat, src := x.dst, dst := x.src }
    | 3 => modEnd s (hopEnd h) (fun e => { e with reply := if e.probe.isSome then some x.free else none })
    | _ => s

/-- STRIPE_RECEIVE: the first stripe on a hop arrives with the errors `err`. A probe or reply of which a data flit is missing
is not rebuilt (R47); one of which only the parity flit is missing has nothing to rebuild and is used (log entry 61). -/
def execStripeReceive (hop : Nat) (err : List (Nat × Nat × Byte)) (s : State) : Out :=
  match wireAt s hop with
  | [] => .next s
  | x :: t =>
    if stripeWaits s x then .next s
    else
    let e := hopEnd hop
    let flits := strike err (stripeFlits (stripeBody x))
    let miss := missing s e flits
    let s := setWire s hop t
    let s := countCrc s e ((List.range 5).map (fun k => (k, !flitOk (flits.getD k []) && (endAt s e).railOk.testBit k)))
    let x := seenStripe s hop x (rebuilt flits miss)
    if straitDown s (hop / 2) then .next s
    else if 2 ≤ miss.length ∨ ((x.kind = 2 ∨ x.kind = 3) ∧ miss.any (· < 4)) then .next s
    else if badStripe x then .next (modEnd s e (fun y => { y with badHdr := min 255 (y.badHdr + 1) }))
    else .next (useStripe s hop x)

/-! ## Acknowledgements at the sender (R40) -/

/-- Send a list of stripes again, in order. -/
def resendAll (s : State) (path : List Nat) : List Stripe → State
  | [] => s
  | x :: t => resendAll (sendAlong s path x) path t

/-- The stripes up to the one that is named leave the store; those of leg B leave the queue too. -/
def freeAcked (s : State) (n : Nat) (l : Leg) (a : Nat) : State :=
  let k := (l.unacked.filter (fun x => decide ((a + 65536 - x.seq) % 65536 < 32768))).length
  let s := setLeg s n { l with unacked := l.unacked.drop k, lastAck := a }
  if l.legB then modSQueue s l.thread l.queue (fun q =>
    { q with held := q.held.drop k, head := (q.head + min k q.held.length) % 2 ^ q.log2 })
  else s

def execAckReceive (leg : Nat) (s : State) : Out :=
  let l := legAt s leg
  match l.ackIn with
  | [] => .next s
  | x :: t =>
    let l := { l with ackIn := t }
    if 32768 ≤ (x.seq + 65536 - l.lastAck) % 65536 then .next (setLeg s leg l)
    else
      let s := freeAcked s leg { l with credit := x.free } x.seq
      let l := legAt s leg
      let soon := match l.resentAt with | some (a, at_) => a == x.seq && decide (s.dtime ≤ at_ + 4 * usec) | none => false
      if x.rsnd ∧ l.unacked ≠ [] ∧ !soon then
        .next (resendAll (setLeg s leg { l with resentAt := some (x.seq, s.dtime) }) l.path l.unacked)
      else .next s

/-- 2 µs after the last acceptance with stripes not acknowledged (R39). -/
def execAckTimer (leg : Nat) (s : State) : Out :=
  let l := legAt s leg
  match l.lastAccept with
  | some t => if l.owes ∧ t + 2 * usec ≤ s.dtime then .next (sendAck s leg false) else .next s
  | none => .next s

/-! ## Retraining, reroute, severing (R34, R44, R45) -/

/-- Legs that wait for a path that is whole again resend from the last acknowledged stripe. -/
def restoreLegs (s : State) : List (Nat × Leg) → State
  | [] => s
  | (n, l) :: t =>
    let s := if !l.pathOk ∧ downOn s l.path = [] then resendAll (setLeg s n { l with pathOk := true }) l.path l.unacked else s
    restoreLegs s t

/-- RAIL_RETRAIN: a failed rail is retrained every 10 ms; where the lane retraining of a rail in service fails, the rail is
marked failed (R34). -/
def execRailRetrain (fin rail : Nat) (ok : Bool) (s : State) : Out :=
  let x := endAt s fin
  let n := endStrait fin
  if 24 ≤ fin ∨ 5 ≤ rail then .next s
  else if x.railOk.testBit rail then .next (if ok then s else failRail s fin rail)
  else if s.dtime < x.failedAt.get 0 rail + 10 * msec then .next s
  else if !ok then .next (modStrait s n (fun x => { x with failedAt := x.failedAt.set 0 rail s.dtime }))
  else
    let down := straitDown s n
    let s := modStrait s n (fun x =>
      { x with railOk := x.railOk + 2 ^ rail, bad := x.bad.set 0 rail 0, failedAt := x.failedAt.set 0 rail 0 })
    let s := if straitDown s n then s else modStrait s n (fun x => { x with downAt := none })
    let s := postDeviceEvent s 0x8042 (straitDetail s fin)
    let s := if down ∧ endState (endAt s fin) = 1 then postDeviceEvent s 0x8040 (straitDetail s fin) else s
    .next (restoreLegs s s.straits.legs)

/-- Consecutive hops from one place to another over straits that are not DOWN. -/
def pathValid (s : State) (a b : Nat) : List Nat → Bool
  | [] => a == b
  | h :: t => decide (h < 24) && hopFrom h == a && !straitDown s (h / 2) && pathValid s (hopTo h) b t

/-- Service firmware installs a new path round the ring for a leg that a DOWN strait has cut, or for what two dies exchange
with each other, which may cross another IS strait, while a strait of its path is DOWN (R9, R44). -/
def execRerouteInstall (what : Reroute) (path : List Nat) (s : State) : Out :=
  match what with
  | .leg leg =>
    let l := legAt s leg
    if l.pathOk ∨ path = [] ∨ path.any (16 ≤ ·) ∨ !pathValid s (posOf l.src) (posOf l.dst) path then .next s
    else .next (resendAll (setLeg s leg { l with path := path, pathOk := true }) path l.unacked)
  | .dies a b =>
    if b ≤ a ∨ 8 < b ∨ pathOpen s a b ∨ !pathValid s a b path then .next s
    else .next { s with straits := { s.straits with paths := s.straits.paths.put (16 * a + b) path } }

/-- Places reached from a set of ring places round the ring over straits that are not DOWN. -/
def spread (s : State) : Nat → List Nat → List Nat
  | 0, l => l
  | n + 1, l =>
    spread s n (l ++ ((List.range 16).filter (fun h => l.contains (hopFrom h) && !straitDown s (h / 2) && !l.contains (hopTo h))).map hopTo)

def reachable (s : State) (a b : Nat) : Bool := (spread s 8 [a]).contains b

/-- A leg has no path left, or none was installed 1 ms after LINK_DOWN: the thread stops with FLT_LINK_SEVERED (R45). -/
def execLinkSeveredTimeout (leg : Nat) (s : State) : Out :=
  let l := legAt s leg
  let late := (downOn s l.path).any (fun n =>
    match (endAt s (endNo n false)).downAt with | some t => decide (t + msec ≤ s.dtime) | none => false)
  match l.thread with
  | none => .next s
  | some t =>
    if !l.pathOk ∧ (late ∨ !reachable s (posOf l.src) (posOf l.dst)) ∧ (threadAt s t).stop.isNone then
      .next (threadFault s t { code := 0x9030 })
    else .next s

/-! ## Delay measurement (R47) -/

/-- TIME_PROBE: an end of a strait sends a probe. A probe belongs to no circuit and no leg: its CIRC, SRCDIE and DSTDIE, which
the spec does not give, are 0 (log entry 61). -/
def execTimeProbe (fin : Nat) (s : State) : Out :=
  if 24 ≤ fin ∨ straitDown s (endStrait fin) then .next s
  else
    let h := endHop fin
    .next (sendStripe (modEnd s fin (fun e => { e with probe := some s.dtime, reply := none })) h
      { leg := 0, kind := 2, rsnd := false, seq := 0, len := 0, src := 0, dst := 0 })

/-- H in device units from a round trip and a turnaround in periods of 31.25 ps, rounded half-even (R47). -/
def halfTrip (trip turn : Nat) : Nat :=
  let x := trip - turn
  let q := x / 4
  let r := x % 4
  if r = 3 ∨ (r = 2 ∧ q % 2 = 1) then q + 1 else q

/-- TIME_REPLY: the reply to the probe is in, after a round trip of `trip` periods; `turn` is the turnaround that it carries. -/
def execTimeReply (fin : Nat) (trip turn : Nat) (s : State) : Out :=
  if (endAt s fin).reply = some turn then
    .next (modEnd s fin (fun e => { e with half := halfTrip trip turn, probe := none, reply := none }))
  else .next s

/-! ## STQREL (R42) -/

/-- Free the kept queues of a thread that satisfy a condition (R42). -/
def freeKept (s : State) (t : Nat) (p : SQueue → Bool) : State :=
  { s with straits := { s.straits with queues := s.straits.queues.filter (fun q => !(q.kept && q.thread == t && p q)) } }

/-- The queue that a look-up finds: the thread's own, else one that a stopped thread of this number has left (log entry 61). -/
def lookQueue (s : State) (t qid : Nat) : Option SQueue :=
  (findQueue s (some t) qid).or (s.straits.queues.find? (fun q => q.thread == t && q.qid == qid))

def stqrelWrite (s : State) (v : Word) : State :=
  let t := bitsOf v.toNat 11 0
  let qid := bitsOf v.toNat 19 12
  let s := { s with straits := { s.straits with stqrel := v &&& 0x003FFFFF#32 } }
  if !v.toNat.testBit 31 then s
  else if !v.toNat.testBit 20 then
    match lookQueue s t qid with
    | some q =>
      { s with straits := { s.straits with
          stqres := BitVec.ofNat 32 (1 + 2 * q.mdie + 8 * (q.base / 256) + 2 ^ 20 * q.log2 + 2 ^ 24 * (if q.kept then 1 else 0)),
          stqpos := BitVec.ofNat 32 (q.head + 2 ^ 16 * q.held.length) } }
    | none => { s with straits := { s.straits with stqres := 0, stqpos := 0 } }
  else freeKept s t (fun q => v.toNat.testBit 21 || q.qid == qid)

def execStqrelLookup (l : Level) (v : Word) (s : State) : Out := if l = .t then .next s else .next (stqrelWrite (journalSys s l 0x48 v) v)
def execStqrelRelease (l : Level) (v : Word) (s : State) : Out := if l = .t then .next s else .next (stqrelWrite (journalSys s l 0x48 v) v)

end Sys2Proof.Machine
end

