-- ==== Sys2Proof/Machine/Circuits.lean ====
section
/-! DEFINITION. The circuits and strait queues that a frame's route words take (R36 to R38), and the slot-table entries
that its generators are granted (R211). -/
namespace Sys2Proof.Machine

/-! ## Circuits on a strait (R36) -/

/-- Circuits on a strait. -/
def circOn (s : State) (n : Nat) : Nat := (s.straits.legs.filter (fun l => l.2.path.any (fun h => h / 2 == n))).length

/-- The lowest circuit number free on every strait of a path. -/
def freeCirc (s : State) (path : List Nat) : Nat :=
  ((List.range 512).find? (fun c => !s.straits.legs.any (fun l => l.2.circ == c
    && l.2.path.any (fun h => path.any (fun g => g / 2 == h / 2))))).getD 0

/-! ## Queues (R38) -/

/-- Bytes [lo, hi) of a queue. -/
def sqEnd (q : SQueue) : Nat := q.base + 256 * 2 ^ q.log2

def sqFree (s : State) (mdie lo hi : Nat) : Bool := s.straits.queues.all (fun q => q.mdie != mdie || decide (hi ≤ q.base) || decide (sqEnd q ≤ lo))

/-- The lowest free aligned range of `size` bytes in a pool window of a partition on a die. -/
def placeQueue (s : State) (p mdie size : Nat) : Option Nat :=
  let fits (a : Nat) : Bool :=
    [0, 1, 2, 3].any (fun w =>
      let v := (s.xl.sbwin.get 0 (16 * p + 4 * mdie + w)).toNat
      v.testBit 0 && v.testBit 19 && decide (bitsOf v 9 1 * 2 ^ 16 ≤ a) && decide (a + size ≤ (bitsOf v 9 1 + bitsOf v 18 10 + 1) * 2 ^ 16))
  ((List.range (2 ^ 25 / size)).find? (fun i => fits (i * size) && sqFree s mdie (i * size) (i * size + size))).map (· * size)

def qLog2 (r : DWord) : Nat := if bitsOf r.toNat 41 38 = 0 then 8 else bitsOf r.toNat 41 38

/-- Bind a thread's queue: the state, or the fault and whether it names the route word. A queue that a stopped thread has left
is none of a later thread with its number (log entry 61). -/
def bindQueue (s : State) (t p mdie : Nat) (r : DWord) (fmt : Nat) : Except (Nat × Bool) State :=
  let qid := bitsOf r.toNat 37 30
  match findQueue s (some t) qid with
  | some q =>
    if q.mdie ≠ mdie ∨ q.log2 ≠ qLog2 r then .error (0x9022, true) else .ok s
  | none =>
    if 1024 ≤ (s.straits.queues.filter (fun q => q.mdie == mdie)).length then .error (0x9022, false)
    else match placeQueue s p mdie (256 * 2 ^ qLog2 r) with
      | none => .error (0x9022, false)
      | some a =>
        .ok { s with straits := { s.straits with queues := s.straits.queues ++
          [{ thread := t, qid := qid, mdie := mdie, base := a, log2 := qLog2 r, fmt := fmt, head := 0, held := [], kept := false }] } }

/-! ## Legs (R36, R37, R334) -/

def pathUp (s : State) (path : List Nat) : Bool := downOn s path == []

/-- Both legs of the circuit from (cell, VC) of a context to an END on another die. -/
def addCircuit (s : State) (t : Option Nat) (isl σ cell vc : Nat) (r : DWord) (path : List Nat) (mdie consDie : Nat)
    (d : Option Dest) : State :=
  let n := s.straits.nextLeg
  let qid := bitsOf r.toNat 37 30
  let a := path.dropLast
  let b := path.drop (path.length - 1)
  let la : Leg := { thread := t, circ := freeCirc s a, src := isl / 64, dst := 4 + mdie, path := a, pathOk := pathUp s a, queue := qid,
                    isl := isl, slot := σ, via := viaKey cell vc, credit := queueRoom s t qid }
  let s := setLeg s n la
  let lb : Leg := { thread := t, circ := freeCirc s b, src := 4 + mdie, dst := consDie, path := b, pathOk := pathUp s b, legB := true,
                    queue := qid, isl := isl, slot := σ, dest := d, credit := 128 }
  let s := setLeg s (n + 1) lb
  modCtx { s with straits := { s.straits with nextLeg := n + 2 } } isl σ (fun c => { c with legs := c.legs.put (32 * cell + vc) n })

/-- The one leg of an edge between a context and a unit of a memory-port die, under a key of the context's legs. -/
def addDirect (s : State) (isl σ key : Nat) (l : Leg) : State :=
  let n := s.straits.nextLeg
  let s := setLeg s n { l with circ := freeCirc s l.path, pathOk := pathUp s l.path, direct := true, isl := isl, slot := σ, credit := 128 }
  modCtx { s with straits := { s.straits with nextLeg := n + 1 } } isl σ (fun c => { c with legs := c.legs.put key n })

/-- The unit that a route word feeds, as a token's destination. -/
def unitDest (r : DWord) : Option Dest :=
  match rtKind r with
  | 3 => some (.gen (bitsOf r.toNat 5 4) (bitsOf r.toNat 11 6) (bitsOf r.toNat 13 12))
  | 6 => some (.ce (bitsOf r.toNat 5 4) (bitsOf r.toNat 8 6))
  | 7 => some (.sport (bitsOf r.toNat 5 4) (bitsOf r.toNat 11 6))
  | _ => none

/-- A strait of a path has its 512 circuits. -/
def pathFull (s : State) (path : List Nat) : Bool := path.any (fun h => decide (512 ≤ circOn s (h / 2)))

/-- Format of the entry that a route word's strait queue feeds. -/
def queueFmt (s : State) (c : Ctx) (isl : Nat) (r : DWord) : Nat :=
  let e := rtEnd r
  let target := regionIsl s c isl (endRow e) (endCol e)
  match peerSlot s c target with
  | some τ => (match vcEntry (ctxAt s target τ).block (endCell e) (endVc e) with | some (w, _) => vcFmt w | none => 0)
  | none => 0

/-- The strait queue of an edge is bound for its thread; a preloaded frame binds it as its thread enters it (R38). -/
def bindFor (s : State) (t : Option Nat) (c : Ctx) (isl mdie : Nat) (r : DWord) : Except (Nat × Bool) State :=
  match t with
  | some t => bindQueue s t c.part mdie r (queueFmt s c isl r)
  | none => .ok s

/-- Bind the edge from target `ti` of slot `n` of a context, if it crosses dies: to another island, or to a unit. A circuit
that a preload has made takes up its thread. A fault has its code and location (R344). -/
def bindEdge (s : State) (t : Option Nat) (isl σ n ti : Nat) (x : Target) : Except (Nat × Nat) State :=
  let c := ctxAt s isl σ
  match x with
  | .vc v =>
    match c.block.routes.zipIdx.find? (fun r => rtSource r.1 == some (n / 8, v.toNat)) with
    | none => .ok s
    | some (r, i) =>
      let e := rtEnd r
      let target := regionIsl s c isl (endRow e) (endCol e)
      let loc := c.blkIdx + 512 * n + 2 ^ 18 * ti + 2 ^ 20
      let old := (c.legs.find? (fun l => l.1 == 32 * (n / 8) + v.toNat)).map (·.2)
      match unitDest r with
      | some d =>
        let mdie := bitsOf r.toNat 5 4
        let path := ringPath (posOf (isl / 64)) (2 * mdie)
        if old.isSome then .ok s
        else if pathFull s path then .error (0x9022, loc)
        else .ok (addDirect s isl σ (32 * (n / 8) + v.toNat)
          { thread := t, src := isl / 64, dst := 4 + mdie, path := path, via := viaKey (n / 8) v.toNat, dest := some d })
      | none =>
        if rtKind r ≠ 1 ∨ target / 64 = isl / 64 then .ok s
        else
          let path := ringPath (posOf (isl / 64)) (posOf (target / 64))
          let mdie := hopFrom (path.getD (path.length - 1) 0) / 2
          if old.any (fun l => (legAt s l).thread.isSome) ∨ (old.isSome ∧ t.isNone) then .ok s
          else if old.isNone ∧ pathFull s path then .error (0x9022, loc)
          else match bindFor s t c isl mdie r with
            | .error (code, byRoute) => .error (code, if byRoute then c.blkIdx + 512 * i + 3 * 2 ^ 19 else loc)
            | .ok s =>
              .ok (match old with
                | some l => setLeg s l { legAt s l with credit := queueRoom s t (legAt s l).queue }
                | none => addCircuit s t isl σ (n / 8) v.toNat r path mdie (target / 64) (endDest s c isl e))
  | _ => .ok s

def bindTargets (s : State) (t : Option Nat) (isl σ n : Nat) : List (Target × Nat) → Except (Nat × Nat) State
  | [] => .ok s
  | (x, ti) :: r => match bindEdge s t isl σ n ti x with | .error e => .error e | .ok s => bindTargets s t isl σ n r

/-- Slots `n` and up of a context, `k` of them. -/
def bindSlots (s : State) (t : Option Nat) (isl σ : Nat) : Nat → Nat → Except (Nat × Nat) State
  | 0, _ => .ok s
  | k + 1, n =>
    match instAt (ctxAt s isl σ).block n with
    | none => bindSlots s t isl σ k (n + 1)
    | some i => match bindTargets s t isl σ n (instTargets i).zipIdx with | .error e => .error e | .ok s => bindSlots s t isl σ k (n + 1)

/-- Bind the edges from units of memory-port dies into the fabric, each under 512 + the number of its route word; no slot
feeds such an edge, and a fault names its route word. -/
def bindRoutes (s : State) (t : Option Nat) (isl σ : Nat) : List (DWord × Nat) → Except (Nat × Nat) State
  | [] => .ok s
  | (r, i) :: l =>
    let c := ctxAt s isl σ
    if !([3, 4, 7].contains (rtKind r)) ∨ (rtSource r).isSome ∨ c.legs.any (fun e => e.1 == 512 + i) then bindRoutes s t isl σ l
    else
      let e := rtEnd r
      let mdie := bitsOf r.toNat 5 4
      let die := regionIsl s c isl (endRow e) (endCol e) / 64
      let path := ringPath (2 * mdie) (posOf die)
      if pathFull s path then .error (0x9022, c.blkIdx + 512 * i + 3 * 2 ^ 19)
      else bindRoutes (addDirect s isl σ (512 + i)
        { thread := t, src := 4 + mdie, dst := die, path := path, units := rtKind r == 7, dest := endDest s c isl e }) t isl σ l

/-- The circuits of a context take up their thread. -/
def adoptLegs (s : State) (t : Option Nat) : Tab Nat → State
  | [] => s
  | (_, n) :: r =>
    let s := setLeg s n { legAt s n with thread := t }
    adoptLegs (if (legAt s n).direct then s else setLeg s (n + 1) { legAt s (n + 1) with thread := t }) t r

/-- Bind the edges of contexts in order. -/
def bindCtxs (s : State) (t : Option Nat) : List (Nat × Nat) → Except (Nat × Nat) State
  | [] => .ok s
  | (isl, σ) :: r =>
    if 256 ≤ isl then .ok s
    else match bindSlots s t isl σ (ctxAt s isl σ).block.insts.length 0 with
      | .error e => .error e
      | .ok s =>
        match bindRoutes s t isl σ (ctxAt s isl σ).block.routes.zipIdx with
        | .error e => .error e
        | .ok s => bindCtxs (adoptLegs s t (ctxAt s isl σ).legs) t r

/-- The edge from a VC of slot `n` of a context feeds a strait queue that the thread's earlier frame left, of another format. -/
def queueClash (s : State) (t : Option Nat) (isl σ n : Nat) (x : Target) : Bool :=
  let c := ctxAt s isl σ
  match x with
  | .vc v =>
    (match c.block.routes.find? (fun r => rtSource r == some (n / 8, v.toNat)) with
     | some r =>
       rtKind r == 1 && regionIsl s c isl (endRow (rtEnd r)) (endCol (rtEnd r)) / 64 != isl / 64
         && (match findQueue s t (bitsOf r.toNat 37 30) with | some q => !sameBase q.fmt (queueFmt s c isl r) | none => false)
     | none => false)
  | _ => false

/-- The location (R344) of the first edge of a frame that feeds a queue of another format, in the order of R313. -/
def firstClash (s : State) (t : Option Nat) (slots : List (Nat × Nat)) : Option Nat :=
  slots.findSome? (fun y =>
    let b := (ctxAt s y.1 y.2).block
    if t.isNone ∨ 256 ≤ y.1 then none
    else (List.range b.insts.length).findSome? (fun n =>
      match instAt b n with
      | none => none
      | some i => ((instTargets i).zipIdx.find? (fun e => queueClash s t y.1 y.2 n e.1)).map (fun e =>
          (ctxAt s y.1 y.2).blkIdx + 512 * n + 2 ^ 18 * e.2 + 2 ^ 20)))

/-- Bind every cross-die edge of a frame's contexts (R36 to R38), for their thread if they have one: the state, or the first
fault; edges into queues of another format come before circuits and queues (stage 4 of R342). -/
def bindFrame (s : State) (t : Option Nat) (slots : List (Nat × Nat)) : Except (Nat × Nat) State :=
  match firstClash s t slots with
  | some d => .error (0x9021, d)
  | none => bindCtxs s t slots

/-! ## Slot tables (R210, R211) -/

/-- Class that a context is loaded for, by the key of its grants (context key + 1). -/
def grantClass (s : State) (k : Nat) : Nat := (s.ctxs.get {} (k - 1)).cls

/-- The grant that a frame of the hard class takes over on a port: of the lowest class present, the latest. -/
def takeGrant (s : State) (port : Nat) : Option (Nat × Nat) :=
  [3, 2, 1].findSome? (fun cls => (s.xl.slotGrant.reverse.find? (fun g => g.2 / 64 == port && grantClass s g.1 == cls)))

/-- Grant `n` entries of a port (4·die + port) to a stream of a context. -/
def grantPort (s : State) (k cls port stream : Nat) : Nat → State
  | 0 => s
  | n + 1 =>
    let free := (List.range 64).find? (fun i => !s.xl.slotTab.any (fun e => e.1 == 64 * port + i))
    let give (s : State) (x : Nat) : State :=
      { s with xl := { s.xl with slotTab := s.xl.slotTab.put x (128 * k + stream), slotGrant := s.xl.slotGrant ++ [(k, x)] } }
    match free with
    | some i => grantPort (give s (64 * port + i)) k cls port stream n
    | none =>
      if cls ≠ 0 then s
      else match takeGrant s port with
        | some g => grantPort (give { s with xl := { s.xl with slotGrant := s.xl.slotGrant.erase g } } g.2) k cls port stream n
        | none => s

def grantWord (s : State) (k cls : Nat) (r : DWord) : State :=
  if rtKind r ≠ 5 then s
  else
    let v := r.toNat
    let d := bitsOf v 5 4
    let ag := bitsOf v 11 6
    let s := grantPort s k cls (4 * d) ag (bitsOf v 18 12)
    let s := grantPort s k cls (4 * d + 1) ag (bitsOf v 25 19)
    let s := grantPort s k cls (4 * d + 2) ag (bitsOf v 32 26)
    grantPort s k cls (4 * d + 3) ag (bitsOf v 39 33)

/-- The slot-table entries that a context's route words request, as its frame arms (R211). -/
def grantCtx (s : State) (cls isl σ : Nat) : State :=
  (ctxAt s isl σ).block.routes.foldl (fun s r => grantWord s (ctxKey isl σ + 1) cls r) s

/-- The grants of a context are released (R211). -/
def dropGrants (s : State) (isl σ : Nat) : State :=
  let k := ctxKey isl σ
  { s with xl := { s.xl with slotTab := s.xl.slotTab.filter (fun e => e.2 / 128 ≠ k + 1),
                             slotGrant := s.xl.slotGrant.filter (fun g => g.1 ≠ k + 1) } }

/-- A frame that has committed gives its grants back; as its contexts stand armed for a later entry they are granted what is
free then (log entry 68). -/
def regrant (s : State) (l : List (Nat × Nat)) : State :=
  l.foldl (fun s x => grantCtx s (ctxAt s x.1 x.2).cls x.1 x.2) (l.foldl (fun s x => dropGrants s x.1 x.2) s)

def grantFrame (s : State) (cls : Nat) : List (Nat × Nat) → State
  | [] => s
  | (i, σ) :: t => grantFrame (grantCtx s cls i σ) cls t

end Sys2Proof.Machine
end

