-- ==== Sys2Proof/Machine/QueueOps.lean ====
section
/-! DEFINITION. Command queues: kicks (R81), parsing (R84), errors and recovery (R85), the checks of a packet (R86), the
queue interpreter and its verifier (R94 to R99), and the event rings (R100 to R106, R495). -/
namespace Sys2Proof.Machine

/-! ## Position, completion and errors -/

/-- Buffers whose last word has been parsed are left (R93). -/
def leaveBufs : List BufPos → List BufPos
  | [] => []
  | b :: t => if b.len ≤ b.pos then leaveBufs t else b :: t

/-- The position that an event of the queue reports (R100): QCI, or the word offset in the innermost buffer. -/
def queuePos (x : Queue) : Nat := match leaveBufs x.stack with | b :: _ => b.pos | [] => x.ci.toNat

def queueHdr (x : Queue) : Nat := match x.pkt with | some p => p.hdr.toNat | none => 0

/-- State between packets (R80): IDLE with nothing to parse, else RUN. -/
def restState (x : Queue) : QState := if leaveBufs x.stack = [] ∧ x.ci = x.pi then .idle else .run

/-- An event of the packet that a queue parses or issues. -/
def queueEvent (s : State) (q code : Nat) (detail : List Byte) (faults : Bool) : State :=
  let x := queueAt s q
  postQueueEvent s q code (queuePos x) (queueHdr x) detail (leaveBufs x.stack).length faults

/-- A queue error (R85): the event is posted and the queue is in FAULT, pointing at the faulting packet. -/
def queueError (s : State) (q code : Nat) (detail : List Byte) : State :=
  modQueue (queueEvent s q code detail true) q
    (fun x => { x with st := .fault, lastErr := code % 256, run := none, waitSince := none, waitTime := none, asked := none })

/-- Move past `n` words at the place that is parsed. -/
def advance (x : Queue) (n : Nat) : Queue :=
  match leaveBufs x.stack with
  | b :: t => { x with stack := { b with pos := b.pos + n } :: t }
  | [] => { x with stack := [], ci := x.ci + BitVec.ofNat 32 n }

/-- The parsed packet is left behind. -/
def passPacket (x : Queue) (n : Nat) : Queue :=
  let x := { advance x n with ahead := [], pkt := none, run := none, waitSince := none, waitTime := none, asked := none }
  { x with st := restState x }

/-- A packet of a queue completes (R87); EV_DONE follows if it had NOTIFY (R83, R101). -/
def completePacket (s : State) (q n : Nat) (faulted : Bool) : State :=
  let x := queueAt s q
  let s := setQueue s q { x with pend := x.pend.filter (fun m => m != n), notify := x.notify.filter (fun e => e.1 != n) }
  match x.notify.find? (fun e => e.1 == n) with
  | some (_, pos, hdr) =>
    postQueueEvent s q 0x0001 (pos % 2 ^ 32) hdr (leBytes 1 (if faulted then 1 else 0)) (pos / 2 ^ 32) false
  | none => s

/-- The parsed packet is issued (R84): it takes the queue's next packet number, and the queue moves past it. -/
def issuePacket (s : State) (q : Nat) (p : Packet) : Nat × State :=
  let s := if (queueAt s q).level = 1 then journalOne s (.packet q p.hdr.toNat) else s
  let x := queueAt s q
  let y := passPacket x (1 + p.count)
  let note := if p.hdr.toNat.testBit 20 then
      x.notify ++ [(x.nextPkt, queuePos x + 2 ^ 32 * (leaveBufs x.stack).length, p.hdr.toNat)]
    else x.notify
  (x.nextPkt, setQueue s q { y with nextPkt := x.nextPkt + 1, pend := x.pend ++ [x.nextPkt], notify := note })

/-- A packet that completes at issue. -/
def issueDone (s : State) (q : Nat) (p : Packet) : State :=
  let (n, s) := issuePacket s q p
  completePacket s q n false

/-! ## Checks of step 3 (R86) -/

/-- Service-queue packets wait while intake is paused (R127). -/
def queuePaused (s : State) (x : Queue) : Bool := s.fw.paused && decide (x.level = 1)

/-- The queue may take a turn for its parsed packet. -/
def mayIssue (s : State) (x : Queue) : Bool :=
  x.en && (x.st == .run || x.st == .wait || x.st == .idle) && !x.evPend && x.run.isNone && !queuePaused s x

/-- The header check of R86; no count means any count. -/
def badHeader (x : Queue) (p : Packet) (count : Option Nat) : Bool :=
  decide (p.hdr.toNat / 2 ^ 22 ≠ 0) || decide (2 ^ x.sizeLog2 < p.count + 1)
    || (match count with | some c => decide (p.count ≠ c) | none => false)

/-- Put the queue in WAIT (R80, R89). -/
def queueWait (s : State) (q : Nat) : State := modQueue s q (fun x => { x with st := .wait })

/-- Steps 3 and 4 of R84 for a parsed packet: the first error of R86 that applies, then the wait of SERIAL (R87), then
the packet's own issue. `bad` is the index of the first payload word that fails. -/
def issueWith (s : State) (p : Packet) (count bad : Option Nat) (cls serial : Bool) (go : State → Out) : Out :=
  let q := s.cur.q
  let x := queueAt s q
  if !mayIssue s x then .next s
  else if badHeader x p count then .next (queueError s q 0x0102 [])
  else
    match bad with
    | some i => .next (queueError s q 0x0103 (leBytes 1 i))
    | none =>
      if cls then .next (queueError s q 0x0106 [])
      else if (serial || p.hdr.toNat.testBit 21) && x.pend != [] then .next (queueWait s q)
      else go s

/-- Payload word i, as a number. -/
def pw (p : Packet) (i : Nat) : Nat := (p.ws.getD i 0).toNat
/-- A 64-bit payload value, low word first. -/
def pw64 (p : Packet) (i : Nat) : Nat := pw p i + 2 ^ 32 * pw p (i + 1)

/-- The first payload word index whose condition holds. -/
def firstBad : List (Nat × Bool) → Option Nat
  | [] => none
  | (i, b) :: t => if b then some i else firstBad t

/-- A packet whose TYPE is not assigned (R86). -/
def badType (s : State) (q : Nat) : Out :=
  if mayIssue s (queueAt s q) then .next (queueError s q 0x0101 []) else .next s

/-! ## Parsing (R84, R92, R93) -/

/-- VA of the word `n` places after the one that is parsed. -/
def parseVa (x : Queue) (n : Nat) : Nat :=
  match leaveBufs x.stack with
  | b :: _ => b.addr + 4 * (b.pos + n)
  | [] => x.base + 4 * ((x.ci.toNat + n) % 2 ^ x.sizeLog2)

/-- Read `n` words from the place that is parsed, starting `i` places after it. -/
def readAhead (s : State) (x : Queue) (i : Nat) : Nat → Except Nat (List Word) × State
  | 0 => (.ok [], s)
  | n + 1 =>
    match feWords s x.part (parseVa x i) 1 with
    | (.error va, s) => (.error va, s)
    | (.ok l, s) =>
      match readAhead s x (i + 1) n with
      | (.error va, s) => (.error va, s)
      | (.ok m, s) => (.ok (l ++ m), s)

/-- Words available from the place that is parsed: up to QPI, or to the buffer's end. -/
def wordsLeft (x : Queue) : Nat :=
  match leaveBufs x.stack with
  | b :: _ => b.len - b.pos
  | [] => (x.pi.toNat + 2 ^ 32 - x.ci.toNat) % 2 ^ 32

/-- The queue lies in host memory under a function in reset: its packets are not fetched (R62, R63). The stop ends with the reset,
before the function is bound again (log entry 76). -/
def fetchStopped (s : State) (x : Queue) : Bool :=
  match translate s 4 x.part (parseVa x 0) .read with
  | (.ok _ true, _) =>
    (match fnOf s x.part with
     | some 0 => s.pcie.pfFlr
     | some f => s.pcie.flr.get false f
     | none => false)
  | _ => false

/-- An event of the queue has not been written yet. -/
def eventWaits (s : State) (q : Nat) (x : Queue) : Bool := (ringAt s x.evr).waiting.any (fun e => e.src == q)

def prepend (s : State) (a : Action) : State := { s with agenda := { cycles := 0, dt := 0, act := a } :: s.agenda }

/-- The first `n` words of the packet that is parsed: those read already, and the others now (R82). -/
def readPacket (s : State) (x : Queue) (n : Nat) : Except Nat (List Word) × State :=
  match readAhead s x x.ahead.length (n - x.ahead.length) with
  | (.error va, s) => (.error va, s)
  | (.ok l, s) => (.ok (x.ahead ++ l), s)

/-- A queue's turn (R84): header and payload are read, no word before its turn (R82, log entry 76); then its program runs, or the
packet is checked and issued. -/
def parsePacket (s : State) (q : Nat) (x : Queue) : State :=
  match readPacket s x 1 with
  | (.error va, s) => queueError s q 0x0107 (leBytes 8 va)
  | (.ok l, s) =>
    let p : Packet := { hdr := l.headD 0, ws := [] }
    let inBuf := leaveBufs x.stack ≠ []
    if 2 ^ x.sizeLog2 < p.count + 1 then
      queueError (setQueue s q { x with pkt := some p }) q 0x0102 []
    else if wordsLeft x < p.count + 1 then
      if inBuf then queueError (setQueue s q { x with pkt := some p }) q 0x0105 []
      else setQueue s q { x with ahead := l, st := .idle }
    else
      match readPacket s { x with ahead := l } (1 + p.count) with
      | (.error va, s) => queueError (setQueue s q { x with pkt := some p }) q 0x0107 (leBytes 8 va)
      | (.ok ws, s) =>
        let x := { x with pkt := some { p with ws := ws.tail }, ahead := [], st := .run }
        if x.plen = 0 then prepend (setQueue s q x) (.issue q)
        else prepend (setQueue s q { x with run := some {} }) (.bytecode q)

/-- A queue takes turns (R80, R84): it is enabled, in IDLE or RUN, with no packet in hand and nothing that holds it. -/
def takesTurns (s : State) (q : Nat) : Bool :=
  let x := queueAt s q
  decide (q < 64) && x.en && (x.st == .idle || x.st == .run) && !x.evPend && x.run.isNone && x.pkt.isNone && !queuePaused s x
    && !eventWaits s q x

/-- A queue has something for its turn: a header that it has not read, or the rest of a packet whose header it has. -/
def hasTurn (s : State) (q : Nat) : Bool :=
  let x := queueAt s q
  let need := match x.ahead with
    | h :: _ => 1 + (Packet.mk h []).count
    | [] => 1
  takesTurns s q && decide (need ≤ wordsLeft x) && !fetchStopped s x

/-- No queue with a packet comes before `q` in the front end's order (R84). -/
def turnOf (s : State) (q : Nat) : Bool := (List.range ((q + 64 - s.turn) % 64)).all (fun i => !hasTurn s ((s.turn + i) % 64))

def execPacketParse (q : Nat) (s : State) : Out :=
  let x := { queueAt s q with stack := leaveBufs (queueAt s q).stack }
  if !takesTurns s q then .next s
  else if wordsLeft x = 0 then .next (setQueue s q { x with st := .idle })
  else if fetchStopped s x ∨ !turnOf s q then .next s
  else .next (parsePacket (setQueue { s with turn := (q + 1) % 64 } q x) q x)

/-! ## Kicks (R81) -/

def applyKick (s : State) (q : Nat) (v : Word) : State :=
  let x := queueAt s q
  let d := (v - x.pi).toNat
  if x.st = .disabled ∨ d = 0 ∨ 2 ^ 31 ≤ d then setQueue s q { x with stale := min 255 (x.stale + 1) }
  else if 2 ^ x.sizeLog2 < (v - x.ci).toNat then
    postQueueEvent s q 0x010D x.ci.toNat 0 (leBytes 4 v.toNat) 0 false
  else setQueue s q { x with pi := v, st := if x.st = .idle then .run else x.st }

/-! ## Configuration and recovery (R79, R85) -/

/-- Stop parsing: the depth stack, the program run and the parsed packet are abandoned. -/
def abandon (x : Queue) : Queue :=
  { x with run := none, pkt := none, ahead := [], stack := [], waitSince := none, waitTime := none, asked := none }

/-- A write of register r of a queue by service firmware (R132). -/
def journalQueue (s : State) (l : Level) (q r : Nat) (v : Word) : State := journalSys s l (0x200000 + 64 * q + 4 * r) v

def qcfgWrite (s : State) (q : Nat) (v : Word) : State :=
  let x := queueAt s q
  let b := v.toNat
  if x.en then
    if b.testBit 0 then s else setQueue s q { abandon x with en := false, st := .disabled }
  else
    let x := { x with level := bitsOf b 1 1, part := bitsOf b 5 2, evr := bitsOf b 10 6, sizeLog2 := bitsOf b 15 11 }
    if !b.testBit 0 then setQueue s q x
    else
      let r := ringAt s x.evr
      if x.sizeLog2 < 10 ∨ 24 < x.sizeLog2 ∨ !r.en ∨ (x.level = 0 ∧ r.part ≠ x.part) then
        setQueue s q { x with cfgErr := true }
      else setQueue s q { x with en := true, st := restState x }

def execQueueEnable (l : Level) (q : Nat) (v : Word) (s : State) : Out :=
  if l = .t ∨ 64 ≤ q then .next s else .next (qcfgWrite (journalQueue s l q 2 v) q v)

def execQueueDisable (l : Level) (q : Nat) (v : Word) (s : State) : Out :=
  if l = .t ∨ 64 ≤ q then .next s else .next (qcfgWrite (journalQueue s l q 2 v) q v)

/-- Words of the faulting packet as far as its header was read, not past what is available. -/
def skipLen (x : Queue) : Nat :=
  match x.pkt with
  | some p => min (1 + p.count) (wordsLeft x)
  | none => min 1 (wordsLeft x)

def qctlOp (x : Queue) (op : Nat) : Queue :=
  if op = 1 then { x with pkt := none, ahead := [], run := none, st := .run }
  else if op = 2 then passPacket x (skipLen x)
  else if op = 3 then { abandon x with ci := x.pi, st := .idle }
  else x

def qctlWrite (s : State) (q : Nat) (v : Word) : State :=
  let x := queueAt s q
  let op := v.toNat % 4
  if !v.toNat.testBit 31 then setQueue s q { x with op := op }
  else if x.st = .fault ∧ !x.evPend then setQueue s q { qctlOp x op with op := op }
  else if x.st = .disabled then setQueue s q { abandon x with op := op, ci := x.pi }
  else s

def execQctlRetry (l : Level) (q : Nat) (v : Word) (s : State) : Out :=
  if l = .t ∨ 64 ≤ q then .next s else .next (qctlWrite (journalQueue s l q 6 v) q v)

def execQctlSkip (l : Level) (q : Nat) (v : Word) (s : State) : Out :=
  if l = .t ∨ 64 ≤ q then .next s else .next (qctlWrite (journalQueue s l q 6 v) q v)

def execQctlReset (l : Level) (q : Nat) (v : Word) (s : State) : Out :=
  if l = .t ∨ 64 ≤ q then .next s else .next (qctlWrite (journalQueue s l q 6 v) q v)

/-! ## Loading a program (R98, R99) -/

/-- The body of a LOOPN at index i (R96). -/
def loopBody (i : Nat) : Option Instr → Option (Nat × Nat)
  | some (.qpLoopn a _) => some (i + 1, i + a.toNat + 1)
  | _ => none

def loopBodies (l : List (Option Instr)) : List (Nat × Nat) :=
  (List.range l.length).filterMap (fun i => loopBody i (l.getD i none))

/-- Target of a branch at index i. -/
def branchTarget (i : Nat) : Option Instr → Option Nat
  | some (.qpBrt m) => some (i + 1 + m.toNat)
  | some (.qpBrf m) => some (i + 1 + m.toNat)
  | some (.qpJmp m) => some (i + 1 + m.toNat)
  | _ => none

/-- The verifier's conditions on the bytecode at index i of a program (R98). -/
def bytecodeOk (l : List (Option Instr)) (i : Nat) : Bool :=
  let bodies := loopBodies l
  match l.getD i none with
  | none => false
  | some c =>
    c.qpOk &&
    (match loopBody i (some c) with
     | none => true
     | some (lo, hi) => decide (hi < l.length) && (List.range (hi + 1 - lo)).all (fun j => (loopBody 0 (l.getD (lo + j) none)).isNone))
    &&
    (match branchTarget i (some c) with
     | none => true
     | some t =>
       decide (t ≤ l.length) &&
       bodies.all (fun b =>
         let inside := decide (b.1 ≤ i) && decide (i ≤ b.2)
         if inside then decide (t ≤ b.2 + 1) else !(decide (b.1 ≤ t) && decide (t ≤ b.2))))

/-- Index of the first bytecode that fails, or none. -/
def verify (l : List (Option Instr)) : Option Nat := (List.range l.length).find? (fun i => !bytecodeOk l i)

def readStaged (t : Tab Word) (n : Nat) : List (Option Instr) :=
  (List.range n).map (fun i => match decodeQp ((t.get 0 i).toNat % 2 ^ 16) with | .ok c => some c | .error _ => none)

def copyProg (t : Tab Word) : Nat → Tab Word
  | 0 => []
  | n + 1 => (copyProg t n).set 0 n (t.get 0 n)

/-- LOAD (R99): the length is 0 (no program) or 1 to 256, and every bytecode passes. -/
def loadProgram (x : Queue) : Queue :=
  if 256 < x.index then { x with vok := false, verr := 256 }
  else
    match verify (readStaged x.staged x.index) with
    | some i => { x with vok := false, verr := i }
    | none => { x with vok := true, plen := x.index, prog := copyProg x.staged x.index, win := [] }

def qpctlWrite (x : Queue) (v : Word) : Queue :=
  if x.en then x
  else
    let x := { x with index := v.toNat % 512 }
    if v.toNat.testBit 9 then loadProgram x else x

def stageCode (x : Queue) (v : Nat) : Queue :=
  let t := if x.index < 256 then x.staged.set 0 x.index (BitVec.ofNat 32 v) else x.staged
  { x with staged := t, index := (x.index + 1) % 512 }

def qpwinWrite (x : Queue) (v : Word) : Queue :=
  if x.en then x else stageCode (stageCode x (v.toNat % 2 ^ 16)) (v.toNat / 2 ^ 16)

def execQpwinWrite (l : Level) (q : Nat) (v : Word) (s : State) : Out :=
  if l = .t ∨ 64 ≤ q then .next s else .next (modQueue (journalQueue s l q 8 v) q (fun x => qpwinWrite x v))

def execQpctlLoad (l : Level) (q : Nat) (v : Word) (s : State) : Out :=
  if l = .t ∨ 64 ≤ q then .next s else .next (modQueue (journalQueue s l q 7 v) q (fun x => qpctlWrite x v))

end Sys2Proof.Machine
end

