-- ==== Sys2Proof/Machine/SyncOps.lean ====
section
/-! DEFINITION. Owner cells, JOIN, groups, fences, time, traps, tile copies and privileged forms: majors 0x47 to 0x4E
(R421 to R434). A firing that has an operation to send issues it as a pending operation of its slot. -/
namespace Sys2Proof.Machine

/-- An "any" token as words, first word lowest. -/
def anyWords (vec : Bool) (i : Inp) : List Word := if vec then natWords 16 (inpVal i) else natWords 1 (inpVal i)

/-- A form whose operand a is "any" and that sends one operation (R425, R426, R428). -/
def fireAny (s : State) (w : OpA) (a : Ins → Acc) : Out :=
  let ins := insOf s
  fireMem s w ins [(.a, ins.a)] {} (.ok (a ins)) id

/-! ## Owner cells (R421 to R423) -/

/-- The ranges of an OWN slot's operator state: four pairs of base and length (R421). -/
def ownRanges (st : List Word) : List (Nat × Nat) :=
  [0, 1, 2, 3].map (fun i => ((st.getD (2 * i) 0).toNat, (st.getD (2 * i + 1) 0).toNat))

/-- The fault of an OWN firing on the range [a, a + n), in the order of R421. -/
def ownFault (win : Nat) (st : List Word) (a n : Nat) : Option (Nat × Nat) :=
  if n = 0 ∨ 16384 < n then some (0x9013, a)
  else if win < a + n then some (0x9011, a)
  else if (ownRanges st).all (fun r => decide (r.2 ≠ 0)) then some (0x9013, a)
  else none

/-- Number of the first free pair. -/
def ownFree (st : List Word) : Nat := ((ownRanges st).findIdx? (fun r => decide (r.2 = 0))).getD 0

/-- OWN (R421): length from b, or IMM[15:5] + 1. -/
def execOwn (w : OpA) (s : State) : Out :=
  let ins := insOf s
  let ops := (.a, ins.a) :: (if w.ib then [] else [(.b, ins.b)])
  let a := inpVal ins.a
  let n := if w.ib then w.imm.toNat / 32 + 1 else inpVal ins.b
  let i := ownFree ins.st
  let f : Fire := { outs := [(true, .sc 0)], st := [(2 * i, BitVec.ofNat 32 a), (2 * i + 1, BitVec.ofNat 32 n)] }
  if performs w ins ops && mayFire s then
    match ownFault (winLen (curCtx s) s.cur.cell) ins.st a n with
    | some (code, addr) => .next (raiseHere s code addr 0 0)
    | none => operate s w.t0 w.t1 (memPlan w ins ops true f)
  else operate s w.t0 w.t1 (memPlan w ins ops true f)

/-- Format code of an ATFADD operand in an update header (R422); a scaled operand is sent as the f32 that R312 makes of it. -/
def updFmt (fb : Nat) : Nat :=
  if fmtSEN fb then 0
  else match fmtFMT fb with
    | 9 => 1 | 10 => 2 | 11 => 3 | 12 => 4 | _ => 0

/-- The first operand word of an update: b's bits, or the f32 value of a scaled b of ATFADD (R312). -/
def updOperand (sub : Nat) (ins : Ins) : Nat :=
  if sub = 9 ∧ fmtSEN ins.fb then lane (floatLanes .f32 ins.fb ins.hb (inpVal ins.b)) 0 else inpVal ins.b

/-- Header of an update group (R422). -/
def updHeader (sub : Nat) (w : OpA) (ins : Ins) : Nat :=
  inpVal ins.a % 2 ^ 14 + sub * 2 ^ 14 + w.imm.toNat % 2 * 2 ^ 18 + flagNat (modW w 0) * 2 ^ 19 + flagNat (modW w 1) * 2 ^ 20
    + flagNat (modW w 2) * 2 ^ 21 + flagNat (sub != 10 && fmtFMT ins.fb == 6) * 2 ^ 22
    + (if sub = 9 then updFmt ins.fb else 0) * 2 ^ 23

/-- The newest firing has sent an update group: it stands as an operation that its owner has not applied, from which all that
the firing sent derives (R231, R233). -/
def trackUpdate (s : State) : State :=
  let a := { newAcc s .update .cell 0 0 0 with done1 := true }
  let s := pushAcc s a
  { s with flights := s.flights.map (fun f => if f.chk = some (s.nextChk - 1) then { f with tok := { f.tok with deps := mergeDeps f.tok.deps [a.id] } } else f) }

/-- The owner has applied the update of a header that derives from `deps`: the newest of those that stand. -/
def updateApplied (s : State) (deps : List Nat) : State :=
  let ids := (s.accs.filter (fun a => a.kind == .update && deps.any (fun d => d % 2 ^ 40 == a.id))).map (fun a => a.id)
  { s with accs := s.accs.filter (fun a => !(ids != [] && a.id == ids.foldl max 0)) }

/-- An update form (R422): one group on T0, and the completion token. -/
def fireUpdate (sub : Nat) (w : OpA) (s : State) : Out :=
  let ins := insOf s
  let ops := (.a, ins.a) :: ((if sub = 10 then [] else [(.b, ins.b)]) ++ (if sub = 8 then [(.c, ins.c)] else []))
  let words := (if sub = 10 then [] else [updOperand sub ins]) ++ (if sub = 8 then [inpVal ins.c] else [])
  if performs w ins ops && decide (16 ≤ outstanding s s.cur.isl s.cur.cell) then .next s
  else
    operateThen s w.t0 w.t1
      (memPlan w ins ops true
        { outs := (updHeader sub w ins :: words).map (fun v => (false, OutV.sc v)) ++ [(true, .sc 0)] })
      (fun t => if performs w ins ops then trackUpdate t else t)

def execAtadd (w : OpA) (s : State) : Out := fireUpdate 1 w s
def execAtmin (w : OpA) (s : State) : Out := fireUpdate 2 w s
def execAtmax (w : OpA) (s : State) : Out := fireUpdate 3 w s
def execAtand (w : OpA) (s : State) : Out := fireUpdate 4 w s
def execAtor (w : OpA) (s : State) : Out := fireUpdate 5 w s
def execAtxor (w : OpA) (s : State) : Out := fireUpdate 6 w s
def execAtxchg (w : OpA) (s : State) : Out := fireUpdate 7 w s
def execAtcas (w : OpA) (s : State) : Out := fireUpdate 8 w s
def execAtfadd (w : OpA) (s : State) : Out := fireUpdate 9 w s
def execAtfrd (w : OpA) (s : State) : Out := fireUpdate 10 w s

/-- The OWN slots of a cell of a context. -/
def ownSlots (c : Ctx) (cell : Nat) : List Nat :=
  eight.filter (fun k =>
    match decodeOp ((c.block.insts.getD (8 * cell + k) 0).toNat) with
    | .ok (.own _) => true
    | _ => false)

/-- Every OWN slot of the cell has fired since the frame's entry (R423). -/
def ownReady (c : Ctx) (cell : Nat) : Bool := (ownSlots c cell).all (fun k => firingNo c (8 * cell + k) != 0)

/-- The OWN slot whose range holds `n` words at `a` (R423). -/
def ownHolder (c : Ctx) (cell a n : Nat) : Option Nat :=
  (ownSlots c cell).find? (fun k =>
    (ownRanges (opState c (8 * cell + k))).any (fun r => decide (r.1 ≤ a) && decide (a + n ≤ r.1 + r.2)))

/-- Fields of an update header (R422). -/
structure Upd where
  addr : Nat
  sub : Nat
  rpl : Bool
  e : Bool
  clr : Bool
  sat : Bool
  uns : Bool
  fmt : Nat
  deriving DecidableEq, Repr

def updOf (h : Nat) : Upd :=
  { addr := h % 2 ^ 14, sub := bitsOf h 17 14, rpl := h.testBit 18, e := h.testBit 19, clr := h.testBit 20,
    sat := h.testBit 21, uns := h.testBit 22, fmt := bitsOf h 25 23 }

/-- A word that is no header of R422: another sub-opcode than 1 to 10, an operand format above 4, or a bit of [31:26] set. -/
def notHeader (h : Nat) : Bool := bitsOf h 17 14 == 0 || decide (10 < bitsOf h 17 14) || decide (4 < bitsOf h 25 23) || decide (2 ^ 26 ≤ h)

/-- The owner's range that an update's address falls in: that of the lowest OWN slot that holds it (R423). An exact one has to be
aligned, with all its 12 words in one range. -/
def updHolder (c : Ctx) (cell : Nat) (u : Upd) : Option Nat :=
  if u.e && (u.addr % 4 != 0 || (ownHolder c cell u.addr 12).isNone) then none else ownHolder c cell u.addr 1

/-- Operand words that follow a header. -/
def updCount (u : Upd) : Nat := if u.sub = 8 then 2 else if u.sub = 10 then 0 else 1

/-- The float format of an update's operand (R422). -/
def updFloat (u : Upd) : FloatF :=
  match u.fmt with
  | 1 => f16F | 2 => bf16F | 3 => e4m3F | 4 => e5m2F | _ => f32F

/-- New value of one word (R222). -/
def updWord (u : Upd) (x v v2 : Nat) : Nat :=
  let t : IntF := ⟨32, !u.uns⟩
  match u.sub with
  | 1 => fitTo t u.sat (t.read x + t.read v)
  | 2 => t.pat (min (t.read x) (t.read v))
  | 3 => t.pat (max (t.read x) (t.read v))
  | 4 => x &&& v
  | 5 => x ||| v
  | 6 => x ^^^ v
  | 7 => v
  | 8 => if x = v then v2 else x
  | 9 => f32F.rnd .rne false 0 (FVal.sum .rne [f32F.dec x, (updFloat u).dec v])
  | _ => x

/-- An exact accumulator: words 0 to 9 as a signed number, count and flags (R223). -/
def accVal (ws : List Word) : Int := sextNat 320 (wordsNat (ws.take 10))

/-- Units of 2^−149 of a finite value of the formats of R223. -/
def units149 (x : FVal) : Int := sumAt (-149) [x]

/-- ATFADD.E (R223). -/
def accAdd (ws : List Word) (v : FVal) : List Word :=
  let a := accVal ws
  let n := (ws.getD 10 0) + 1
  let f := (ws.getD 11 0).toNat ||| 32
  match v with
  | .nan => natWords 10 (modPow 320 a) ++ [n, BitVec.ofNat 32 (f ||| 4)]
  | .inf false => natWords 10 (modPow 320 a) ++ [n, BitVec.ofNat 32 (f ||| 1)]
  | .inf true => natWords 10 (modPow 320 a) ++ [n, BitVec.ofNat 32 (f ||| 2)]
  | .fin neg m _ =>
    let f := if neg ∧ m = 0 then f else f ||| 16
    let b := a + units149 v
    let f := if (2 : Int) ^ 319 ≤ b ∨ b < -(2 : Int) ^ 319 then f ||| 8 else f
    natWords 10 (modPow 320 b) ++ [n, BitVec.ofNat 32 f]

/-- ATFRD.E (R224). -/
def accRead (ws : List Word) : Nat :=
  let f := (ws.getD 11 0).toNat
  let a := accVal ws
  if f.testBit 2 ∨ (f.testBit 0 ∧ f.testBit 1) ∨ f.testBit 3 then f32F.nan
  else if f.testBit 0 then f32F.infc false
  else if f.testBit 1 then f32F.infc true
  else if a = 0 then (if f.testBit 5 ∧ !f.testBit 4 then f32F.sgn true else 0)
  else f32F.rnd .rne false 0 (.fin (decide (a < 0)) a.natAbs (-149))

/-- The reply of an update on T0 of an OWN slot (R423). -/
def ownReply (s : State) (isl slot cell k v : Nat) (deps : List Nat) : State :=
  match opaOf ((ctxAt s isl slot).block.insts.getD (8 * cell + k) 0).toNat with
  | some w => sendTarget s isl slot cell (8 * cell + k) 0 w.t0 (scalarTok (fillScalar (w.imm.toNat % 32) v) deps)
  | none => s

/-- The target of an OWN slot's replies can accept. -/
def replyRoom (s : State) (isl slot cell k : Nat) : Bool :=
  match opaOf ((ctxAt s isl slot).block.insts.getD (8 * cell + k) 0).toNat with
  | some w => match targetPlace s isl slot cell w.t0 with | some p => mayEnter s isl slot p 1 | none => true
  | none => true

/-- Apply an update group to the owner's bank (R222 to R224): the state and the old value. -/
def applyUpdate (s : State) (key : Nat) (u : Upd) (ops : List Nat) : State × Nat :=
  if u.e then
    let ws := rdWords s key 12
    if u.sub = 10 then (if u.clr then wrWords s key (List.replicate 12 0) else s, accRead ws)
    else (wrWords s key (accAdd ws ((updFloat u).dec (ops.getD 0 0))), (ws.getD 0 0).toNat)
  else
    let x := (rdWord s key).toNat
    (wrWord s key (BitVec.ofNat 32 (updWord u x (ops.getD 0 0) (ops.getD 1 0))), x)

/-- The site of the OWN slot that holds an update arc. -/
def arcSlot (c : Ctx) (cell vc : Nat) : Nat :=
  match c.block.vcs.find? (fun e => vcCell e == cell && vcVc e == vc) with
  | some e => vcK e
  | none => 0

/-- One update group that waits on an update arc is applied (R423): a stop between groups is discarded, a stop inside
one is a mismatch, as is a word that is no header, an address outside every range or a malformed exact one is FLT_OWN_RANGE with the VC in detail 1. Those of a thread that stops are performed too, without
replies (R264), and those of one that is to be saved (R266). -/
def execOwnerUpdateApply (isl slot cell vc : Nat) (s : State) : Out :=
  let c := ctxAt s isl slot
  let key := vcKey cell vc
  let k := arcSlot c cell vc
  let site : Site := { isl := isl, slot := slot, cell := cell, k := k }
  let stopping := match c.thread with | some t => (threadAt s t).stop.isSome | none => false
  let saving := match c.thread with | some t => (threadAt s t).saving | none => false
  if (c.st ≠ .active ∧ !stopping ∧ !saving) ∨ cellFailed s isl cell ∨ !(ownSlots c cell).contains k ∨ (vcsOf c cell k 2).all (fun e => vcVc e != vc) then .next s
  else match bufFull c cell key with
    | [] => .next s
    | h :: t =>
      if h.stop ≠ 0 then .next (modCtx s isl slot (fun c => popBuf c cell key 1))
      else
        let u := updOf h.data.toNat
        let n := updCount u
        let ops := t.take n
        if notHeader h.data.toNat ∨ ops.any (fun o => o.stop ≠ 0) then .next (raiseAt s site (firingNo c (8 * cell + k)) 0x9016 0 0 0)
        else if ops.length < n ∨ !ownReady c cell then .next s
        else
          let cnt := if u.e then 12 else 1
          match updHolder c cell u with
          | none => .next (raiseAt s site (firingNo c (8 * cell + k)) 0x9013 u.addr vc 0)
          | some j =>
            if u.rpl && !stopping && !replyRoom s isl slot cell j then .next s
            else
              let at_ := winKey s isl slot c cell u.addr
              match readCheck s at_ cnt with
              | (.poisoned i, s) => .next (raiseAt s site (firingNo c (8 * cell + k)) 0x9033 (u.addr + i) 1 0)
              | (.bad, s) => .next (failFiring s site (firingNo c (8 * cell + k)) (unitsOf at_ cnt))
              | (.good, s) =>
                let s1 := updateApplied (modCtx s isl slot (fun c => popBuf c cell key (n + 1))) h.deps
                let (s2, old) := applyUpdate s1 at_ u (ops.map (fun o => o.data.toNat % 2 ^ 32))
                .next (if u.rpl && !stopping then ownReply s2 isl slot cell j old (liveDeps s2 isl (depsOf (h :: ops))) else s2)

/-! ## JOIN (R424) -/

/-- Targets of an instruction word: format W has only T0 (R331). -/
def wordTargets (w : Nat) : Target × Target :=
  ((targetOf (w / 2 ^ 34)).getD .none, if w / 2 ^ 56 = 8 then .none else (targetOf (w / 2 ^ 23)).getD .none)

/-- The arcs of operand a of a slot in order: slot-operand edges by producing slot and target as (buffer, source tag),
then VC entries by VC with no tag. -/
def joinArcs (c : Ctx) (n : Nat) : List (Nat × Option Nat) :=
  let want : Target := .operand .a (BitVec.ofNat 7 n)
  let slots := (List.range 128).flatMap (fun p =>
    let (t0, t1) := wordTargets ((c.block.insts.getD p 0).toNat)
    (if t0 = want then [(opKey n 0, some (2 * p))] else []) ++ (if t1 = want then [(opKey n 0, some (2 * p + 1))] else []))
  let vcs := (List.range 32).flatMap (fun v =>
    if (vcsOf c (n / 8) (n % 8) 0).any (fun e => vcVc e == v) then [(vcKey (n / 8) v, none)] else [])
  slots ++ vcs

/-- Tokens of an arc, oldest first. -/
def arcToks (c : Ctx) (cell : Nat) (arc : Nat × Option Nat) : List Tok :=
  match arc.2 with
  | some t => (bufOf c arc.1).filter (fun x => x.src == t)
  | none => bufFull c cell arc.1

/-- Remove the first `n` tokens of a source from a buffer. -/
def dropSrc (t : Nat) : Nat → List Tok → List Tok
  | _, [] => []
  | 0, l => l
  | n + 1, x :: r => if x.src = t then dropSrc t n r else x :: dropSrc t (n + 1) r

/-- Take the head of an arc: two beats of a vector, one token otherwise. -/
def popArc (c : Ctx) (cell n : Nat) (arc : Nat × Option Nat) : Ctx :=
  match arc.2 with
  | some t => setBuf c arc.1 (dropSrc t n (bufOf c arc.1))
  | none => popBuf c cell arc.1 n

def popArcs (c : Ctx) (cell : Nat) (n : Nat) : List (Nat × Option Nat) → Ctx
  | [] => c
  | a :: t => popArcs (popArc c cell n a) cell n t

/-- JOIN (R424): fires when a token stands on every arc. One whose tokens outnumber the entries that its context may hold fires
when T0 can accept a token (R182), and the rest follow it in arc order, over the cycles of its repeat (log entry 72). -/
def execJoin (w : OpA) (s : State) : Out :=
  let c := curCtx s
  let n := curSlotNo s
  let arcs := joinArcs c n
  let vec := fmtVEC (operandFmt c s.cur.cell s.cur.k 0)
  let ins := arcs.map (fun a => presents vec (arcToks c s.cur.cell a))
  let heads (m : Nat) := arcs.flatMap (fun a => (arcToks c s.cur.cell a).take m)
  let fired (m : Nat) (outs : List (Bool × OutV)) : State :=
    commitBy s w.t0 w.t1 (liveDeps s s.cur.isl (depsOf (heads m))) none outs (fun c =>
      bumpFiring (popArcs (recordHist { c with begun := true } s.cur.cell s.cur.k (heads m)) s.cur.cell m arcs) n)
  let go (m : Nat) (outs : List (Bool × OutV)) : Out :=
    if mayFire s && canSend s w.t0 w.t1 outs && !groupBusy s w then .next (fired m outs) else .next s
  match alignAll ins with
  | .wait => .next s
  | .mismatch => operate s w.t0 w.t1 .mismatch
  | .stop l => go 1 (toBoth (.stop l))
  | .data => go (if vec then 2 else 1) (ins.map (fun i => (false, anyV vec (inpVal i))) ++ [(true, .sc 0)])

/-! ## Groups (R425) -/

/-- Group number of a form (R425): G, or A_u[9:0] if GA = 1. -/
def groupNo (w : OpA) (ins : Ins) : Nat := if w.imm.toNat.testBit 10 then inpVal ins.a % 1024 else w.imm.toNat % 1024

def execGjoin (w : OpA) (s : State) : Out := fireAny s w (fun ins => newAcc s (.group 0) .sys (groupNo w ins) 0 1)
def execGleave (w : OpA) (s : State) : Out := fireAny s w (fun ins => newAcc s (.group 1) .sys (groupNo w ins) 0 1)
def execGarrive (w : OpA) (s : State) : Out := fireAny s w (fun ins => newAcc s (.group 2) .sys (groupNo w ins) 0 1)
def execGdrop (w : OpA) (s : State) : Out := fireAny s w (fun ins => newAcc s (.group 3) .sys (groupNo w ins) 0 1)
def execGwait (w : OpA) (s : State) : Out := fireAny s w (fun ins => newAcc s .gwait .sys (groupNo w ins) 0 1)

/-! ## Fences (R426) -/

/-- A fence of scope 0 island, 1 die, 2 package, 3 system: a's token leaves once what it covers is performed. -/
def fireFence (scope : Nat) (w : OpA) (s : State) : Out :=
  fireAny s w (fun ins =>
    { newAcc s (.fence scope) .sys 0 0 1 with vec := fmtVEC ins.fa, val := anyWords (fmtVEC ins.fa) ins.a })

def execFenceI (w : OpA) (s : State) : Out := fireFence 0 w s
def execFenceD (w : OpA) (s : State) : Out := fireFence 1 w s
def execFenceP (w : OpA) (s : State) : Out := fireFence 2 w s
def execFenceS (w : OpA) (s : State) : Out := fireFence 3 w s

/-! ## Time (R428, R429) -/

def execTime (w : OpA) (s : State) : Out := fireAny s w (fun _ => newAcc s .time .sys 0 0 1)
def execSlotrd (w : OpA) (s : State) : Out := fireAny s w (fun _ => newAcc s .time .sys (1 + w.imm.toNat % 4) 0 1)

/-! ## Traps (R430) -/

/-- TRAP: a performing firing raises FLT_TRAP and holds a's token; any other passes it on. -/
def execTrap (w : OpA) (s : State) : Out :=
  let ins := insOf s
  let v := fmtVEC ins.fa
  if performs w ins [(.a, ins.a)] then
    fireMem s w ins [(.a, ins.a)] {}
      (.ok { newAcc s .trap .sys 0 0 1 with vec := v, val := anyWords v ins.a, phase := .held })
      (fun t => raiseAt t s.cur (firingNo (curCtx s) (curSlotNo s)) 0x901F 0 0 w.imm.toNat)
  else
    fireOrdered s w.t0 w.t1 (predicated w.pred ins (fun f => { eat := f.eat, outs := f.outs })
      (oneStream ins (fun x => { outs := toBoth (anyV v x) })))

/-! ## Tile copies (R431) -/

/-- Matrix engine of a cell's quad (R169). -/
def quadOf (cell : Nat) : Nat := 2 * (cell / 8) + cell % 4 / 2

/-- Packets whose headers stand in the command port's buffer of an engine, from a list of tokens of which `skip` are
parameter words of the packet before. -/
def headersIn : Nat → Nat → List Tok → Nat
  | _, _, [] => 0
  | 0, n, _ => n
  | f + 1, n, t :: r =>
    let k := if t.stop ≠ 0 then 0 else t.data.toNat / 16 % 16
    headersIn f (n + 1) (r.drop k)

/-- Work that has reached an engine, with the packets that wait at its command port before a tile copy (R439). -/
def workWith (c : Ctx) (e acc : Nat) : List Work :=
  let g := engAt c e
  let l := bufFull c 0 (engKey e 0)
  let l := l.drop (if g.taken then g.nparam - g.got else 0)
  let n := headersIn l.length 0 l
  let m := (g.work.filter (fun x => x == .handler)).length - (if g.taken || g.busy then 1 else 0)
  g.work ++ List.replicate (n - m) .handler ++ [.tcpy acc]

/-- The newest tile copy, access `acc`, stands in the work of an engine of the executing context. -/
def queueTile (e acc : Nat) (t : State) : State :=
  modCtx t t.cur.isl t.cur.slot (fun c => { c with eng := c.eng.set {} e { c.eng.get {} e with work := workWith c e acc } })

/-- TCPYIN and TCPYOUT: the range is checked at the firing and the copy joins the engine's work. -/
def fireTcpy (out : Bool) (w : OpA) (s : State) : Out :=
  let ins := insOf s
  let c := curCtx s
  let a := inpVal ins.a
  let nr := bitsOf w.imm.toNat 14 10 + 1
  let e := quadOf s.cur.cell
  let acc : Except (Nat × Nat × Nat) Acc :=
    if a % 32 ≠ 0 then .error (0x9010, a, 0)
    else if winLen c s.cur.cell < a + 32 * nr then .error (0x9011, a, 0)
    else .ok (newAcc s (.tile out (w.imm.toNat % 16) (bitsOf w.imm.toNat 9 4) nr) .cell
      (winKey s s.cur.isl s.cur.slot c s.cur.cell a) a (32 * nr))
  fireMem s w ins [(.a, ins.a)] {} acc (queueTile e s.nextAcc)

def execTcpyin (w : OpA) (s : State) : Out := fireTcpy false w s
def execTcpyout (w : OpA) (s : State) : Out := fireTcpy true w s

/-! ## Privileged forms (R432 to R434) -/

/-- Words of an HCALL's argument block that are read in one go: 64 bytes at a VA of the caller's space, or the fault. -/
def hcallBlock (s : State) (isl : Nat) (c : Ctx) (va : Nat) : Except (Nat × Nat × Nat) (List Word) × State :=
  if va % 64 ≠ 0 then (.error (0x9010, va, 0), s)
  else if 2 ^ 53 < va + 64 then (.error (0x9001, va, xDetail 0 .read false), s)
  else match translateCell s isl c va .read with
    | (.fault code d, s) => (.error (code, va, d), s)
    | (.ok a host, s) =>
      match placeKey s (spaceOf s isl c) host a 16 false with
      | (.ok k, s) => (.ok (rdWords s k 16), s)
      | (.error code, s) => (.error (code, va, 0), s)

/-- An image of service firmware that is not active yet (R122): SI3 while a new image is being started or is handed
over to. -/
def notActive (s : State) (isl : Nat) : Bool :=
  isl == 259 && (s.fw.lr == .starting || s.fw.lr == .serialising || s.fw.lr == .handover)

/-- Calls that have fired and have not joined the holm's queue. -/
def callsOnWay (s : State) : Nat :=
  (s.accs.filter (fun a => a.kind == .hcall && (a.phase == .check || a.phase == .issued || a.phase == .held))).length

/-- HCALL (R434): the call goes to the holm, whose queue holds 64; from an image that is not active it returns NOTACTIVE. -/
def execHcall (w : OpA) (s : State) : Out :=
  let ins := insOf s
  let ops := [(Pos.a, ins.a), (Pos.c, ins.c)]
  let c := curCtx s
  let va := (inpVal ins.a + inpVal ins.c % 2 ^ 21 * 2 ^ 32)
  let acc := newAcc s .hcall .sys (w.imm.toNat % 256) va 1
  if !performs w ins ops then fireMem s w ins ops {} (.ok acc) id
  else if levelOf s s.cur.isl c = 0 then fireMem s w ins ops {} (.error (0x9012, 0, 0)) id
  else if notActive s s.cur.isl then fireMem s w ins ops {} (.ok { acc with phase := .performed, res := [6] }) id
  else if 64 ≤ s.fw.calls.length + callsOnWay s then .next s
  else fireMem s w ins ops {} (.ok acc) id

/-- A call whose argument block has been read joins the holm's queue (R434). -/
def joinCalls (s : State) (a : Acc) (ws : List Word) : State :=
  { s with
    accs := s.accs.map (fun b => if b.id = a.id then { a with phase := .waiting } else b)
    fw := { s.fw with
      calls := s.fw.calls ++ [{ ticket := s.fw.nextTicket, call := a.addr, space := spaceOf s a.site.isl (ctxAt s a.site.isl a.site.slot),
                                args := ws, acc := some a.id }]
      nextTicket := (s.fw.nextTicket + 1) % 1024 } }

/-- The newest firing answers a holm call: the status waits in the check stage (R273). -/
def deferRet (s : State) (ticket status : Nat) : State :=
  { s with chks := s.chks.map (fun r => if r.tag + 1 = s.nextChk then { r with ret := some (ticket, status) } else r) }

/-- HRET (R434): level H; delivers A_u as the status of the open call with the ticket, if there is one. -/
def execHret (w : OpA) (s : State) : Out :=
  let ins := insOf s
  if mayFire s && performs w ins [(.a, ins.a)] && levelOf s s.cur.isl (curCtx s) != 2 then .next (raiseHere s 0x9012 0 0 0)
  else
    operateThen s w.t0 w.t1 (oneStream ins (fun _ => { outs := toBoth (.sc 0) }))
      (fun t => match ins.a with | .data v => deferRet t (w.imm.toNat % 1024) v | _ => t)

/-- XLATE's outputs (R433): address words on T0 and the result word on T1. -/
def xlateOuts (s : State) (sp va : Nat) : List (Bool × OutV) :=
  match (walk s sp va).1 with
  | .fault code lv => [(false, .sc 0), (false, .sc 0), (true, .sc (1 + 2 * lv + 2 ^ 16 * code))]
  | .leaf e lv =>
    let a := leafAddr e lv va
    [(false, .sc (a % 2 ^ 32)), (false, .sc (a / 2 ^ 32)),
     (true, .sc (2 * lv + 8 * flagNat (pteHost e) + 16 * flagNat (pteRd e) + 32 * flagNat (pteWr e) + 64 * flagNat (pteX e)))]

/-- XLATE (R433): walks the tables of the named space; raises no translation fault and fills no cache. -/
def execXlate (w : OpA) (s : State) : Out :=
  let ins := insOf s
  let ops := [(Pos.a, ins.a), (Pos.c, ins.c)]
  if mayFire s && performs w ins ops && levelOf s s.cur.isl (curCtx s) == 0 then .next (raiseHere s 0x9012 0 0 0)
  else
    let va := inpVal ins.a + inpVal ins.c % 2 ^ 21 * 2 ^ 32
    operateThen s w.t0 w.t1 (memPlan w ins ops false { outs := xlateOuts s (w.imm.toNat % 32) va })
      (fun t => if performs w ins ops then (walk t (w.imm.toNat % 32) va).2 else t)

/-- RDLVL (R432): the level of the firing context. -/
def execRdlvl (w : OpA) (s : State) : Out :=
  operate s w.t0 w.t1 (oneStream (insOf s) (fun _ => { outs := toBoth (.sc (levelOf s s.cur.isl (curCtx s))) }))

/-! ## What a pending operation delivers -/

/-- Tokens that a pending operation sends. -/
def accOuts (a : Acc) : List (Bool × OutV) :=
  let w (i : Nat) : Nat := (a.res.getD i 0).toNat
  let w0 (a : Acc) : Nat := (a.val.getD 0 0).toNat
  match a.kind with
  | .load | .loadFull | .ctrRead =>
    (if a.vec then [(false, .vec (wordsNat a.res))] else a.res.map (fun x => (false, OutV.sc x.toNat))) ++ [(true, .sc 0)]
  | .store | .clear | .storeFull | .ctrAdd | .request | .tile _ _ _ _ => [(true, .sc 0)]
  | .waitGe => [(false, .sc (w 0)), (true, .sc 0)]
  | .gwait | .hcall => [(false, .sc (w 0)), (true, .sc (w 0))]
  | .time => [(false, .sc (w 0)), (true, .sc (w 1))]
  | .group _ => [(false, .sc 0), (true, .sc 0)]
  | .fence _ | .trap =>
    let v : OutV := if a.vec then .vec (wordsNat a.val) else .sc ((a.val.getD 0 0).toNat)
    [(false, v), (true, v)]
  | .update => []
  | .late lv =>
    let v : OutV := if lv ≠ 0 then .stop lv else if a.vec then .beats [wordsNat a.val] else .sc (w0 a)
    if a.t0 = .none then [(true, v)] else [(false, v)]
  | .emit lv => [(false, if lv = 0 then .sc 0 else .stop lv), (true, if lv = 0 then .sc 0 else .stop lv)]

/-- Format of what a load delivers (R412). -/
def accFmt (s : State) (a : Acc) : Nat :=
  match opaOf (((ctxAt s a.site.isl a.site.slot).block.insts.getD (8 * a.site.cell + a.site.k) 0).toNat) with
  | some w => w.imm.toNat % 32
  | none => 0

/-- The results of an operation, a scalar that a load delivers in its format: sign or zeros above its value (R293). -/
def resultOuts (s : State) (a : Acc) : List (Bool × OutV) :=
  match a.kind with
  | .load | .loadFull =>
    (accOuts a).map (fun o => match o with | (false, .sc v) => (false, .sc (fillScalar (accFmt s a) v)) | o => o)
  | _ => accOuts a

end Sys2Proof.Machine
end

