-- ==== Sys2Proof/Machine/CtxOps.lean ====
section
/-! DEFINITION. What becomes of contexts (R168 to R181, R190 to R194): regions, the slots that a partition may use,
frame entry, activation and halting, discarding, quiescence, and the loads that bring contexts in. -/
namespace Sys2Proof.Machine

/-! ## Regions (R140) -/

/-- Islands of a region in row-major order; columns wrap past 31 (R140). -/
def regionOf (h w orow ocol : Nat) : List Nat :=
  (List.range (h * w)).map (fun i => fabricIsl (orow + i / w) ((ocol + i % w) % 32))

def thRegion (th : Thread) : List Nat := regionOf th.h th.w th.orow th.ocol

def lentOf (s : State) (isl : Nat) : Nat := s.sched.lent.get 0 isl

/-- A working cell of the island is lost (R284). -/
def islLost (s : State) (isl : Nat) : Bool :=
  s.rel.cells.any (fun e => e.2.state == 2 && e.1 % 33 != 32
    && fabricIsl (e.1 % 1056 / 33 / 4) (8 * (e.1 / 1056) + e.1 % 33 / 4) == isl)

/-- The die of an island is there and not in core reset, and no cell of the island is lost. -/
def islUp (s : State) (isl : Nat) : Bool :=
  let d := s.pkg.dies.get {} (isl / 64)
  !d.absent && !d.inReset && !islLost s isl

/-- An island that a LEND has lent and whose LEND is not complete: the tenant may not place work there yet (R157, R158). -/
def lending (s : State) (isl : Nat) : Bool := s.sched.islOps.any (fun o => o.lend && o.applied && o.fresh.contains isl)

/-- A partition may run on an island now: the first two conditions of R149. -/
def mayRun (s : State) (p isl : Nat) : Bool :=
  islUp s isl && ((ownerOf s isl == p && lentOf s isl == 0)
    || (p != 0 && ownerOf s isl == 0 && lentOf s isl == p && !lending s isl))

/-- Context slots of an island that a partition may use (R150), lowest first; a partition-0 context takes 0 to 3 before
4 to 7 (R489). -/
def usable (s : State) (p isl : Nat) : List Nat :=
  if ownerOf s isl = 0 then
    if p = 0 then (if lentOf s isl = 0 then eight else [0, 1, 2, 3])
    else if lentOf s isl = p then [4, 5, 6, 7] else []
  else if ownerOf s isl = p then eight else []

def slotFree (s : State) (isl σ : Nat) : Bool := (ctxAt s isl σ).st == .free

/-! ## Spill queue state (R221, R472) -/

/-- The eight words of the state block that hold a queue's state, and FMTREC. -/
def spillWords (d : DWord × DWord) (q : SpillQ) : List Word :=
  let tags (i : Nat) := ((List.range 8).map (fun j => q.rtag.getD (8 * i + j) 0 % 16 * 2 ^ (4 * j))).sum
  [q.rhead, q.rtail, q.nr, q.reshead, tags 0, tags 1, tags 2, tags 3, spFmt d + 2 ^ 16].map (BitVec.ofNat 32)

def spillKey (d : DWord × DWord) : Nat := sbufBase + spAddr d

/-- The queue that a state block holds. -/
def spillRead (s : State) (d : DWord × DWord) : SpillQ :=
  let w (i : Nat) := (rdWord s (spillKey d + 4 * i)).toNat
  { rhead := w 0, rtail := w 1, nr := w 2, reshead := w 3, rtag := (List.range 32).map (fun i => w (4 + i / 8) / 2 ^ (4 * (i % 8)) % 16) }

/-- The fault of a state block at frame entry (R472): one outside the thread's windows
(R253), a malformed block, or entries of another format (R221). -/
def spillFault (s : State) (isl σ : Nat) (d : DWord × DWord) : Option Nat :=
  let w (i : Nat) := (rdWord s (spillKey d + 4 * i)).toNat
  if !spillMay s isl σ (spillKey d) 64 then some 0x9004
  else if (List.range 7).any (fun i => w (9 + i) != 0) || (spillRead s d).rtag.any (fun x => decide (7 < x)) || decide (32 < w 2)
      || decide (31 < w 3) || w 8 / 2 ^ 17 != 0 || decide (2 ^ bitsOf d.1.toNat 19 15 < (w 1 + 2 ^ 32 - w 0) % 2 ^ 32) then some 0x9014
  else if (w 8).testBit 16 ∧ w 8 % 2 ^ 16 ≠ spFmt d then some 0x9021
  else none

/-- The spill queues of the context in a slot are written to their state blocks; a block that the thread's windows no longer reach
stops the thread (R253). -/
def writeSpills (s : State) (isl σ : Nat) (c : Ctx) : Nat → State
  | 0 => s
  | n + 1 =>
    let s := writeSpills s isl σ c n
    let k := spillKey (descAt c n)
    if spillMay s isl σ k 64 then wrWords s k (spillWords (descAt c n) (spillAt c n))
    else match c.thread with
      | some t => threadFault s t { code := 0x9004, block := c.blkIdx, addr := k - sbufBase }
      | none => s

/-- The spill queues of a context are read from their state blocks. -/
def readSpills (s : State) (c : Ctx) : Nat → Ctx
  | 0 => c
  | n + 1 => setSpill (readSpills s c n) n (spillRead s (descAt c n))

/-- The first descriptor whose state block is at fault, with the fault code. -/
def spillClash (s : State) (isl σ : Nat) (c : Ctx) : Option (Nat × Nat) :=
  (List.range c.block.spills.length).findSome? (fun n => (spillFault s isl σ (descAt c n)).map (fun f => (n, f)))

/-! ## Frame entry (R171, R188, R251, R451) -/

/-- Operator state of a slot at frame entry: the trip count of CTR, the permits of PERMIT, the initial value of the
accumulators, and the stochastic-rounding generator (R188, R300, R377, R380); every other word is 0. -/
def entryWords (c : Ctx) (th : Thread) (n : Nat) : List (Nat × Word) :=
  let w := (c.block.insts.getD n 0).toNat
  if w = 0 then []
  else
    let fa := operandFmt c (n / 8) (n % 8) 0
    let first := match decodeOp w with
      | .ok (.ctr i) => (keepOf c (n / 8) (i.imm.toNat / 8 % 8)).toNat
      | .ok (.permit i) => i.imm.toNat % 16
      | .ok (.accmin i) => accInit 1 i.ty fa
      | .ok (.accmax i) => accInit 2 i.ty fa
      | _ => 0
    [(0, BitVec.ofNat 32 first), (13, BitVec.ofNat 32 (srSeed c.block.seed.toNat th.x th.y th.z n))]

def entryAll (c : Ctx) (th : Thread) : Nat → Ctx
  | 0 => c
  | n + 1 => setOpWords (entryAll c th n) n (entryWords c th n)

/-- Initial keeps of the cells that a block has records for. -/
def entryKeeps : List CellCfg → Tab Word
  | [] => []
  | r :: t => (r.keeps.zipIdx).foldl (fun k e => k.set 0 (8 * r.cell + e.2) e.1) (entryKeeps t)

/-- Initial scale half of the cells of a block (R170). -/
def entryScales : List CellCfg → Tab Word
  | [] => []
  | r :: t => (r.scales.zipIdx).foldl (fun k e => k.set 0 (8 * r.cell + e.2) e.1) (entryScales t)

/-- A context as it enters its frame: keeps, permits and operator state afresh, engines with MSK full and no weights. -/
def enterCtx (s : State) (c : Ctx) (th : Thread) : Ctx :=
  let c := { c with keeps := entryKeeps c.block.cells, opst := [], bufs := [], sdeps := [], eng := [], spills := [], early := [],
                    hist := [], begun := false }
  readSpills s (entryAll c th 128) c.block.spills.length

/-! ## Activation and halting (R180, R181, R182) -/

def activateCtx (s : State) (isl σ : Nat) : State :=
  let c := ctxAt s isl σ
  setCtx s isl σ { c with st := .active, arb := [], occ := [], windows := [], since := s.cycle, lastUse := s.cycle }

/-- A context halts: its cells have finished their firings (R180), and its spill queues' state is written (R221). -/
def haltCtx (s : State) (isl σ : Nat) : State :=
  let s := passCtxAll s isl σ
  let c := ctxAt s isl σ
  if c.st = .active then setCtx (writeSpills s isl σ c c.block.spills.length) isl σ { c with st := .halted, lastUse := s.cycle } else s

def activateAll (s : State) : List (Nat × Nat) → State
  | [] => s
  | (i, σ) :: t => activateAll (activateCtx s i σ) t

def haltAll (s : State) : List (Nat × Nat) → State
  | [] => s
  | (i, σ) :: t => haltAll (haltCtx s i σ) t

/-- A cell of the island has a failure that has not been handled, and is not lost: an order to halt or to switch takes effect
when its replay or migration has ended (R280). -/
def islFailing (s : State) (isl : Nat) : Bool :=
  s.rel.fails.any (fun f => f.isl == isl && (s.rel.cells.get {} (cellIdx f.isl f.cell)).state != 2)

/-- A cell of the islands of a thread's executing frame is to be replayed or migrated. -/
def replaying (s : State) (th : Thread) : Bool := th.slots.any (fun x => islFailing s x.1)

/-- The thread's islands halt, and it enters a state. -/
def haltThread (s : State) (t : Nat) (st : ThSt) : State :=
  modThread (haltAll s (threadAt s t).slots) t (fun th => { th with st := st })

/-- The executing frame's contexts are loaded and not poisoned. -/
def frameReady (s : State) (th : Thread) : Bool :=
  th.slots != [] && th.slots.all (fun x => let c := ctxAt s x.1 x.2; c.st == .halted || c.st == .armed || c.st == .active)

/-- No context is active on the thread's islands but its own. -/
def islandsClear (s : State) (th : Thread) : Bool :=
  (thRegion th).all (fun i => match activeSlot s i with | none => true | some σ => th.slots.contains (i, σ))

/-- The thread runs: its contexts become active, or it waits in RUNNING for a load of its frame. -/
def runThread (s : State) (t : Nat) : State :=
  let th := threadAt s t
  modThread (if frameReady s th then activateAll s th.slots else s) t (fun th => { th with st := .running })

/-! ## Discarding -/

/-- Leg B comes to rest: stripes that the consumer has accepted leave the queue, as its acknowledgement would have them
(R39, R40); what it has not accepted stays in the queue. -/
def settleLeg (s : State) (n : Nat) : State :=
  let l := legAt s n
  if !l.legB then s
  else
    let k := (l.unacked.filter (fun x => decide ((l.expect + 65535 - x.seq) % 65536 < 32768))).length
    let s := modSQueue s l.thread l.queue (fun q => { q with held := q.held.drop k, head := (q.head + min k q.held.length) % 2 ^ q.log2 })
    purgeWires (setLeg s n { l with unacked := [], ackIn := [], nextSeq := l.expect, lastAck := (l.expect + 65535) % 65536, owes := false }) n
      (fun _ => false)

/-- A leg and its stripes go. -/
def dropLeg (s : State) (n : Nat) : State :=
  let s := settleLeg s n
  purgeWires { s with straits := { s.straits with legs := s.straits.legs.del n } } n (fun _ => false)

/-- The legs of each circuit of a context. -/
def dropLegs (s : State) : Tab Nat → State
  | [] => s
  | (_, n) :: t => dropLegs (dropLeg (if (legAt s n).direct then s else dropLeg s (n + 1)) n) t

/-- The legs B of a context's circuits come to rest: another frame may drain their queues (R38). -/
def settleLegs (s : State) (c : Ctx) : State := c.legs.foldl (fun s e => settleLeg s (e.2 + 1)) s

/-- A context is discarded: its slot is FREE, its circuits, slot-table grants, tokens and operations go. -/
def discardCtx (s : State) (isl σ : Nat) : State :=
  let c := ctxAt s isl σ
  let s := if c.st = .active ∨ c.st = .halted then writeSpills s isl σ c c.block.spills.length else s
  let s := dropGrants (dropLegs s c.legs) isl σ
  { s with
    ctxs := s.ctxs.set {} (ctxKey isl σ) {}
    flights := s.flights.filter (fun f => !(f.isl == isl && f.slot == σ)),
    chks := s.chks.filter (fun r => !(r.isl == isl && r.slot == σ)),
    accs := s.accs.filter (fun a => !(a.site.isl == isl && a.site.slot == σ)) }

def discardAll (s : State) : List (Nat × Nat) → State
  | [] => s
  | (i, σ) :: t => discardAll (discardCtx s i σ) t

/-- Every (island, slot) whose context satisfies a condition. -/
def slotsWhere (s : State) (p : Nat → Nat → Ctx → Bool) : List (Nat × Nat) :=
  (s.ctxs.filter (fun e => p (e.1 / 8) (e.1 % 8) e.2)).map (fun e => (e.1 / 8, e.1 % 8))

/-- Loads of a thread's frames end; their slots are discarded. -/
def cancelLoads (s : State) (p : Load → Bool) : List (Nat × Load) → State
  | [] => s
  | (n, l) :: t =>
    let s := cancelLoads s p t
    if p l then { discardAll s l.slots with sched := { (discardAll s l.slots).sched with loads := (discardAll s l.slots).sched.loads.del n } }
    else s

def modLoad (s : State) (n : Nat) (f : Load → Load) : State :=
  { s with sched := { s.sched with loads := s.sched.loads.map (fun e => if e.1 = n then (n, f e.2) else e) } }

/-- A load that loses slots 4 to 7 on some islands starts again: it gives up all its slots, and its frame is fetched and checked
afresh when it has others (R320). -/
def trimLoad (s : State) (isls : List Nat) (n : Nat) (l : Load) : State :=
  if l.slots.any (fun x => isls.contains x.1 && decide (4 ≤ x.2)) then
    modLoad (discardAll s l.slots) n (fun l => { l with slots := [] })
  else s

/-- Units of the memory-port dies that work for a thread let go of it (R264). -/
def releaseUnits (s : State) (t : Nat) : State :=
  { s with
    gens := s.gens.filter (fun g => g.2.thread ≠ some t),
    sports := s.sports.filter (fun p => p.2.thread ≠ some t),
    ces := (s.ces.map (fun e => (e.1, { e.2 with pendingQ := e.2.pendingQ.filter (fun r => r.owner != t),
                                                  run := e.2.run.filter (fun r => r.owner != t),
                                                  aside := e.2.aside.filter (fun r => r.owner != t) }))).filter (fun e => e.2 ≠ {}) }

/-- Every context and load of a thread goes. -/
def discardThread (s : State) (t : Nat) : State :=
  let s := cancelLoads s (fun l => l.thread == some t) s.sched.loads
  let s := discardAll s (slotsWhere s (fun i _ c => decide (i < 256) && c.thread == some t))
  { releaseUnits s t with accs := (releaseUnits s t).accs.filter (fun a => a.thread != t || decide (256 ≤ a.site.isl)) }

/-- The tiles that a thread named last are none of a later thread with its number (R446). -/
def freeTiles (s : State) (t : Nat) : State :=
  { s with physT := (s.physT.map (fun e => if e.2.2.2 = t + 1 then (e.1, (e.2.1, e.2.2.1, 0)) else e)).filter (fun e => e.2 ≠ (0, false, 0)) }

/-! ## Loads (R153, R177, R201, R204) -/

/-- Channel buffers (R175). -/
def isChannel (p : Nat) : Bool := decide (p < 1024) || (decide (2048 ≤ p) && decide (p < 3072))

/-- Channel buffers of an island that hold or reserve an entry. -/
def usedPlaces (s : State) (isl : Nat) : List Nat :=
  ((eight.flatMap (fun σ => (ctxAt s isl σ).bufs.map (·.1)))
    ++ (s.flights.filter (fun f => f.isl == isl)).map (fun f => f.place)
    ++ s.accs.flatMap (fun a => if a.site.isl = isl then
        (targetPlace s isl a.site.slot a.site.cell a.t0).toList ++ (targetPlace s isl a.site.slot a.site.cell a.t1).toList else [])).filter isChannel

/-- D + 1 ≤ 8 for every buffer of the island (R177); slots 0 to 3 of an island of partition 0 are always counted. -/
def loadFits (s : State) (isl σ : Nat) : Bool :=
  counted s isl σ || (usedPlaces s isl).all (fun p => decide (demand s isl σ p 0 + 1 ≤ 8))

/-- A load of a frame is ordered: it waits for its slots until the loader takes them up. -/
def orderLoad (s : State) (l : Load) : State :=
  { s with sched := { s.sched with loads := s.sched.loads.put s.sched.nextLoad l, nextLoad := s.sched.nextLoad + 1 } }

/-- A load for a thread of frame `f` at its region. -/
def threadLoad (s : State) (t f : Nat) (exec restore : Bool) : State :=
  let th := threadAt s t
  orderLoad s { thread := some t, part := th.part, frame := f, h := th.h, w := th.w, orow := th.orow, ocol := th.ocol,
                slots := [], packet := none, since := s.dtime, cls := th.cls, exec := exec, restore := restore }

/-! ## Prediction and fetch-ahead (R193, R194) -/

/-- Index into the pattern tables: die of the origin, then identifier, HIST and thread number. -/
def patIdx (th : Thread) (t fid hist : Nat) : Nat := 4096 * (th.ocol / 8) + ((fid ^^^ hist ^^^ t) % 4096)

/-- The predictor and HIST after a commit through an exit. -/
def learn (s : State) (t x : Nat) : State :=
  let th := threadAt s t
  let k := patIdx th t th.frameId th.hist
  let (e, n) := s.sched.patterns.get (0, 0) k
  let v := if e = x then (e, min 3 (n + 1)) else if 0 < n then (e, n - 1) else (x, 1)
  modThread { s with sched := { s.sched with patterns := s.sched.patterns.set (0, 0) k v } } t
    (fun th => { th with hist := (th.hist * 8 + x) % 2 ^ 12 })

/-- Points after the current one (R134). -/
def pointsLeft (th : Thread) : Nat := th.ex * th.ey * th.ez - 1 - (th.x + th.ex * (th.y + th.ey * th.z))

/-- A context of a frame of a thread, if one is loaded: its exits, enabled exits and identifier. -/
def frameInfo (s : State) (t f : Nat) : Option Ctx :=
  (s.ctxs.find? (fun e => e.2.thread == some t && e.2.frame == f && decide (e.1 < 2048)
    && (e.2.st == .armed || e.2.st == .active || e.2.st == .halted))).map (·.2)

/-- The predicted chain from frame `f`: frames in order, without repeats; `x0` counts the x0 exits taken on the way. It
ends where a frame is not loaded or nothing is predicted, where `more` frames have been added, or where the walk comes to a frame
with a history that it has `seen`: from there it names no further frame. -/
def chainFrom (s : State) (t : Nat) (th : Thread) (more : Nat) : Nat → List (Nat × Nat) → Nat → Nat → Nat → List Nat → List Nat
  | 0, _, _, _, _, l => l
  | n + 1, seen, f, hist, x0, l =>
    match frameInfo s t f with
    | none => l
    | some c =>
      let e := (s.sched.patterns.get (0, 0) (patIdx th t c.frameId hist)).1
      if more < l.length ∨ seen.contains (f, hist) ∨ !c.exen.testBit e ∨ (e = 0 ∧ pointsLeft th ≤ x0) then l
      else
        let g := if e = 0 then th.entry else c.exits.getD e 0
        chainFrom s t th more n ((f, hist) :: seen) g ((hist * 8 + e) % 2 ^ 12) (if e = 0 then x0 + 1 else x0)
          (if l.contains g then l else l ++ [g])

/-- Steps of a walk along the chain: a frame in each of eight slots, with each history, comes once. -/
def chainSteps : Nat := 8 * 2 ^ 12

/-- The executing frame and its predicted successors, at most NSLOT of them. -/
def chainOf (s : State) (t : Nat) : List Nat :=
  let th := threadAt s t
  (chainFrom s t th th.nslot chainSteps [] th.frame th.hist 0 [th.frame]).take (th.nslot + 1)

/-- A frame of a thread is loaded or being loaded. -/
def frameKnown (s : State) (t f : Nat) : Bool :=
  s.ctxs.any (fun e => e.2.thread == some t && e.2.frame == f && e.2.st != .free)
    || s.sched.loads.any (fun l => l.2.thread == some t && l.2.frame == f)

/-- Frames of a thread that are loaded or being loaded, but for its executing one. -/
def framesAhead (s : State) (t : Nat) : List Nat :=
  ((s.ctxs.filter (fun e => e.2.thread == some t && e.2.st != .free)).map (fun e => e.2.frame)
    ++ (s.sched.loads.filter (fun l => l.2.thread == some t)).map (fun l => l.2.frame)).eraseDups.filter (· != (threadAt s t).frame)

/-- The next frame of the predicted chain that is not loaded is ordered (R194). Frames that stand loaded off a chain which has
changed since count among the NSLOT too: none is ordered beyond that number. -/
def fetchAhead (s : State) (t : Nat) : State :=
  if (threadAt s t).nslot ≤ (framesAhead s t).length then s
  else match (chainOf s t).find? (fun f => !frameKnown s t f) with
    | some f => threadLoad s t f false false
    | none => s

/-- Contexts and loads of a thread that are not on its chain are discarded, and what they hold is forgotten (R192). -/
def prune (s : State) (t : Nat) : State :=
  let keep := chainOf s t
  let s := cancelLoads s (fun l => l.thread == some t && !l.exec && !keep.contains l.frame) s.sched.loads
  discardAll s (slotsWhere s (fun i _ c => decide (i < 256) && c.thread == some t && !keep.contains c.frame))

/-! ## Entering a frame (R153, R192, R195) -/

/-- The slots on a region that hold a thread's, or an unbound, context of a frame in one of the given states. -/
def findFrame (s : State) (thread : Option Nat) (part frame h w orow ocol : Nat) (ok : SlotSt → Bool) : Option (List (Nat × Nat)) :=
  let l := (regionOf h w orow ocol).zipIdx.map (fun x =>
    (eight.find? (fun σ =>
      let c := ctxAt s x.1 σ
      ok c.st && c.thread == thread && c.part == part && c.frame == frame && c.h == h && c.w == w && c.blkIdx == x.2)).map
      (fun σ => (x.1, σ)))
  if l.all (·.isSome) then some (l.filterMap id) else none

def enterAll (s : State) (t : Nat) : List (Nat × Nat) → State
  | [] => s
  | (i, σ) :: r =>
    let c := enterCtx s (ctxAt s i σ) (threadAt s t)
    enterAll (setCtx s i σ { c with thread := some t, st := .halted }) t r

/-- The fault held by a frame's contexts (R195), or the spill queue whose recorded format differs (R221). -/
def entryFault (s : State) : List (Nat × Nat) → Option (HeldFault × Nat)
  | [] => none
  | (i, σ) :: r =>
    let c := ctxAt s i σ
    match c.held with
    | some f => some (f, c.blkIdx)
    | none =>
      match spillClash s i σ c with
      | some (n, f) => some ({ code := f, detail := if f = 0x9021 then c.blkIdx + 512 * n + 2 ^ 19 * 6 else 0,
                               addr := if f = 0x9004 then spAddr (descAt c n) else 0 }, c.blkIdx)
      | none => entryFault s r

/-- Contexts of a frame with a fault that is held for its entry (R195). -/
def poisonAll (s : State) (f : HeldFault) : List (Nat × Nat) → State
  | [] => s
  | (i, σ) :: r => poisonAll (modCtx s i σ (fun c => { c with st := .poisoned, held := some f })) f r

/-- Preloaded contexts without a thread become the thread's, with their circuits; their strait queues are bound now. -/
def bindPreloaded (s : State) (t : Nat) (slots : List (Nat × Nat)) : State :=
  if !slots.any (fun x => (ctxAt s x.1 x.2).thread.isNone && (ctxAt s x.1 x.2).held.isNone) then s
  else
    let s := slots.foldl (fun s x => modCtx s x.1 x.2 (fun c => { c with thread := some t, cls := (threadAt s t).cls })) s
    match bindFrame s (some t) slots with
    | .ok s => s
    | .error (code, d) => poisonAll s { code := code, detail := d } slots

/-- Each leg A of a frame may fill what its queue has free as the frame is entered: an earlier frame may have filled it (R191). -/
def renewLegs (s : State) : Tab Nat → State
  | [] => s
  | (_, n) :: r =>
    let l := legAt s n
    renewLegs (if l.direct ∨ l.legB then s else setLeg s n { l with credit := queueRoom s l.thread l.queue }) r

def renewAll (s : State) : List (Nat × Nat) → State
  | [] => s
  | (i, σ) :: r => renewAll (renewLegs s (ctxAt s i σ).legs) r

/-- A thread enters the frame whose contexts are in the slots: its fault is raised before any operator fires (R195), or
the contexts are set afresh and become active if the thread runs. -/
def enterFrame (s : State) (t : Nat) (slots : List (Nat × Nat)) (run : Bool) : State :=
  let fid := match slots with | (i, σ) :: _ => (ctxAt s i σ).frameId | [] => 0
  let s := modThread (bindPreloaded s t slots) t (fun th => { th with slots := slots, frameId := fid, exit := none, blocked := [] })
  let s := { s with rel := { s.rel with touched := s.rel.touched.filter (fun e => e.thread != t) } }
  match entryFault s slots with
  | some (f, b) =>
    let s := slots.foldl (fun s x => modCtx s x.1 x.2 (fun c => { c with thread := some t, st := .poisoned })) s
    threadFault s t { code := f.code, atEntry := true, block := b, addr := f.addr, detail1 := f.detail }
  | none =>
    let s := renewAll (enterAll s t slots) slots
    if run then activateAll s slots else s

/-! ## Quiescence (R191) -/

def genIdle (g : Gen) : Bool := g.run.isNone && g.specQ == [] && g.idxQ == [] && g.dataQ == []

/-- No token of the context, no operation and no engine work of it is left. -/
def ctxQuiet (s : State) (x : Nat × Nat) : Bool :=
  let c := ctxAt s x.1 x.2
  c.bufs == [] && !s.flights.any (fun f => f.isl == x.1 && f.slot == x.2)
    && !s.chks.any (fun r => r.isl == x.1 && r.slot == x.2)
    && !s.accs.any (fun a => a.site.isl == x.1 && a.site.slot == x.2)
    && c.eng.all (fun e => !e.2.busy && !e.2.taken && e.2.work == [])
    && c.legs.all (fun l => (legAt s l.2).waiting == [] && (legAt s l.2).unacked == [])

/-- The frame of a thread is quiescent. -/
def quiescent (s : State) (t : Nat) : Bool :=
  let th := threadAt s t
  th.slots != [] && th.slots.all (ctxQuiet s) && !s.accs.any (fun a => a.thread == t && decide (a.site.isl < 256))
    && s.gens.all (fun g => g.2.thread != some t || genIdle g.2)
    && s.sports.all (fun p => p.2.thread != some t || p.2.inQ == [])
    && s.ces.all (fun e => (e.2.pendingQ ++ e.2.run.toList ++ e.2.aside).all (fun r => r.owner != t)
        && e.2.gather.all (fun g => !th.slots.contains (g.1 / 4096, g.1 / 512 % 8)))

end Sys2Proof.Machine
end

