-- ==== Sys2Proof/Machine/LinkOps.lean ====
section
/-! DEFINITION. The command link: KCP frames, reassembly, sessions and kicks (R49 to R56), and the PCIe endpoint: doorbells,
link, function-level resets, host requests without completion, bindings (R57 to R63). -/
namespace Sys2Proof.Machine

/-! ## The link -/

/-- The command link is enabled: the device has booted, or is in restricted mode (R112, R120). -/
def linkEnabled (s : State) : Bool :=
  match s.pkg.boot with
  | .booted | .restricted _ _ => true
  | _ => false

def restrictedMode (s : State) : Bool :=
  match s.pkg.boot with
  | .restricted _ _ => true
  | _ => false

def execCmdLinkChange (port : Nat) (up : Bool) (s : State) : Out :=
  if !linkEnabled s then .next s
  else if port = 0 then
    .next (if s.link.up0 = up then s else { s with link := { s.link with up0 := up, since0 := s.dtime } })
  else if port = 1 then
    .next (if s.link.up1 = up then s else { s with link := { s.link with up1 := up } })
  else .next s

/-- Event notices change port (R49). -/
def execNotePortSwitch (s : State) : Out :=
  if s.link.notePort = 0 ∧ !s.link.up0 ∧ s.link.since0 + 10 * msec ≤ s.dtime then
    .next { s with link := { s.link with notePort := 1 } }
  else if s.link.notePort ≠ 0 ∧ s.link.up0 ∧ s.link.since0 + 1000 * msec ≤ s.dtime then
    .next { s with link := { s.link with notePort := 0 } }
  else .next s

/-! ## Frames and messages (R50, R51) -/

def hasSess (s : State) (n : Nat) : Bool := s.link.sessions.any (fun e => e.1 == n)

/-- A session that a message may use as an open one. -/
def openSess (s : State) (n : Nat) : Bool := hasSess s n && (sessAt s n).openS

/-- The type is allowed to the message's session (R52). KICK's queue is checked when the kick is taken. -/
def typeAllowed (s : State) (typ sess : Nat) : Bool :=
  match typ with
  | 0x01 => sess == 0
  | 0x03 => hasSess s sess && !(sessAt s sess).openS
  | 0x05 => openSess s sess
  | 0x10 => openSess s sess
  | 0x11 | 0x12 | 0x30 => openSess s sess && (sessAt s sess).level == .s
  | 0x40 => sess == 0 || hasSess s sess
  | _ => false

/-- A whole message has arrived: it is kept for the unit that serves it, or answered by NAK (R52, R120). -/
def acceptMsg (s : State) (m : KcpMsg) : State :=
  if restrictedMode s ∧ ¬ (m.typ = 0x40 ∧ m.sess = 0) then sendNak s m 5
  else if typeAllowed s m.typ m.sess then { s with link := { s.link with msgs := s.link.msgs ++ [m] } }
  else sendNak s m 1

/-- Payload of a message, fragments in FRAG order. -/
def partBytes (m : KcpMsg) : Nat → List Byte
  | 0 => []
  | n + 1 => partBytes m n ++ (match m.parts.find? (fun p => p.1 == n) with | some p => p.2 | none => [])

def msgPayload (m : KcpMsg) : List Byte := partBytes m m.frags

/-- An accepted frame joins its message (R50). FRAGS and TYPE of the first frame stand, the payload that comes last for a FRAG is the one
used, and frames outside a session count as one session, whichever port they come by (log entry 76). -/
def joinMsg (s : State) (f : KcpFrame) : State :=
  let old := s.link.partial_.filter (fun m => m.sess == f.sess && m.msgid == f.msgid && decide (s.dtime < m.since + 100 * msec))
  let rest := s.link.partial_.filter (fun m => !(m.sess == f.sess && m.msgid == f.msgid))
  let s1 := { s with link := { s.link with partial_ := rest } }
  match old with
  | m :: _ =>
    let m := { m with port := f.port, parts := m.parts.filter (fun p => p.1 != f.frag) ++ [(f.frag, f.payload)] }
    if m.parts.length = m.frags then acceptMsg s1 m
    else { s1 with link := { s1.link with partial_ := rest ++ [m] } }
  | [] =>
    let m : KcpMsg := { port := f.port, typ := f.typ, sess := f.sess, msgid := f.msgid, frags := f.frags,
                        parts := [(f.frag, f.payload)], since := s.dtime,
                        level := (sessAt s f.sess).level, part := (sessAt s f.sess).part }
    if f.frags = 1 then acceptMsg s1 m
    else if 4 ≤ (rest.filter (fun x => x.sess == f.sess)).length then s1
    else { s1 with link := { s1.link with partial_ := rest ++ [m] } }

/-- A frame whose TAG fails (R51): the session closes at the sixteenth failure within 1 s. -/
def badTag (s : State) (n : Nat) : State :=
  let x := sessAt s n
  let times := (x.badTags ++ [s.dtime]).filter (fun t => decide (s.dtime < t + 1000 * msec))
  let s := { s with link := { s.link with badTag := min 4095 (s.link.badTag + 1) } }
  if times.length < 16 then setSess s n { x with badTags := times }
  else
    let s := postDeviceEvent (dropSession s n) 0x8060 (leBytes 2 n ++ leBytes 1 x.slot)
    sendNote s (deviceEvent s 0x8060 (leBytes 2 n ++ leBytes 1 x.slot))

/-- Sequence acceptance (R51). -/
def seqOk (x : Session) (q : Nat) : Bool := decide (x.high < q) || (decide (x.high < q + 64) && !x.map.contains q)

def noteSeq (x : Session) (q now : Nat) : Session :=
  let h := max x.high q
  { x with high := h, map := (x.map ++ [q]).filter (fun r => decide (h < r + 64)), lastFrame := now }

def frameOk (f : KcpFrame) : Bool :=
  f.ethertype == 0x89D2 && decide (f.vlans ≤ 1) && f.ver == 1 && decide (f.len ≤ 1448) && decide (f.payload.length = f.len) && decide (1 ≤ f.frags) && decide (f.frags ≤ 64)
    && decide (f.frag < f.frags)

/-- A frame of the command link (R49 to R55). The one whose SEQ reaches 2^40 closes its session and is not served (log entry 76). -/
def execKcpFrameReceive (f : KcpFrame) (s : State) : Out :=
  if !linkEnabled s ∨ !(if f.port = 0 then s.link.up0 else s.link.up1) ∨ !frameOk f then .next s
  else if f.sess = 0 then .next (joinMsg s f)
  else if restrictedMode s then
    .next (sendKcp s f.port 0x7F 0 f.msgid (leBytes 1 5))
  else if !hasSess s f.sess then .next s
  else
    let x := sessAt s f.sess
    if f.tag ≠ Config.hmac x.key (kcpBytes f) then .next (badTag s f.sess)
    else if !seqOk x f.seq then .next { s with link := { s.link with replay := min 4095 (s.link.replay + 1) } }
    else if 2 ^ 40 ≤ f.seq then .next (dropSession s f.sess)
    else .next (joinMsg (setSess s f.sess (noteSeq x f.seq s.dtime)) f)

def execKcpReassemblyTimeout (sess msgid : Nat) (s : State) : Out :=
  .next { s with link := { s.link with partial_ := s.link.partial_.filter (fun m =>
    !(m.sess == sess && m.msgid == msgid && decide (m.since + 100 * msec ≤ s.dtime))) } }

/-! ## Taking messages -/

/-- Requests that pause with intake keep their order among themselves (R127). -/
def intakeTypes : List Nat := [0x11, 0x12, 0x30]

/-- The oldest message of a type, if it is that one's turn, and the state without it. In SAFE the holm serves requests
itself (R132). -/
def takeMsg (s : State) (typ : Nat) : Option (KcpMsg × State) :=
  let cand := if intakeTypes.contains typ then s.link.msgs.find? (fun m => intakeTypes.contains m.typ)
    else s.link.msgs.find? (fun m => m.typ == typ)
  match cand with
  | some m =>
    if m.typ = typ ∧ !(intakeTypes.contains typ && s.fw.paused && s.fw.lr != .safe) then
      some (m, { s with link := { s.link with msgs := s.link.msgs.erase m } })
    else none
  | none => none

def takeBytes (l : List Byte) (i n : Nat) : List Byte := (l.drop i).take n

/-! ## Sessions (R54, R55) -/

/-- The first number from `n` on, within `k` tries, that no session uses. -/
def freeSess (s : State) : Nat → Nat → Nat
  | 0, n => n
  | k + 1, n => if hasSess s n then freeSess s k (if 0xFFFE ≤ n then 1 else n + 1) else n

/-- HELLO: steps 1 and 2 of R54. A key slot number of 8 or more, of which the spec does not speak, is answered as an empty slot,
with NAK 3 (log entry 70). The session number and the device nonce are free values; what ML-KEM gives depends on
device randomness. -/
def execHello (s : State) : Out :=
  match takeMsg s 0x01 with
  | none => .next s
  | some (m, s) =>
    let b := msgPayload m
    if b.length ≠ 1217 then .next (sendNak s m 1)
    else
      let slot := leNat (takeBytes b 1216 1)
      match (if slot < 8 then s.link.keys.get none slot else none) with
      | none => .next (sendNak s m 3)
      | some key =>
        if 8 ≤ s.link.sessions.length then .next (sendNak s m 3)
        else
          let n := freeSess s 9 ((Config.freeWord s.freeCount).toNat % 0xFFFE + 1)
          let nonce := (Config.freeBytes (s.freeCount + 1)).take 32
          let kem := Config.kemEncaps (takeBytes b 32 1184) (s.freeCount + 2)
          let body := leBytes 2 n ++ nonce ++ kem.2
          let th := Config.sha256 (b ++ body)
          let k := Config.hmac key.key (kem.1 ++ takeBytes b 0 32 ++ nonce ++ th)
          let x : Session := { slot := slot, level := key.level, part := key.part, key := k, th := th, hello := s.dtime }
          let s := setSess { s with freeCount := s.freeCount + 3 } n x
          .next (sendKcp s m.port 0x02 0 m.msgid (body ++ Config.sign s.pkg.idKey th))

/-- CONFIRM: step 4 of R54. -/
def execConfirm (s : State) : Out :=
  match takeMsg s 0x03 with
  | none => .next s
  | some (m, s) =>
    let x := sessAt s m.sess
    if !hasSess s m.sess then .next s
    else if msgPayload m = Config.hmac x.key (1 :: x.th) then
      let s := setSess s m.sess { x with openS := true, openedAt := s.dtime, lastFrame := s.dtime }
      .next (sendKcp s m.port 0x04 m.sess m.msgid (Config.hmac x.key (2 :: x.th)))
    else .next (dropSession (sendNak s m 4) m.sess)

/-- CLOSE from the host, or from the device for a session that it names (R55): the spec does not say on which port the device's
CLOSE leaves, and it takes the port of the notices (log entry 70). -/
def execClose (dev : Option Nat) (s : State) : Out :=
  match dev with
  | some n => if openSess s n then .next (dropSession (sendKcp s s.link.notePort 0x05 n 0 []) n) else .next s
  | none =>
    match takeMsg s 0x05 with
    | none => .next s
    | some (m, s) => .next (dropSession s m.sess)

def execSessionOpenTimeout (sess : Nat) (s : State) : Out :=
  let x := sessAt s sess
  if hasSess s sess ∧ !x.openS ∧ x.hello + 1000 * msec ≤ s.dtime then .next (dropSession s sess) else .next s

def execSessionTimeout (sess : Nat) (s : State) : Out :=
  let x := sessAt s sess
  if openSess s sess ∧ (x.lastFrame + 60000 * msec ≤ s.dtime ∨ x.openedAt + 86400000 * msec ≤ s.dtime) then
    .next (dropSession s sess)
  else .next s

/-- KICK: a queue number and a producer index (R52, R53, R81). -/
def execKick (s : State) : Out :=
  match takeMsg s 0x10 with
  | none => .next s
  | some (m, s) =>
    let b := msgPayload m
    let q := leNat (takeBytes b 0 1)
    if b.length ≠ 5 ∨ 64 ≤ q ∨ (m.level ≠ .s ∧ (queueAt s q).part ≠ m.part) then .next (if hasSess s m.sess then sendNak s m 1 else s)
    else .next (applyKick s q (BitVec.ofNat 32 (leNat (takeBytes b 1 4))))

/-! ## PCIe -/

/-- A function takes accesses: no function-level reset of it is in progress, and a VF is enabled (R62, R63). -/
def fnLive (s : State) (fn : Nat) : Bool :=
  s.pcie.up && (if fn = 0 then !s.pcie.pfFlr else s.pcie.vfEn && !s.pcie.flr.get false fn)

def badDoorbell (s : State) : State := { s with pcie := { s.pcie with badDb := min 255 (s.pcie.badDb + 1) } }

/-- The queue whose doorbell page an offset lies in does not answer to a VF (R59). -/
def foreignVf (s : State) (fn off : Nat) : Bool := fn != 0 && fnOf s (queueAt s (off / 4096)).part != some fn

/-- KICK messages that have been accepted reach the front end before a doorbell that arrives after them (R53). -/
def takeKicks : Nat → State → State
  | 0, s => s
  | n + 1, s =>
    match execKick s with
    | .next s => takeKicks n s
    | _ => s

/-- A write into the doorbell pages of BAR0 (R59). -/
def execDoorbellWrite (fn off size : Nat) (v : Word) (s : State) : Out :=
  if 16 < fn ∨ 64 * 4096 ≤ off ∨ !fnLive s fn then .next s
  else
    let s := takeKicks (s.link.msgs.filter (fun m => m.typ == 0x10)).length s
    let q := off / 4096
    if size ≠ 4 ∨ off % 4096 ≠ 0 ∨ foreignVf s fn off then .next (badDoorbell s)
    else .next (applyKick s q v)

/-- Rates and widths at which the link trains (R57, R60). -/
def trainedRate (rate : Nat) : Bool := decide (1 ≤ rate) && decide (rate ≤ 6)
def trainedWidth (width : Nat) : Bool := [1, 2, 4, 8, 16].contains width

/-- The PCIe link trains at a rate and a width, or goes down. -/
def execPcieLinkChange (up : Bool) (rate width : Nat) (s : State) : Out :=
  match s.pkg.boot with
  | .booted =>
    if !up then .next { s with pcie := { s.pcie with up := false, rate := 0, width := 0 } }
    else if trainedRate rate && trainedWidth width then .next { s with pcie := { s.pcie with up := true, rate := rate, width := width } }
    else .next s
  | _ => .next s

/-- The mask bits with every vector of a function masked (R62, R63). -/
def maskAll (s : State) (fn : Nat) : Tab Bool := (List.range (vectorsOf fn)).foldl (fun t v => t.set false (64 * fn + v) true) s.pcie.masked

/-- A function-level reset of a VF begins (R62). -/
def vfReset (s : State) (vf : Nat) : State :=
  { s with pcie := { s.pcie with flr := s.pcie.flr.set false vf true, masked := maskAll s vf,
                                 unbound := s.pcie.unbound.set false vf true } }

def execVfFlr (vf : Nat) (s : State) : Out :=
  if 1 ≤ vf ∧ vf ≤ 16 then .next (vfReset s vf) else .next s

def vfResets (s : State) : Nat → State
  | 0 => s
  | n + 1 => vfReset (vfResets s n) (n + 1)

/-- A function-level reset of the PF begins: step 1 of R63, and R62 for every VF. -/
def execPfFlr (s : State) : Out :=
  .next (vfResets { s with pcie := { s.pcie with pfFlr := true, vfEn := false, masked := maskAll s 0 } } 16)

/-- A function-level reset completes (R62, R63). A VF stays unbound until firmware rebinds it. -/
def execFlrDone (fn : Nat) (s : State) : Out :=
  if fn = 0 then .next { s with pcie := { s.pcie with pfFlr := false } }
  else .next { s with pcie := { s.pcie with flr := s.pcie.flr.set false fn false } }

/-- Service firmware binds a partition to a function (R58, R62). -/
def execFunctionBind (part fn : Nat) (s : State) : Out :=
  if 16 ≤ part ∨ 16 < fn ∨ (part = 0 ∧ fn ≠ 0) then .next s
  else .next { s with pcie := { s.pcie with
    bound := if part = 0 then s.pcie.bound else s.pcie.bound.set 0 part (fn + 1),
    unbound := s.pcie.unbound.set false fn false } }

end Sys2Proof.Machine
end

