-- ==== Sys2Proof/Machine/FwOps.lean ====
section
/-! DEFINITION. Firmware of the holm: measurement (R110, R111), images (R113 to R116), staging and attestation (R117 to
R120), the tables that the holm builds (R246, R435), and live replacement (R121 to R132). -/
namespace Sys2Proof.Machine

/-! ## Reserved areas (R494) -/

def logPa : Nat := 0xBFC000000
def stagePa : Nat := 0xBFC800000
def stageLen : Nat := 2 ^ 23
def areaPa (a : Nat) : Nat := if a = 0 then 0xBFD000000 else 0xBFD400000
def handPa : Nat := 0xBFE000000
def handVa : Nat := 0x2000000
def handLen : Nat := 2 ^ 24
def fullLen : Nat := 2 ^ 24 - 2 ^ 18
def poolPa : Nat := 0xBFF000000

/-! ## Measurement (R110, R111) -/

def logFull (s : State) : Bool := decide (16384 ≤ s.fw.logLen)

def zeros32 : List Byte := List.replicate 32 0

def mReg (s : State) (k : Nat) : List Byte := s.fw.m.get zeros32 k

/-- The bytes of a log entry (R111). -/
def logBytes (idx reg kind time : Nat) (digest : List Byte) (seq : Nat) : List Byte :=
  leBytes 4 idx ++ leBytes 1 reg ++ leBytes 1 kind ++ leBytes 2 0 ++ leBytes 8 time ++ digest ++ leBytes 4 seq
    ++ List.replicate 12 0

/-- Extend Mk with a digest and append the log entry. With the log full nothing is extended: what would extend a register is
refused (R111). -/
def extend (s : State) (k kind : Nat) (digest : List Byte) : State :=
  if logFull s then s
  else
    let s := { s with fw := { s.fw with m := s.fw.m.set zeros32 k (Config.sha256 (mReg s k ++ digest)) } }
    let s := putBytes s (logPa + 64 * s.fw.logLen) (logBytes s.fw.logLen k kind s.dtime digest s.fw.fwseq)
    { s with fw := { s.fw with logLen := s.fw.logLen + 1 } }

/-- Extend with a digest of a configuration change that the spec does not define: a free value. -/
def extendFree (s : State) (k kind : Nat) : State :=
  extend { s with freeCount := s.freeCount + 1 } k kind ((Config.freeBytes s.freeCount).take 32)

/-- Give an event to every enabled ring, with the ring's partition in byte 11 (R129, R132). -/
def postEvery (s : State) (ev : Event) : List Nat → State
  | [] => s
  | e :: t =>
    let r := ringAt s e
    postEvery (if r.en then setRing s e (raiseOn r { ev with b11 := r.part }) else s) ev t

def postAll (s : State) (code : Nat) (detail : List Byte) : State :=
  postEvery s (deviceEvent s code detail) (List.range 32)

/-! ## Images (R113 to R116) -/

/-- Field of `n` bytes at offset `i`. -/
def imgF (b : List Byte) (i n : Nat) : Nat := leNat (takeBytes b i n)
def imgKind (b : List Byte) : Nat := imgF b 4 1
def imgSvn (b : List Byte) : Nat := imgF b 8 4
def imgBodyLen (b : List Byte) : Nat := imgF b 16 4
def imgEntry (b : List Byte) : Nat := imgF b 20 4
def imgBody (b : List Byte) : List Byte := takeBytes b 256 (imgBodyLen b)
/-- Header and body. -/
def imgSigned (b : List Byte) : List Byte := b.take (256 + imgBodyLen b)
def imgSig (b : List Byte) : List Byte := takeBytes b (256 + imgBodyLen b) 7856
def imgLen (b : List Byte) : Nat := 256 + imgBodyLen b + 7856
def imgDigest (b : List Byte) : List Byte := if b = [] then zeros32 else Config.sha256 (imgSigned b)

/-- Check 1 of R115. -/
def imgHeaderOk (b : List Byte) (kind : Nat) : Bool :=
  imgF b 0 4 == 0x4D494A5A && imgF b 5 1 == 1 && imgKind b == kind && (kind == 1 || kind == 2) && imgF b 6 2 == 0
    && (takeBytes b 64 192).all (fun x => x == 0) && decide (256 ≤ b.length) && imgBodyLen b % 64 == 0
    && decide (imgBodyLen b ≤ if kind = 1 then 2 ^ 16 else 2 ^ 22 - 2 ^ 13)

/-- A table entry (R114): TYPE, MAJOR, MINOR, REQUIRED. -/
structure TabEntry where
  typ : Nat
  major : Nat
  minor : Nat
  required : Bool
  deriving DecidableEq, Repr

def tabEntries (b : List Byte) (off : Nat) : Nat → List TabEntry
  | 0 => []
  | n + 1 =>
    { typ := imgF b off 2, major := imgF b (off + 2) 1, minor := imgF b (off + 3) 1, required := (imgF b (off + 4) 4).testBit 0 }
      :: tabEntries b (off + 8) n

def imgTabs (b : List Byte) : Nat := 256 + imgF b 28 4
def emitTable (b : List Byte) : List TabEntry := tabEntries b (imgTabs b) (min 256 (imgF b 24 2))
def acceptTable (b : List Byte) : List TabEntry :=
  tabEntries b (imgTabs b + 8 * min 256 (imgF b 24 2)) (min 256 (imgF b 26 2))

/-- A type of a version is accepted (R116). -/
def accepts (acc : List TabEntry) (typ major minor : Nat) : Bool :=
  acc.any (fun a => a.typ == typ && a.major == major && decide (a.minor ≤ minor))

def compatible (running new : List Byte) : Bool :=
  (emitTable running).all (fun e => !e.required || accepts (acceptTable new) e.typ e.major e.minor)

/-- Verification (R115, R111): status codes of R118. `running` is the running service image. -/
def verifyImage (s : State) (b : List Byte) (kind : Nat) (running : Option (List Byte)) : Nat :=
  if !imgHeaderOk b kind then 3
  else if Config.sha256 (imgBody b) ≠ takeBytes b 32 32 then 4
  else if !Config.sigVerify (if kind = 1 then Config.rootKey else Config.imageKey) (imgSigned b) (imgSig b) then 5
  else if imgSvn b < (if kind = 1 then s.flash.minHolm else s.flash.minSvc) then 6
  else if kind == 2 && (match running with | some r => !compatible r b | none => false) then 7
  else 0

/-- The image that starts at a PA: as many bytes as its header gives. -/
def imageAt (s : State) (pa : Nat) : List Byte :=
  let h := rdBytes s pa 256
  rdBytes s pa (min (imgLen h) (2 ^ 22 + 2 ^ 14))

def activeImage (s : State) : List Byte := if s.fw.lr = .safe then [] else imageAt s (areaPa s.fw.area)

/-! ## Tables that the holm builds (R246, R247, R435) -/

/-- A fresh table of the pool. -/
def allocTable (s : State) : Option (Nat × State) :=
  if s.fw.poolNext < 2048 then
    some (poolPa + 8192 * s.fw.poolNext, { s with fw := { s.fw with poolNext := s.fw.poolNext + 1 } })
  else none

/-- Root table of a space; a space without one gets one. -/
def rootOf (s : State) (sp : Nat) : Option (Nat × State) :=
  let r := ptRoot s sp
  if r / 2 ^ 13 ≠ 0 then some (r / 2 ^ 13 * 2 ^ 13, s)
  else
    match allocTable s with
    | some (t, s) => some (t, { s with xl := { s.xl with ptroot := s.xl.ptroot.set 0 sp (r % 2 + t) } })
    | none => none

/-- Address of the entry of a VA in a table at a level. -/
def entryPa (t lv va : Nat) : Nat := t + 8 * bitsOf va (52 - 10 * lv) (43 - 10 * lv)

/-- Write a leaf at level `target`, building tables on the way; none if an entry is valid already or the pool is empty. -/
def mapFrom (target va pte : Nat) : Nat → State → Nat → Nat → Option State
  | 0, _, _, _ => none
  | n + 1, s, t, lv =>
    let a := entryPa t lv va
    let e := rdDword s a
    if lv = target then (if pteV e then none else some (wrDword s a pte))
    else if !pteV e then
      match allocTable s with
      | some (u, s) => mapFrom target va pte n (wrDword s a (u + 1)) u (lv + 1)
      | none => none
    else if pteLeaf e then none
    else mapFrom target va pte n s (pteAddr e % 2 ^ 48) (lv + 1)

def mapPage (s : State) (sp lv va pte : Nat) : Option State :=
  match rootOf s sp with
  | some (t, s) => mapFrom lv va pte 4 s t 0
  | none => none

/-- A valid leaf entry (R247). -/
def leafPte (addr : Nat) (rd wr host x : Bool) : Nat :=
  3 + 4 * flagNat rd + 8 * flagNat wr + 16 * flagNat host + 32 * flagNat x + addr

/-- PA of the valid leaf entry of a size that maps a VA. -/
def leafFrom (s : State) (target va : Nat) : Nat → Nat → Nat → Option Nat
  | 0, _, _ => none
  | n + 1, t, lv =>
    let a := entryPa t lv va
    let e := rdDword s a
    if !pteV e then none
    else if lv = target then (if pteLeaf e then some a else none)
    else if pteLeaf e then none
    else leafFrom s target va n (pteAddr e % 2 ^ 48) (lv + 1)

def leafOf (s : State) (sp lv va : Nat) : Option Nat :=
  if ptRoot s sp / 2 ^ 13 = 0 then none else leafFrom s lv va 4 (ptRoot s sp / 2 ^ 13 * 2 ^ 13) 0

/-- A leaf of a table, or below it, maps into a range. -/
def leafInto (s : State) (host : Bool) (base len : Nat) : Nat → Nat → Nat → Bool
  | 0, _, _ => false
  | n + 1, t, lv =>
    (List.range 1024).any (fun i =>
      let e := rdDword s (t + 8 * i)
      pteV e && (if pteLeaf e then
          pteHost e == host && decide (leafAddr e lv 0 < base + len) && decide (base < leafAddr e lv 0 + 2 ^ pageBits lv)
        else leafInto s host base len n (pteAddr e % 2 ^ 48) (lv + 1)))

/-- Map `n` pages of 8 KiB of space 16. -/
def mapArea (rd wr x : Bool) (va pa : Nat) : Nat → State → State
  | 0, s => s
  | n + 1, s =>
    let s := mapArea rd wr x va pa n s
    (mapPage s 16 3 (va + 8192 * n) (leafPte (pa + 8192 * n) rd wr false x)).getD s

/-- Unmap `n` pages of space 16, and forget cached translations of the space. -/
def unmapArea (va : Nat) : Nat → State → State
  | 0, s => { s with xl := { s.xl with tlbs := (s.xl.tlbs.map (fun t => (t.1, t.2.filter (fun e => e.space != 16)))).filter (fun t => t.2 ≠ []) } }
  | n + 1, s =>
    let s := unmapArea va n s
    match leafOf s 16 3 (va + 8192 * n) with
    | some a => wrDword s a 0
    | none => s

/-- Space 16's tree is in use from the first mapping on. -/
def useSpace16 (s : State) : State :=
  let r := ptRoot s 16
  { s with xl := { s.xl with ptroot := s.xl.ptroot.set 0 16 (r / 2 * 2 + 1) } }

def mapImage (a : Nat) (s : State) : State := useSpace16 (mapArea true false true (areaVa a) (areaPa a) 512 s)
def unmapImage (a : Nat) (s : State) : State := unmapArea (areaVa a) 512 s

/-! ## The service islands' banks (R121) -/

/-- Context slots of a bank. -/
def bankSlots (b : Nat) : List Nat := [4 * b, 4 * b + 1, 4 * b + 2, 4 * b + 3]

def mapSlots (f : Ctx → Ctx) (isl : Nat) : List Nat → State → State
  | [], s => s
  | σ :: t, s => mapSlots f isl t (modCtx s isl σ f)

def mapBank (f : Ctx → Ctx) (b : Nat) : List Nat → State → State
  | [], s => s
  | isl :: t, s => mapBank f b t (mapSlots f isl (bankSlots b) s)

/-- SI0 to SI2 switch from bank `a` to bank `b`. -/
def switchBank (a b : Nat) (s : State) : State :=
  let s := mapBank (fun c => if c.st = .active then { c with st := .halted } else c) a [256, 257, 258] s
  mapBank (fun c => if c.st = .armed ∨ c.st = .halted then { c with st := .active } else c) b [256, 257, 258] s

/-- Contexts of service islands and what they hold are discarded. -/
def dropBank (isls : List Nat) (slots : List Nat) (s : State) : State :=
  discardAll s (isls.flatMap (fun i => slots.map (fun σ => (i, σ))))

/-- A bank's contexts are discarded, with the load that fills it; SI3 returns to standby. -/
def clearBank (b : Nat) (s : State) : State :=
  let s := { s with sched := { s.sched with loads := s.sched.loads.filter (fun e =>
    !(e.2.part == 16 && e.2.slots.any (fun x => x.2 / 4 == b))) } }
  dropBank [259] eight (dropBank [256, 257, 258] (bankSlots b) s)

/-- SI0 to SI3. -/
def isService (isl : Nat) : Bool := decide (256 ≤ isl) && decide (isl < 260)

/-- Memory keys of the service islands' cell banks. -/
def serviceKey (k : Nat) : Bool := decide (bankKey 256 0 0 ≤ k) && decide (k < bankKey 260 0 0)

/-- The reset of the IOD service domain (R21): the contexts of the four service islands, both banks, what their cells store, and
what they hold in flight. -/
def serviceReset (s : State) : State :=
  let s := dropKeys serviceKey (clearBank 0 (clearBank 1 s))
  { s with flights := s.flights.filter (fun f => !isService f.isl), chks := s.chks.filter (fun r => !isService r.isl),
           accs := s.accs.filter (fun a => !isService a.site.isl),
           rel := { s.rel with fails := s.rel.fails.filter (fun f => !isService f.isl) } }

/-- The contexts of an image's entry frame are to be loaded into a bank of SI0 to SI2, and of SI3 while the image is new: there
the context is the entry frame's first block, as on SI0 (log entry 69). -/
def startImage (a b : Nat) (new : Bool) (s : State) : State :=
  let va := areaVa a + 256 + imgEntry (rdBytes s (areaPa a) 256)
  let slots := (if new then [256, 257, 258, 259] else [256, 257, 258]).map (fun i => (i, 4 * b))
  let load : Load := { thread := none, part := 16, frame := va, h := 1, w := 3, orow := 0, ocol := 0,
                       slots := slots, packet := none, since := s.dtime }
  let s := slots.foldl (fun s x => modCtx s x.1 x.2 (fun c => { c with st := .loading })) (clearBank b s)
  { s with sched := { s.sched with loads := s.sched.loads.put s.sched.nextLoad load, nextLoad := s.sched.nextLoad + 1 } }

/-! ## FWSTAT and abort (R123, R125, R126) -/

def LrState.code : LrState → Nat
  | .steady => 0 | .verified => 1 | .starting => 2 | .serialising => 3 | .handover => 4 | .probation => 5 | .fallback => 6
  | .safe => 7

def fwstat (s : State) : Nat :=
  s.fw.lr.code + 8 * s.fw.bank + 16 * flagNat s.fw.resident + 256 * s.fw.lastErr

def setLr (s : State) (l : LrState) : State := { s with fw := { s.fw with lr := l, since := s.dtime } }

/-- A replacement is aborted with a LASTERR code: the new bank, the new image's area and the hand-over area are
discarded, and intake resumes. -/
def abortLr (s : State) (code : Nat) : State :=
  let s := if s.fw.lr = .verified then s
    else clearBank (1 - s.fw.bank) (unmapArea handVa 2048 (unmapImage (1 - s.fw.area) s))
  let s := setLr { s with fw := { s.fw with lastErr := code, paused := false, marked := none, deltaDone := false, hand := [] } } .steady
  postDeviceEvent s 0x8003 []

/-- A re-measurement (R129): FWSEQ, M2, and FW_REMEASURE to every enabled ring. -/
def remeasure (s : State) (kind logKind : Nat) : State :=
  let d := imgDigest (activeImage s)
  let s := extend { s with fw := { s.fw with fwseq := s.fw.fwseq + 1 } } 2 logKind d
  postAll s 0x8001 (leBytes 4 s.fw.fwseq ++ leBytes 1 kind ++ leBytes 1 0 ++ d.take 6)

/-! ## Boot of a service image (R112 step 5) -/

def svcSlot (s : State) (n : Nat) : List Byte := if n = 0 then s.flash.svcA else s.flash.svcB

/-- The first of the selected slot and the other whose image verifies. -/
def pickSvc (s : State) : Option (List Byte) :=
  let a := svcSlot s s.flash.svcSel
  let b := svcSlot s (1 - s.flash.svcSel)
  if verifyImage s a 2 none = 0 then some a else if verifyImage s b 2 none = 0 then some b else none

/-- Enter SAFE (R132): no service firmware runs. -/
def enterSafe (s : State) : State :=
  let s := serviceReset s
  postAll (setLr { s with fw := { s.fw with paused := true } } .safe) 0x8002 []

/-- Copy an image to an area, map it and start it on a bank. -/
def runImage (img : List Byte) (a b : Nat) (new : Bool) (s : State) : State :=
  startImage a b new (mapImage a (putBytes s (areaPa a) img))

/-! ## STAGE (R117, R118) -/

def replacing (s : State) : Bool :=
  match s.fw.lr with
  | .starting | .serialising | .handover | .probation | .fallback => true
  | _ => false

def stageAck (s : State) (m : KcpMsg) (status : Nat) (digest : List Byte) : State :=
  sendKcp s m.port 0x31 m.sess m.msgid (leBytes 1 status ++ leBytes 3 0 ++ leBytes 4 s.fw.staged ++ digest)

/-- Steps 5 and 6 of R117: verify the staged image, and write it to flash, which does not fail: status 9 is never given (log
entry 77). -/
def stageFlags (s : State) (m : KcpMsg) (verify persist : Bool) : State :=
  let img := imageAt s stagePa
  let kind := if imgKind img = 1 then 1 else 2
  let st := if !verify then 0
    else
      let v := verifyImage s img kind (if kind = 2 ∧ s.fw.lr ≠ .safe then some (activeImage s) else none)
      if v = 0 ∧ kind = 2 ∧ logFull s then 8 else v
  let ok := if verify then st == 0 else s.fw.stagedOk
  let s := if verify ∧ st = 0 then
      { s with fw := { s.fw with stagedOk := true,
                                 lr := if kind = 2 ∧ s.fw.lr = .steady then .verified else s.fw.lr } }
    else s
  let s := if persist ∧ ok then
      if kind = 1 then
        let n := 1 - s.flash.holmSel
        { s with flash := { s.flash with
            holmA := if n = 0 then img else s.flash.holmA, holmB := if n = 0 then s.flash.holmB else img, holmSel := n } }
      else
        let n := 1 - s.flash.svcSel
        { s with flash := { s.flash with svcA := if n = 0 then img else s.flash.svcA, svcB := if n = 0 then s.flash.svcB else img },
                 fw := { s.fw with newSlot := some n } }
    else s
  stageAck s m st (if verify ∧ st = 0 then imgDigest img else zeros32)

def stageMsg (s : State) (m : KcpMsg) : State :=
  let b := msgPayload m
  let off := imgF b 0 4
  let flags := imgF b 4 4
  let bytes := b.drop 8
  if b.length < 8 ∨ 65536 < bytes.length then sendNak s m 1
  else if stageLen < off + bytes.length ∨ 8 ≤ flags then stageAck s m 1 zeros32
  else if replacing s then stageAck s m 2 zeros32
  else
    let clear := flags.testBit 2
    let s := putBytes s (stagePa + off) bytes
    let s := { s with fw := { s.fw with staged := if bytes = [] then s.fw.staged else max s.fw.staged (off + bytes.length) } }
    let s := if bytes ≠ [] ∨ clear then
        { s with fw := { s.fw with stagedOk := false, newSlot := none,
                                   lr := if s.fw.lr = .verified then .steady else s.fw.lr } }
      else s
    let s := if clear then
        { s with mem := s.mem.filter (fun e => !(decide (stagePa ≤ e.1) && decide (e.1 < stagePa + stageLen))),
                 fw := { s.fw with staged := 0 } }
      else s
    stageFlags s m (flags.testBit 0) (flags.testBit 1)

def execStage (s : State) : Out :=
  match takeMsg s 0x30 with
  | none => .next s
  | some (m, s) => .next (stageMsg (journalOne s (.message 0x30 m.sess m.msgid)) m)

/-! ## ATTREQ (R119, R120) -/

/-- Device identifier (R28). -/
def deviceId (s : State) : List Byte := (Config.sha256 (Config.idPublic s.pkg.idKey)).take 8

def attReport (s : State) (nonce : List Byte) (first count : Nat) : List Byte :=
  let n := min count (s.fw.logLen - first)
  let r := leBytes 4 1 ++ deviceId s ++ nonce ++ mReg s 0 ++ mReg s 1 ++ mReg s 2 ++ mReg s 3 ++ leBytes 4 s.flash.bootCount
    ++ leBytes 4 s.fw.fwseq ++ leBytes 4 (fwstat s) ++ imgDigest s.fw.holmImg ++ imgDigest (activeImage s)
    ++ (if s.fw.resident then imgDigest (imageAt s (areaPa (1 - s.fw.area))) else zeros32)
    ++ leBytes 4 (imgSvn s.fw.holmImg) ++ leBytes 4 (imgSvn (activeImage s)) ++ leBytes 4 first ++ leBytes 2 n ++ leBytes 2 0
    ++ rdBytes s (logPa + 64 * first) (64 * n)
  r ++ Config.sign s.pkg.idKey r

/-- The failure report of restricted mode (R120). -/
def failReport (s : State) (nonce : List Byte) (code die : Nat) : List Byte :=
  let id := s.pkg.idKey ≠ []
  let r := leBytes 4 2 ++ (if id then deviceId s else List.replicate 8 0xFF) ++ nonce ++ leBytes 4 code ++ leBytes 1 die
    ++ leBytes 3 0 ++ leBytes 4 s.flash.bootCount ++ mReg s 0 ++ mReg s 1
  if id then r ++ Config.sign s.pkg.idKey r else r

def execAttreq (s : State) : Out :=
  match takeMsg s 0x40 with
  | none => .next s
  | some (m, s) =>
    let b := msgPayload m
    if b.length ≠ 38 then .next (sendNak s m 1)
    else
      match s.pkg.boot with
      | .restricted code die => .next (sendKcp s m.port 0x41 m.sess m.msgid (failReport s (b.take 32) code die))
      | _ =>
        if 1024 < imgF b 36 2 then .next (sendNak s m 1)
        else .next (sendKcp s m.port 0x41 m.sess m.msgid (attReport s (b.take 32) (imgF b 32 4) (imgF b 36 2)))

/-! ## Hand-over records (R124, R126) -/

/-- A record header at a PA. -/
structure HandRec where
  typ : Nat
  major : Nat
  minor : Nat
  key : Nat
  deleted : Bool
  clean : Bool
  len : Nat
  pa : Nat
  deriving DecidableEq, Repr

def handRec (s : State) (pa : Nat) : HandRec :=
  let b := rdBytes s pa 16
  { typ := imgF b 0 2, major := imgF b 2 1, minor := imgF b 3 1, key := imgF b 4 4, deleted := (imgF b 12 1).testBit 0,
    clean := imgF b 12 1 / 2 == 0 && imgF b 13 3 == 0, len := imgF b 8 4, pa := pa }

/-- The records of a part of the area, in order; none if one fails the test of R126, `some (l, true)` if the part runs past its
end. -/
def checkRecs (s : State) (emit : List TabEntry) (stop : Nat) : Nat → Nat → Option (List HandRec × Bool)
  | 0, _ => some ([], true)
  | n + 1, pa =>
    if pa = stop then some ([], false)
    else if stop < pa + 16 then some ([], true)
    else
      let r := handRec s pa
      if r.typ = 0 then some ([], false)
      else if !r.clean || !emit.any (fun e => e.typ == r.typ && e.major == r.major && e.minor == r.minor) then none
      else (checkRecs s emit stop n (pa + 16 + (r.len + 15) / 16 * 16)).map (fun p => (r :: p.1, p.2))

/-- The records that stand after those of a part (R124, R126): one that the new image does not accept is discarded; a later one
with the same TYPE and KEY supersedes an earlier one; a DELETED one removes the key. -/
def takeRecs (acc : List TabEntry) : List HandRec → List HandEntry → List HandEntry
  | [], l => l
  | r :: t, l =>
    if !accepts acc r.typ r.major r.minor then takeRecs acc t l
    else
      let l := l.filter (fun e => !(e.typ == r.typ && e.key == r.key))
      takeRecs acc t (if r.deleted then l else l ++ [{ typ := r.typ, key := r.key, pa := r.pa }])

/-- The accept table of the new image. -/
def newAccepts (s : State) : List TabEntry := acceptTable (imageAt s (areaPa (1 - s.fw.area)))

/-- HANDOVER is entered: intake pauses (R125). -/
def beginHandover (s : State) : State :=
  setLr { s with fw := { s.fw with paused := true, marked := none, deltaDone := false } } .handover

/-- OP 4: every full record is checked. -/
def serialised (s : State) : State :=
  let emit := emitTable (activeImage s)
  match checkRecs s emit (handPa + fullLen) (2 ^ 20) handPa with
  | none => abortLr s 4
  | some (recs, tooLong) =>
    let hand := takeRecs (newAccepts s) recs []
    let s := { s with fw := { s.fw with hand := hand } }
    if tooLong then abortLr s 4
    else if (emit.filter (fun e => e.required)).any (fun e => !hand.any (fun r => r.typ == e.typ)) then abortLr s 5
    else if s.fw.align then { s with fw := { s.fw with marked := some (scIndex s (clockOf s 0)) } }
    else beginHandover s

/-- OP 5: every delta record is checked. -/
def deltaDone (s : State) : State :=
  match checkRecs s (emitTable (activeImage s)) (handPa + handLen) (2 ^ 15) (handPa + fullLen) with
  | none => abortLr s 4
  | some (_, true) => abortLr s 8
  | some (recs, false) => { s with fw := { s.fw with deltaDone := true, hand := takeRecs (newAccepts s) recs s.fw.hand } }

/-- SI3 stands by: its contexts rest. -/
def standby (s : State) : State :=
  eight.foldl (fun s σ => modCtx s 259 σ (fun c => if c.st = .active then { c with st := .halted } else c)) s

/-- OP 6: SI0 to SI2 switch to the new bank, and PROBATION begins. -/
def takenOver (s : State) : State :=
  let b := s.fw.bank
  let s := standby (switchBank b (1 - b) s)
  let s := { s with fw := { s.fw with bank := 1 - b, area := 1 - s.fw.area, resident := true, journal := [], replay := [], hb := 0,
                                      lastBeat := s.dtime, paused := false, deltaDone := false } }
  remeasure (setLr s .probation) 0 4

/-- OP 7: FALLBACK ends and intake resumes. -/
def replayed (s : State) : State :=
  let s := clearBank (1 - s.fw.bank) (unmapArea handVa 2048 (unmapImage (1 - s.fw.area) s))
  setLr { s with fw := { s.fw with paused := false, resident := false, replay := [], lastBeat := s.dtime } } .steady

/-- OP 1: the verified image is copied, mapped and started; the hand-over area is zeroed and mapped. -/
def startLr (s : State) : State :=
  let a := 1 - s.fw.area
  let inArea (k : Nat) : Bool := decide (handPa ≤ k) && decide (k < handPa + handLen)
  let s := { s with
    mem := s.mem.filter (fun e => !inArea e.1)
    uncorr := s.uncorr.filter (fun e => !inArea (64 * e.1))
    soft := s.soft.filter (fun e => !inArea (4 * e.1)) }
  let s := mapArea true true false handVa handPa 2048 s
  setLr (runImage (imageAt s stagePa) a (1 - s.fw.bank) true s) .starting

/-- OP of a FWCTL write is allowed in the current state from the writer (R125); a take-over, which extends M2, is refused while
the log is full (R111, log entry 69). -/
def fwctlAllowed (s : State) (w : Writer) (op : Nat) : Bool :=
  let oldOrH := w == .old || w == .holm
  match op with
  | 1 => s.fw.lr == .verified && oldOrH
  | 2 => (s.fw.lr == .verified || s.fw.lr == .starting || s.fw.lr == .serialising) && oldOrH
  | 3 => s.fw.lr == .starting && w == .new
  | 4 => s.fw.lr == .serialising && w == .old && s.fw.marked.isNone
  | 5 => s.fw.lr == .handover && w == .old
  | 6 => s.fw.lr == .handover && w == .new && s.fw.deltaDone && !logFull s
  | 7 => s.fw.lr == .fallback && w == .old
  | _ => false

def fwctlOp (s : State) (op : Nat) : State :=
  match op with
  | 1 => startLr s
  | 2 => abortLr s 6
  | 3 => setLr s .serialising
  | 4 => serialised s
  | 5 => deltaDone s
  | 6 => takenOver s
  | 7 => replayed s
  | _ => s

/-- A write of FWCTL (R123): with GO, OP is performed if it is allowed, else the write is ignored. -/
def fwctl (s : State) (w : Writer) (v : Word) : State :=
  let op := v.toNat % 8
  let store := { s with fw := { s.fw with op := op, align := v.toNat.testBit 3 } }
  if !v.toNat.testBit 31 then store
  else if fwctlAllowed s w op then fwctlOp store op
  else s

def execFwctlStart (w : Writer) (v : Word) (s : State) : Out := .next (fwctl s w v)
def execFwctlAbort (w : Writer) (v : Word) (s : State) : Out := .next (fwctl s w v)
def execFwctlReady (w : Writer) (v : Word) (s : State) : Out := .next (fwctl s w v)
def execFwctlSerialised (w : Writer) (v : Word) (s : State) : Out := .next (fwctl s w v)
def execFwctlDeltaDone (w : Writer) (v : Word) (s : State) : Out := .next (fwctl s w v)
def execFwctlTakenOver (w : Writer) (v : Word) (s : State) : Out := .next (fwctl s w v)
def execFwctlReplayed (w : Writer) (v : Word) (s : State) : Out := .next (fwctl s w v)

/-- HANDOVER begins at the slot boundary after OP 4 (R123, R125). -/
def execHandoverBegin (s : State) : Out :=
  match s.fw.marked with
  | some n =>
    if s.fw.lr = .serialising ∧ (clockAt s (clockOf s 0)).en ∧ n ≠ scIndex s (clockOf s 0) then .next (beginHandover s)
    else .next s
  | none => .next s

/-! ## Timeouts, heartbeats, commit (R125, R128, R131) -/

def execStartTimeout (s : State) : Out :=
  if s.fw.lr = .starting ∧ s.fw.since + 100 * msec ≤ s.dtime then .next (abortLr s 1) else .next s

def execSerialTimeout (s : State) : Out :=
  if s.fw.lr = .serialising ∧ s.fw.since + 50 * msec ≤ s.dtime then .next (abortLr s 2) else .next s

def execHandoverTimeout (s : State) : Out :=
  if s.fw.lr = .handover ∧ s.fw.since + 40 * usec ≤ s.dtime then .next (abortLr s 3) else .next s

def execFallbackTimeout (s : State) : Out :=
  if s.fw.lr = .fallback ∧ s.fw.since + 5 * msec ≤ s.dtime then .next (enterSafe s) else .next s

/-- The image whose writes count as heartbeats. -/
def activeWriter (s : State) : Writer := if s.fw.lr = .probation then .new else .old

/-- Interval of the heartbeats (R128). -/
def beatTime (s : State) : Nat := if s.fw.lr = .probation then 100 * usec else 10 * msec

/-- A heartbeat has been missed: the interval has passed with no counted write. -/
def beatMissed (s : State) : Bool := decide (s.fw.lastBeat + beatTime s ≤ s.dtime)

/-- A write of FWHB (R123, R128): the running image's writes count as heartbeats, one at a time; none makes up for a missed
one. -/
def fwhbWrite (s : State) (w : Writer) (v : Word) : State :=
  if w = .holm then { s with fw := { s.fw with hb := v } }
  else if s.fw.lr = .safe ∨ w ≠ activeWriter s then s
  else if v = s.fw.hb + 1 ∧ !beatMissed s then { s with fw := { s.fw with hb := v, lastBeat := s.dtime } }
  else { s with fw := { s.fw with hb := v } }

def execFwhbWrite (w : Writer) (v : Word) (s : State) : Out :=
  .next (fwhbWrite (if w = .new then journalSys s .s 0x28 v else s) w v)

/-- Fall back to the old image, which receives the journal (R125, R132). RESIDENT stays 1, for the image that failed (log entry 77). With the log full it could not be measured and is not
started: SAFE (R111, log entry 69). -/
def fallBack (s : State) : State :=
  if logFull s then enterSafe s
  else
    let b := s.fw.bank
    let s := switchBank b (1 - b) s
    let s := { s with fw := { s.fw with bank := 1 - b, area := 1 - s.fw.area, paused := true, lastErr := 7, lastBeat := s.dtime,
                                        replay := s.fw.journal } }
    remeasure (setLr s .fallback) 1 5

/-- Restart the selected flash image in the active bank, after a reset of the service domain (R21, R128). -/
def restartImage (s : State) : State :=
  let s := serviceReset (postDeviceEvent s 0x8004 [])
  if logFull s then enterSafe s
  else match pickSvc s with
    | none => enterSafe s
    | some img =>
      let s := { s with fw := { s.fw with lastBeat := s.dtime } }
      remeasure (runImage img s.fw.area s.fw.bank false s) 2 3

def execHeartbeatMiss (s : State) : Out :=
  if s.fw.lr = .safe ∨ s.fw.lr = .fallback ∨ !beatMissed s then .next s
  else if s.fw.lr = .probation then .next (fallBack s)
  else if s.pkg.boot = .booted then .next (restartImage s)
  else .next s

/-- Commit (R131), after 1 s in PROBATION with no missed heartbeat. -/
def execCommit (s : State) : Out :=
  if s.fw.lr = .probation ∧ s.fw.since + 1000 * msec ≤ s.dtime ∧ !beatMissed s then
    let svn := imgSvn (activeImage s)
    let s := clearBank (1 - s.fw.bank) (unmapArea handVa 2048 (unmapImage (1 - s.fw.area) s))
    let s := match s.fw.newSlot with
      | some n => { s with flash := { s.flash with svcSel := n, minSvc := max s.flash.minSvc svn } }
      | none => s
    .next (setLr { s with fw := { s.fw with resident := false, journal := [], hand := [], paused := false, newSlot := none } } .steady)
  else .next s

end Sys2Proof.Machine
end

