-- ==== Sys2Proof/Machine/HolmCalls.lean ====
section
/-! DEFINITION. Holm calls (R434, R435) and the completion of an invalidation. A call is served from the open calls, which
HCQPOP takes from the queue; its status goes to the HCALL that waits. -/
namespace Sys2Proof.Machine

/-- The call with a ticket and a call number, if it is the one that is served: the oldest open one (R434). -/
def openCall (s : State) (ticket num : Nat) : Option HCall :=
  s.fw.opened.head?.filter (fun c => c.ticket == ticket && c.call == num && !c.waitInv)

/-- The oldest open call, which the holm serves as the one with a ticket, has a number that R435 does not list: it returns BADCALL. -/
def badCall (s : State) (ticket : Nat) : State :=
  match s.fw.opened.head? with
  | some c => if c.ticket = ticket ∧ (c.call = 0 ∨ 10 < c.call) then answerCall s ticket 1 else s
  | none => s

/-- Word k of the argument block. -/
def wk (c : HCall) (k : Nat) : Nat := (c.args.getD k 0).toNat
def wk64 (c : HCall) (k : Nat) : Nat := wk c k + 2 ^ 32 * wk c (k + 1)

/-- HCQPOP.GO: the oldest pending call is taken and stays open. -/
def hcqpopWrite (s : State) (v : Nat) : State :=
  match s.fw.calls with
  | c :: t =>
    if !v.testBit 31 then s
    else { s with fw := { s.fw with calls := t, opened := s.fw.opened ++ [c] } }
  | [] => s

def execHcqpop (l : Level) (v : Word) (s : State) : Out :=
  match l with
  | .h => .next (hcqpopWrite s v.toNat)
  | _ => .next s

/-- A served call: status and, where it is 0, the effect. -/
def serve (s : State) (ticket status : Nat) (effect : State → State) : Out :=
  .next (answerCall (if status = 0 then effect s else s) ticket status)

/-- A call that extends M3 is refused while the log is full (R111). -/
def measured (s : State) (status : Nat) : Nat := if status = 0 ∧ logFull s then 4 else status

/-! ## Allotments -/

def overlap (a n b m : Nat) : Bool := decide (a < b + m) && decide (b < a + n)

/-- ALLOT and RELEASE arguments in range: multiples of 8 KiB inside the physical map, or inside the 60 bits of a bus
address. -/
def rangeOk (c : HCall) : Bool :=
  let base := wk64 c 1
  let len := wk64 c 3
  decide (wk c 0 / 64 = 0) && decide (wk c 0 % 32 ≤ 16) && decide (base % 8192 = 0) && decide (len % 8192 = 0) && decide (0 < len)
    && (if (wk c 0).testBit 5 then decide (base + len ≤ 2 ^ 60)
        else paOk base && paOk (base + len - 1) && decide (base / 2 ^ 36 = (base + len - 1) / 2 ^ 36))

def allotStatus (s : State) (c : HCall) : Nat :=
  let sp := wk c 0 % 32
  let host := (wk c 0).testBit 5
  let base := wk64 c 1
  let len := wk64 c 3
  if !rangeOk c then 2
  else if s.fw.allots.any (fun a => a.space != sp && a.host == host && overlap a.base a.len base len) then 3
  else if !host && overlap logPa (2 ^ 26) base len then 3
  else if !host && s.flash.retired.any (fun f => overlap f 8192 base len) then 5
  else measured s 0

def execAllot (ticket : Nat) (s : State) : Out :=
  match openCall s ticket 1 with
  | none => .next (badCall s ticket)
  | some c =>
    serve s ticket (allotStatus s c) (fun s =>
      extendFree { s with fw := { s.fw with allots :=
        s.fw.allots ++ [{ space := wk c 0 % 32, host := (wk c 0).testBit 5, base := wk64 c 1, len := wk64 c 3 }] } } 3 7)

/-- What is left of an allotment when a range is taken out. -/
def cutAllot (base len : Nat) (a : Allot) : List Allot :=
  if !overlap a.base a.len base len then [a]
  else (if a.base < base then [{ a with len := base - a.base }] else [])
    ++ (if base + len < a.base + a.len then [{ a with base := base + len, len := a.base + a.len - (base + len) }] else [])

def releaseStatus (s : State) (c : HCall) : Nat :=
  let sp := wk c 0 % 32
  if !rangeOk c then 2
  else if ptRoot s sp / 2 ^ 13 ≠ 0 ∧ leafInto s ((wk c 0).testBit 5) (wk64 c 1) (wk64 c 3) 4 (ptRoot s sp / 2 ^ 13 * 2 ^ 13) 0 then 3
  else measured s 0

def execRelease (ticket : Nat) (s : State) : Out :=
  match openCall s ticket 2 with
  | none => .next (badCall s ticket)
  | some c =>
    serve s ticket (releaseStatus s c) (fun s =>
      extendFree { s with fw := { s.fw with allots := (s.fw.allots.map (fun a =>
        if a.space = wk c 0 % 32 ∧ a.host = (wk c 0).testBit 5 then cutAllot (wk64 c 1) (wk64 c 3) a else [a])).flatten } } 3 7)

/-! ## Mapping -/

/-- A page lies wholly in the allotments of a space: every 8 KiB of it does, counting from the end. -/
def allotted (s : State) (sp : Nat) (host : Bool) (base : Nat) : Nat → Bool
  | 0 => true
  | n + 1 =>
    s.fw.allots.any (fun a => a.space == sp && a.host == host && decide (a.base ≤ base + 8192 * n)
      && decide (base + 8192 * (n + 1) ≤ a.base + a.len)) && allotted s sp host base n

def ptmapStatus (s : State) (c : HCall) : Nat :=
  let sp := wk c 0 % 32
  let lv := bitsOf (wk c 0) 6 5
  let host := (wk c 0).testBit 9
  let va := wk64 c 1
  let ta := wk64 c 3
  if 2 ^ 11 ≤ wk c 0 ∨ 16 < sp ∨ lv = 0 ∨ 2 ^ 53 ≤ va ∨ 2 ^ 60 ≤ ta then 2
  else if va % 2 ^ pageBits lv ≠ 0 ∨ ta % 2 ^ pageBits lv ≠ 0 then 3
  else if !host && s.flash.retired.any (fun f => overlap f 8192 ta (2 ^ pageBits lv)) then 5
  else if !allotted s sp host ta (2 ^ pageBits lv / 8192) then 3
  else if (mapPage s sp lv va 1).isNone then 3
  else 0

def execPtmap (ticket : Nat) (s : State) : Out :=
  match openCall s ticket 3 with
  | none => .next (badCall s ticket)
  | some c =>
    serve s ticket (ptmapStatus s c) (fun s =>
      let b := wk c 0
      (mapPage s (b % 32) (bitsOf b 6 5) (wk64 c 1)
        (leafPte (wk64 c 3) (b.testBit 7) (b.testBit 8) (b.testBit 9) (b.testBit 10))).getD s)

/-- The call with a ticket waits for the invalidation. -/
def awaitInv (ticket : Nat) (x : HCall) : HCall := if x.ticket = ticket then { x with waitInv := true } else x

/-- PTUNMAP: the leaf is cleared and the TLBs are invalidated; the call returns when that has completed. -/
def execPtunmap (ticket : Nat) (s : State) : Out :=
  match openCall s ticket 4 with
  | none => .next (badCall s ticket)
  | some c =>
    let sp := wk c 0 % 32
    let lv := bitsOf (wk c 0) 6 5
    let va := wk64 c 1
    if 2 ^ 7 ≤ wk c 0 ∨ 16 < sp ∨ lv = 0 ∨ 2 ^ 53 ≤ va then .next (answerCall s ticket 2)
    else
      match leafOf s sp lv va with
      | none => .next (answerCall s ticket 3)
      | some a =>
        if s.xl.inv.toNat.testBit 31 then .next s
        else
          let s := wrDword s a 0
          let s := { s with fw := { s.fw with opened := s.fw.opened.map (awaitInv ticket) } }
          .next (tlbInvGo { s with xl := { s.xl with invVa := va / 2 ^ 13 * 2 ^ 13 } } (BitVec.ofNat 32 (2 ^ 31 + sp)))

/-- The invalidation completes; a PTUNMAP that waits for it returns. -/
def endInv (s : State) : State :=
  let s := tlbInvDone s
  match s.fw.opened.find? (fun c => c.waitInv) with
  | some c => answerCall s c.ticket 0
  | none => s

/-- The invalidation completes (R251): where it covers writes to host memory that may not be complete at the host, when reads of
their functions have been (R228, R241); a read that the host aborts is made again (log entry 74). -/
def execTlbinvComplete (s : State) : Out :=
  if !tlbInvReady s then .next s
  else match invPosted s, s.xl.invAsked with
    | [], _ => .next (endInv s)
    | fns, none =>
      let t := fns.foldl (fun s f => emitOut s (.hostRead f)) s
      .next { t with xl := { t.xl with invAsked := some s.pcie.nextPost } }
    | fns, some n =>
      match askAll n fns s with
      | some s => .next (endInv s)
      | none => .next { s with xl := { s.xl with invAsked := none } }

/-- PTEN: the tree of a space is put into use or out of use. -/
def execPten (ticket : Nat) (s : State) : Out :=
  match openCall s ticket 5 with
  | none => .next (badCall s ticket)
  | some c =>
    let sp := wk c 0 % 32
    let st := if 2 ^ 6 ≤ wk c 0 ∨ 16 < sp then 2 else if (rootOf s sp).isNone then 3 else measured s 0
    serve s ticket st (fun s =>
      let s := match rootOf s sp with | some (_, s) => s | none => s
      let r := ptRoot s sp
      extendFree { s with xl := { s.xl with ptroot := s.xl.ptroot.set 0 sp (r / 2 * 2 + (if (wk c 0).testBit 5 then 1 else 0)) } } 3 7)

/-! ## Partitions -/

/-- A value of SBWIN is refused (R253): it passes the die's 32 MiB or overlaps a window of another partition. -/
def sbwinRefused (s : State) (p die : Nat) (v : Nat) : Bool :=
  let b := bitsOf v 9 1
  let n := bitsOf v 18 10 + 1
  v.testBit 0 && (decide (512 < b + n) ||
    (List.range 16).any (fun q => q != p && [0, 1, 2, 3].any (fun w =>
      let u := sbWin s q die w
      u.testBit 0 && overlap (bitsOf u 9 1) (bitsOf u 18 10 + 1) b n)))

def execSbwin (ticket : Nat) (s : State) : Out :=
  match openCall s ticket 6 with
  | none => .next (badCall s ticket)
  | some c =>
    let p := wk c 0 % 16
    let die := bitsOf (wk c 0) 5 4
    let w := bitsOf (wk c 0) 7 6
    let v := wk c 1
    let st := if 2 ^ 8 ≤ wk c 0 ∨ 2 ^ 20 ≤ v then 2 else if sbwinRefused s p die v then 3 else measured s 0
    serve s ticket st (fun s =>
      extendFree { s with xl := { s.xl with sbwin := s.xl.sbwin.set 0 (16 * p + 4 * die + w) (BitVec.ofNat 32 v) } } 3 7)

/-- A context of a partition other than `p` is on an island. -/
def foreignCtx (s : State) (isl p : Nat) : Bool :=
  (List.range 8).any (fun σ =>
    let c := ctxAt s isl σ
    c.st != .free && (match c.thread with | some t => (threadAt s t).part | none => c.part) != p)

def execIslown (ticket : Nat) (s : State) : Out :=
  match openCall s ticket 7 with
  | none => .next (badCall s ticket)
  | some c =>
    let isl := wk c 0 % 256
    let p := bitsOf (wk c 0) 11 8
    let st := if 2 ^ 12 ≤ wk c 0 then 2
      else if s.sched.lent.get 0 isl ≠ 0 ∨ foreignCtx s isl p then 3 else measured s 0
    serve s ticket st (fun s => extendFree { s with sched := { s.sched with owner := s.sched.owner.set 0 isl p } } 3 7)

/-- PTCFG of a partition (R139). -/
def ptcfgAt (s : State) (p : Nat) : PtCfg := s.sched.ptcfg.get {} p

/-- The partition holds a descriptor. -/
def holdsThread (s : State) (p : Nat) : Bool := s.sched.threads.any (fun t => t.2.st != .free && t.2.part == p)

def execParten (ticket : Nat) (s : State) : Out :=
  match openCall s ticket 8 with
  | none => .next (badCall s ticket)
  | some c =>
    let p := wk c 0 % 16
    let en := (wk c 0).testBit 4
    let st := if 2 ^ 5 ≤ wk c 0 ∨ p = 0 then 2 else if !en && holdsThread s p then 3 else measured s 0
    serve s ticket st (fun s =>
      extendFree { s with sched := { s.sched with ptcfg := s.sched.ptcfg.set {} p { s.sched.ptcfg.get {} p with en := en } } } 3 7)

/-! ## Key slots (R54) -/

def execKeyload (ticket : Nat) (s : State) : Out :=
  match openCall s ticket 9 with
  | none => .next (badCall s ticket)
  | some c =>
    let key := ((List.range 8).map (fun i => leBytes 4 (wk c (8 + i)))).flatten
    let slot := wk c 0 % 8
    let x : KeySlot := { key := key, level := if (wk c 0).testBit 3 then .t else .s, part := bitsOf (wk c 0) 7 4 }
    let st := if 2 ^ 8 ≤ wk c 0 then 2 else measured s 0
    serve s ticket st (fun s =>
      extend { s with link := { s.link with keys := s.link.keys.set none slot (some x) } } 3 6 (Config.sha256 key))

def execKeyclr (ticket : Nat) (s : State) : Out :=
  match openCall s ticket 10 with
  | none => .next (badCall s ticket)
  | some c =>
    let st := if 2 ^ 3 ≤ wk c 0 then 2 else measured s 0
    serve s ticket st (fun s => extendFree { s with link := { s.link with keys := s.link.keys.set none (wk c 0 % 8) none } } 3 6)

end Sys2Proof.Machine
end

