-- ==== Sys2Proof/Machine/StreamSpec.lean ====
section
/-! DEFINITION. Specifications of address generators (R205 to R208): fields, the check, the walk with its addresses and stops,
and the bytes of an element. -/
namespace Sys2Proof.Machine

/-! ## Specification (R205 to R208) -/

def sw (l : List Word) (i : Nat) : Nat := (l.getD i 0).toNat
def spSbuf (l : List Word) : Bool := (sw l 0).testBit 0
def spWrite (l : List Word) : Bool := (sw l 0).testBit 2
def spMode (l : List Word) : Nat := bitsOf (sw l 0) 4 3
def spDims (l : List Word) : Nat := bitsOf (sw l 0) 6 5 + 1
def spElem (l : List Word) : Nat := bitsOf (sw l 0) 8 7
def spPlanes (l : List Word) : Nat := bitsOf (sw l 0) 12 9
def spSync (l : List Word) : Bool := (sw l 0).testBit 13
def spConsume (l : List Word) : Bool := (sw l 0).testBit 14
def spLevel (l : List Word) (d : Nat) : Nat := bitsOf (sw l 1) (3 * d + 2) (3 * d)
def streamBase (l : List Word) : Nat := sw l 2 + 2 ^ 32 * (sw l 3 % 2 ^ 21)
def spStride (l : List Word) (d : Nat) : Int := sextNat 32 (sw l (8 + d))

/-- Factors of the codes of w4 and w5 (R208). -/
def spCodes (l : List Word) : List Nat :=
  (List.range 10).map (fun i => bitsOf (sw l 4) (3 * i + 2) (3 * i)) ++ (List.range 3).map (fun i => bitsOf (sw l 5) (3 * i + 2) (3 * i))
def spFactors (l : List Word) : List Nat := ((spCodes l).takeWhile (· != 0)).map (· + 1)

def product (l : List Nat) : Nat := l.foldl (· * ·) 1

/-- Extent of dimension d (R205, R208). -/
def spExtent (l : List Word) (d : Nat) : Nat :=
  if spMode l = 2 then (if d = 0 then product (spFactors l) else sw l (5 + d)) else sw l (4 + d)

/-- rev(k) (R208): the digits of k in the factors, taken in the other order. -/
def revDigits : List Nat → Nat → Nat
  | [], _ => 0
  | f :: t, k => (k % f) * product t + revDigits t (k / f)

def factorsOk (l : List Word) : Bool :=
  let fs := spFactors l
  (spCodes l).all (· ≤ 4) && ((spCodes l).drop fs.length).all (· == 0) && decide (1 ≤ fs.length)
    && decide (2 ≤ product fs) && decide (product fs ≤ 8192) && sw l 4 / 2 ^ 30 == 0 && sw l 5 / 2 ^ 9 == 0

/-- Nonzero levels rise strictly with d. -/
def levelsRise : List Nat → Bool
  | [] => true
  | a :: t => (a == 0 || t.all (fun b => b == 0 || decide (a < b))) && levelsRise t

/-- What R205, R207 and R208 require of the words. -/
def specOk (l : List Word) : Bool :=
  let n := spDims l
  let above := (List.range 4).drop n
  decide (sw l 0 % 4 ≤ 1) && sw l 0 / 2 ^ 15 == 0 && sw l 1 / 2 ^ 12 == 0 && sw l 3 / 2 ^ 21 == 0 && spMode l != 3 && spElem l != 3
    && (if spElem l = 2 then decide (1 ≤ spPlanes l) && decide (spPlanes l ≤ 8) && !spWrite l else spPlanes l == 0)
    && (!spSync l || (spSbuf l && !spWrite l)) && (!spConsume l || spSync l)
    && levelsRise ((List.range 4).map (spLevel l)) && above.all (fun d => spLevel l d == 0 && sw l (8 + d) == 0)
    && (match spMode l with
        | 0 => above.all (fun d => sw l (4 + d) == 0)
        | 1 => n == 1 && spLevel l 0 == 0 && [4, 5, 6, 7, 9, 10, 11].all (fun i => sw l i == 0)
        | _ => factorsOk l && decide (n ≤ 3) && sw l 11 == 0 && (above.filter (· < 3)).all (fun d => sw l (5 + d) == 0))

/-! ## The walk (R206) -/

/-- Dimensions that the walk counts: those above the highest dimension with extent 0, if there is one. -/
def lowDim (l : List Word) : Nat := ((List.range (spDims l)).filter (fun d => spExtent l d == 0)).foldl (fun m d => max m (d + 1)) 0

def walkExtents (l : List Word) : List Nat := ((List.range (spDims l)).drop (lowDim l)).map (spExtent l)

/-- Stops after the e-th step of the walk, lowest level first: every dimension that has come round. -/
def stopsAt : List (Nat × Nat) → Nat → List Nat
  | [], _ => []
  | (n, lv) :: t, e => if e % n = 0 then (if lv = 0 then [] else [lv]) ++ stopsAt t (e / n) else []

/-- Stops due before element e (e ≥ 1). -/
def dueStops (l : List Word) (e : Nat) : List Nat :=
  if e = 0 ∨ spMode l = 1 then []
  else stopsAt (((List.range (spDims l)).drop (lowDim l)).map (fun d => (spExtent l d, spLevel l d))) e

def digitsOf : List Nat → Nat → List Nat
  | [], _ => []
  | n :: t, e => e % n :: digitsOf t (e / n)

/-- Address of element e (R206, R208). -/
def elemAddr (l : List Word) (e : Nat) : Int :=
  let ds := digitsOf (walkExtents l) e
  (streamBase l : Int) + (ds.zipIdx.map (fun x =>
    (if x.2 = 0 ∧ spMode l = 2 then (revDigits (spFactors l) x.1 : Nat) else x.1 : Nat) * spStride l x.2)).sum

/-- The walk has no element after number `e`. -/
def walkOver (l : List Word) (e : Nat) : Bool := spMode l != 1 && decide (product (walkExtents l) ≤ e)

/-- The stops of a walk after its step `e`. -/
def stopsAfter (l : List Word) (e : Nat) : List Nat :=
  (if lowDim l = 0 then [] else [spLevel l (lowDim l - 1)].filter (· != 0)) ++ dueStops l (e + 1)

/-- A saved stream at its element boundary (R266): a read stream has emitted the stops before the element, a write stream
still expects them. -/
def streamAt (l : List Word) (e : Nat) : Stream :=
  { spec := l, elem := e, emit := if spWrite l then dueStops l e else [], ended := decide (0 < e) && walkOver l e }

end Sys2Proof.Machine
end

