-- ==== Sys2Proof/Machine/SaveOps.lean ====
section
/-! DEFINITION. The save image of a thread (R265 to R269): its layout, writing it, and bringing its state back. -/
namespace Sys2Proof.Machine

/-! ## Save pools (R265) -/

/-- SVBASELO and SVBASEHI of a partition; SVLOG2 resets to 16. -/
def svLo (s : State) (p : Nat) : Nat := s.xl.svbase.get (16 * 2) (2 * p)
def svHi (s : State) (p : Nat) : Nat := s.xl.svbase.get 0 (2 * p + 1)
def svEn (s : State) (p : Nat) : Bool := (svLo s p).testBit 0
def svArea (s : State) (p : Nat) : Nat := 2 ^ max 16 (min 34 (bitsOf (svLo s p) 6 1))
/-- Save area of a thread. -/
def svVa (s : State) (p t : Nat) : Nat :=
  bitsOf (svLo s p) 31 13 * 2 ^ 13 + svHi s p % 2 ^ 21 * 2 ^ 32 + t * svArea s p

/-! ## Tokens of a context -/

/-- Tile mask of an engine of a block (R204, R334). -/
def tileMask (c : Ctx) (e : Nat) : Nat :=
  match c.block.routes.find? (fun r => rtKind r == 10 && bitsOf r.toNat 5 4 == e) with
  | some r => bitsOf r.toNat 21 6
  | none => 0

def maskTiles (m : Nat) : List Nat := (List.range 16).filter (fun t => m.testBit t)

/-- Source tags of the slot-operand edges into an operand, in order. -/
def srcTags (c : Ctx) (n pos : Nat) : List Nat :=
  let want : Target := .operand (posOfNat pos) (BitVec.ofNat 7 n)
  (List.range 128).flatMap (fun p =>
    let (t0, t1) := wordTargets ((c.block.insts.getD p 0).toNat)
    (if t0 = want then [2 * p] else []) ++ (if t1 = want then [2 * p + 1] else []))
where
  posOfNat (n : Nat) : Pos := match n with | 0 => .a | 1 => .b | 2 => .c | _ => .p

/-- Waits that a save withdraws (R266): kind, address, target. -/
def waitRec? (a : Acc) : Option (Nat × Nat × Nat) :=
  if a.phase ≠ .waiting then none
  else match a.kind with
    | .waitGe => some (1, if a.space = .sbuf then a.va else a.va + 2 ^ 63, wordsNat a.val)
    | .loadFull => some (if a.space = .cell then 2 else 3, a.va, 0)
    | .gwait => some (4, a.addr, 0)
    | _ => none

def isWait (a : Acc) : Bool := (waitRec? a).isSome

/-- Operations in the order of their numbers. -/
def byId : List Acc → List Acc
  | [] => []
  | a :: t => ins a (byId t)
where
  ins (a : Acc) : List Acc → List Acc
    | [] => [a]
    | b :: t => if a.id ≤ b.id then a :: b :: t else b :: ins a t

/-- The pending operations of a slot whose results have not left, in the order of its firings (R488). -/
def dueAt (s : State) (x : Site) : List Acc := byId (s.accs.filter (fun a => a.site == x && !a.done1))

/-- Entries that an operation of a context has reserved at a place. -/
def holesOf (s : State) (a : Acc) (place : Nat) : Nat := accReserve s a a.site.isl a.site.slot place

/-- Tokens of an operation's results for a place, as they would enter it. -/
def resultToks (s : State) (a : Acc) (place : Nat) : List Tok :=
  (resultOuts s a).flatMap (fun o =>
    let t := targetOfFlag a.t0 a.t1 o.1
    if targetPlace s a.site.isl a.site.slot a.site.cell t = some place then
      (outToks o.2 []).map (fun k => { k with src := match t with | .vc v => 256 + v.toNat | _ => 2 * (8 * a.site.cell + a.site.k) + flagNat o.1 })
    else [])

/-- Results of operations that stand in the entries reserved for them at a place of a context, behind waits of their slot, each with
the number of entries that those waits have reserved before it (R176, R488). -/
def lateAt (s : State) (isl σ cell place : Nat) : List (Tok × Nat) :=
  eight.flatMap (fun k => go (dueAt s { isl := isl, slot := σ, cell := cell, k := k }) 0)
where
  go : List Acc → Nat → List (Tok × Nat)
    | [], _ => []
    | a :: l, n =>
      if isWait a then go l (n + holesOf s a place)
      else (if n = 0 then [] else (resultToks s a place).map (fun t => (t, n))) ++ go l n

/-- A token entry of an image: cell, buffer code, position and token. -/
structure TokEnt where
  cell : Nat
  buf : Nat
  pos : Nat
  tok : Tok
  deriving DecidableEq, Repr

def entsOf (cell buf : Nat) (l : List Tok) : List TokEnt := l.zipIdx.map (fun e => { cell := cell, buf := buf, pos := e.2, tok := e.1 })

/-- The entries of a buffer: its tokens, and behind them results that wait for a withdrawn wait, in the places that they have with the
entries reserved for it (log entry 75). -/
def entsLate (cell buf : Nat) (l : List Tok) (late : List (Tok × Nat)) : List TokEnt :=
  entsOf cell buf l ++ late.zipIdx.map (fun e => { cell := cell, buf := buf, pos := l.length + e.2 + e.1.2, tok := e.1.1 })

/-- A token of a VC. -/
def onVc (vc : Nat) (t : Tok) : Tok := { t with src := 256 + vc }

/-- Stops before the next element that a write stream has taken in: it is saved as if it had not (R266). -/
def stopsTaken (r : Stream) (due : List Nat) : List Tok :=
  if (r.spec.getD 0 0).toNat.testBit 2 then (due.take (due.length - r.emit.length)).map (fun l => stopTok l []) else []

/-- Tokens of a thread that the port of a unit has taken in and not used. -/
def unitHeld (s : State) (t : Option Nat) (src : Nat) (due : Stream → List Nat) : Dest → List Tok
  | .gen d ag p =>
    let g := s.gens.get {} (64 * d + ag)
    if g.thread ≠ t then []
    else if p = 0 then g.specQ
    else if p = 1 then (match g.run with | some r => if spMode r.spec = 1 then r.emit.map (fun l => stopTok l []) else [] | none => []) ++ g.idxQ
    else (match g.run with | some r => stopsTaken r (due r) | none => []) ++ g.dataQ
  | .sport d sp =>
    let p := s.sports.get {} (64 * d + sp)
    if p.thread ≠ t then [] else p.inQ
  | .ce d n =>
    (((s.ces.get {} (8 * d + n)).gather.filter (fun g => g.1 == src)).flatMap (fun g => g.2)).map (fun w => scalarTok w.toNat [])
  | _ => []

/-- Tokens of a context's VC that a unit, an engine port or a leg has taken in and not used, oldest first: they go back to the
switchbox. -/
def takenIn (s : State) (isl σ cell vc : Nat) (due : Stream → List Nat) : List Tok :=
  let c := ctxAt s isl σ
  let unit (d : Dest) : List Tok := unitHeld s c.thread (vcSource isl σ cell vc) due d
  match vcDest s c isl cell vc with
  | some (.circuit n) =>
    let l := legAt s n
    (match l.dest with | some d => if l.direct then unit d else [] | none => [])
      ++ (s.flights.filter (fun f => f.isl == isl && f.slot == σ && f.place == 8192 + viaKey cell vc)).map (fun f => f.tok)
      ++ l.waiting
  | some (.buf _ _ k) => if 1152 ≤ k ∧ k < 1168 then bufOf c k else []
  | some d => unit d
  | none => []

/-- Side under which the tokens of a VC to another die or a unit are saved: the one its path leaves by. -/
def upSide (s : State) (isl σ cell vc : Nat) : Nat :=
  match vcDest s (ctxAt s isl σ) isl cell vc with
  | some (.circuit n) => if ((legAt s n).path.headD 0) % 2 = 0 then 1 else 3
  | _ => 0

/-- Tokens in flight at a place of a context, those that wait to enter it last. -/
def standing (s : State) (isl σ p : Nat) : List Tok :=
  (s.flights.filter (fun f => f.isl == isl && f.slot == σ && f.place == p)
    ++ s.flights.filter (fun f => f.isl == isl && f.slot == σ && f.place == 4096 + p)).map (fun f => f.tok)

/-- Tokens of a cell's switchbox on one side: those that stand in it, by VC those that a unit or leg has taken in, and those
that wait for it. -/
def sideToks (s : State) (isl σ cell side : Nat) (due : Stream → List Nat) : List Tok :=
  let at_ := standing s isl σ
  at_ (swKey cell side) ++ (if side = 0 then at_ (swKey cell 4) else [])
    ++ (List.range 32).flatMap (fun vc =>
        if upSide s isl σ cell vc = side then ((takenIn s isl σ cell vc due) ++ at_ (viaKey cell vc)).map (onVc vc) else [])

/-- Results that wait behind a withdrawn wait in a cell's switchbox, by side. -/
def sideLate (s : State) (isl σ cell side : Nat) : List (Tok × Nat) :=
  lateAt s isl σ cell (swKey cell side) ++ (if side = 0 then lateAt s isl σ cell (swKey cell 4) else [])
    ++ (List.range 32).flatMap (fun vc => if upSide s isl σ cell vc = side then lateAt s isl σ cell (viaKey cell vc) else [])

def switchToks (s : State) (isl σ cell : Nat) (due : Stream → List Nat) : List TokEnt :=
  [0, 1, 2, 3].flatMap (fun side => entsLate cell (2 * 2 ^ 14 + side) (sideToks s isl σ cell side due) (sideLate s isl σ cell side))

/-- Tokens that a strait has brought for a VC's buffer, or that a unit's circuit holds for it. -/
def lateToks (s : State) (isl σ cell vc : Nat) : List Tok :=
  let d : Dest := .buf isl σ (vcKey cell vc)
  (s.flights.filter (fun f => f.isl == isl && f.slot == σ && f.place == 3072 && f.dest == d)).map (fun f => f.tok)
    ++ s.straits.legs.flatMap (fun l => if l.2.direct && l.2.dest == some d then l.2.waiting else [])

/-- Token entries of a cell in the order of R268. In an operand buffer the sideband's VC field holds the number of the
edge the token came over. -/
def cellToks (s : State) (isl σ cell : Nat) (due : Stream → List Nat) : List TokEnt :=
  let c := ctxAt s isl σ
  let ops := (List.range 32).flatMap (fun i =>
    let k := opKey (8 * cell + i / 4) (i % 4)
    let tags := srcTags c (8 * cell + i / 4) (i % 4)
    let tag (t : Tok) : Tok := { t with src := 256 + tags.findIdx (· == t.src) }
    entsLate cell i ((bufOf c k ++ standing s isl σ k).map tag) ((lateAt s isl σ cell k).map (fun e => (tag e.1, e.2))))
  let vcs := (List.range 32).flatMap (fun vc =>
    entsLate cell (2 ^ 14 + vc) ((bufOf c (vcKey cell vc) ++ lateToks s isl σ cell vc ++ standing s isl σ (vcKey cell vc)).map (onVc vc))
      (lateAt s isl σ cell (vcKey cell vc)))
  ops ++ vcs ++ switchToks s isl σ cell due ++ entsOf cell (3 * 2 ^ 14) (bufOf c (latchKey cell))

def tokBytes (σ : Nat) (e : TokEnt) : List Byte :=
  leBytes 32 e.tok.data.toNat ++ leBytes 2 (sideband σ e.tok) ++ leBytes 2 e.buf ++ leBytes 1 e.cell ++ leBytes 1 (e.pos % 8)
    ++ List.replicate 10 0

def ctxToks (s : State) (isl σ : Nat) (due : Stream → List Nat) : List TokEnt := (List.range 16).flatMap (fun n => cellToks s isl σ n due)

/-! ## Records -/

def padTo64 (l : List Byte) : List Byte := l ++ List.replicate ((64 - l.length % 64) % 64) 0

/-- 1,024 bytes of weight planes: bit plane·1024 + 32·i + n. -/
def planeBytes (w : WeightSet) : List Byte :=
  (List.range 1024).map (fun b => BitVec.ofNat 8 ((List.range 8).map (fun i => if w.planes.get false (8 * b + i) then 2 ^ i else 0)).sum)

/-- Handler resume state (R469). Of a packet whose words are incomplete the row field holds how many have come (log entry 15). -/
def resumeBytes (g : EngCtx) : List Byte :=
  leBytes 1 g.mop ++ leBytes 1 (flagNat g.busy + 2 * flagNat g.pass2 + 4 * (g.autoS % 4))
    ++ leBytes 2 (if g.taken && !g.busy then g.got else g.row) ++ leBytes 1 g.tag
    ++ leBytes 1 (if g.taken || g.busy then g.nparam else 0) ++ leBytes 2 0 ++ ((List.range 8).map (fun i => leBytes 4 (g.pw.get 0 i).toNat)).flatten
    ++ leBytes 4 g.msk.toNat ++ leBytes 4 g.act.desc.toNat ++ leBytes 4 g.shadow.desc.toNat ++ List.replicate 12 0

/-- Physical tile status entry of a context's tile. -/
def tileIdx (s : State) (isl σ e t : Nat) : Nat :=
  16 * (4 * isl + e) + (if isl < 256 ∧ ownerOf s isl = 0 ∧ 4 ≤ σ then (t + 8) % 16 else t)

def tileRec (s : State) (i : Nat) : Nat × Bool × Nat := s.physT.get (0, false, 0) i

/-- Contents of a context's tile; zeros if another thread named it since (R445). -/
def ownTile (s : State) (isl σ e t : Nat) : Bool :=
  some (tileRec s (tileIdx s isl σ e t)).2.2 = (ctxAt s isl σ).thread.map (· + 1)

def tileStatus (s : State) (isl σ e : Nat) : List Byte :=
  ((List.range 16).map (fun t =>
    let r := tileRec s (tileIdx s isl σ e t)
    leBytes 4 (if (tileMask (ctxAt s isl σ) e).testBit t && ownTile s isl σ e t then r.1 % 256 + 256 * flagNat r.2.1 else 0))).flatten

def engBytes (s : State) (isl σ e : Nat) : List Byte :=
  let g := (ctxAt s isl σ).eng.get {} e
  planeBytes g.act ++ planeBytes g.shadow ++ resumeBytes g ++ tileStatus s isl σ e

def fullByte (s : State) (k n : Nat) : Byte :=
  BitVec.ofNat 8 ((List.range 8).map (fun i => if i < n ∧ isFull s (k + 4 * i) then 2 ^ i else 0)).sum

/-- An island record (R268). -/
def islandRec (s : State) (isl σ : Nat) (due : Stream → List Nat) : List Byte :=
  let c := ctxAt s isl σ
  let toks := ctxToks s isl σ due
  let cells := List.range 16
  leBytes 2 isl ++ leBytes 1 σ ++ leBytes 1 0 ++ leBytes 4 toks.length
    ++ (cells.map (fun n => leBytes 2 (winLen c n / 64))).flatten ++ List.replicate 24 0
    ++ (cells.flatMap (fun n => (eight.map (fun k => leBytes 4 (keepOf c n k).toNat)).flatten))
    ++ (cells.flatMap (fun n => (eight.map (fun k => leBytes 4 (scaleOf c n k).toNat)).flatten))
    ++ ((List.range 2048).map (fun i => leBytes 4 (c.opst.get 0 i).toNat)).flatten
    ++ ([0, 1, 2, 3].map (engBytes s isl σ)).flatten
    ++ padTo64 ((toks.map (tokBytes σ)).flatten)
    ++ padTo64 (cells.flatMap (fun n => (List.range (winLen c n / 8)).map (fun b => fullByte s (winKey s isl σ c n (8 * b)) 8)))
    ++ cells.flatMap (fun n => rdBytes s (winKey s isl σ c n 0) (4 * winLen c n))
    ++ ([0, 1, 2, 3].flatMap (fun e => (maskTiles (tileMask c e)).flatMap (fun t =>
        if ownTile s isl σ e t then rdBytes s (tileBase + 8192 * tileIdx s isl σ e t) 8192 else List.replicate 8192 0)))

/-- Streams of a thread in progress, with their generators (64·die + ag). -/
def threadGens (s : State) (t : Nat) : List (Nat × Stream) :=
  s.gens.filterMap (fun g => if g.2.thread = some t then g.2.run.map (fun r => (g.1, r)) else none)

/-- A generator record (R267): a stream is saved at its element boundary. -/
def genRec (g : Nat × Stream) : List Byte :=
  ((List.range 12).map (fun i => leBytes 4 (g.2.spec.getD i 0).toNat)).flatten ++ leBytes 8 g.2.elem ++ leBytes 1 (g.1 % 64)
    ++ leBytes 1 (g.1 / 64) ++ List.replicate 6 0

def threadCopies (s : State) (t : Nat) : List (Nat × CopyReq) :=
  s.ces.flatMap (fun e => (e.2.aside.filter (fun r => r.owner == t)).map (fun r => (e.1, r)))

def copyRec (e : Nat × CopyReq) : List Byte :=
  leBytes 8 e.2.src ++ leBytes 8 e.2.dst ++ leBytes 8 (e.2.len + 2 ^ 32 * flagNat e.2.waitFull + 2 ^ 33 * flagNat e.2.consume)
    ++ leBytes 8 e.2.ctr ++ leBytes 8 e.2.unit ++ leBytes 1 (e.1 % 8) ++ leBytes 1 (e.1 / 8) ++ List.replicate 22 0

def waitBytes (s : State) (a : Acc) : List Byte :=
  match waitRec? a with
  | some (k, addr, target) =>
    leBytes 1 k ++ leBytes 1 (ctxAt s a.site.isl a.site.slot).blkIdx ++ leBytes 1 a.site.cell ++ leBytes 1 (8 * a.site.cell + a.site.k)
      ++ leBytes 1 (flagNat a.cons + 2 * flagNat a.vec) ++ leBytes 3 0 ++ leBytes 8 addr ++ leBytes 8 target ++ List.replicate 40 0
  | none => []

/-- The waits of a thread in the order of their firings: those of one slot are issued again in it (R488). -/
def threadWaits (s : State) (t : Nat) : List Acc :=
  byId (s.accs.filter (fun a => a.thread == t && decide (a.site.isl < 256) && isWait a))

/-- The contexts that a thread's image has records of: those of the frame that it has entered, and none of one whose load has not
ended or holds a fault; a restore enters such a frame afresh. -/
def recSlots (s : State) (t : Nat) : List (Nat × Nat) :=
  let l := (threadAt s t).slots
  if l.all (fun x => (ctxAt s x.1 x.2).st == .halted || (ctxAt s x.1 x.2).st == .active) then l else []

def imageBody (s : State) (t : Nat) (due : Stream → List Nat) : List Byte :=
  ((threadGens s t).map genRec).flatten ++ ((threadCopies s t).map copyRec).flatten ++ ((threadWaits s t).map (waitBytes s)).flatten
    ++ ((recSlots s t).map (fun x => islandRec s x.1 x.2 due)).flatten

/-- The image of a thread (R267, R268). -/
def imageOf (s : State) (t : Nat) : List Byte :=
  let th := threadAt s t
  let body := imageBody s t (fun r => dueStops r.spec r.elem)
  leBytes 4 0x31565341 ++ leBytes 2 1 ++ leBytes 2 t ++ leBytes 4 th.frameId ++ leBytes 4 (256 + body.length) ++ leBytes 8 th.frame
    ++ leBytes 2 th.hist ++ leBytes 1 (th.exit.getD 0xFF) ++ leBytes 1 th.nslot ++ leBytes 1 th.h ++ leBytes 1 th.w
    ++ leBytes 1 th.orow ++ leBytes 1 th.ocol ++ leBytes 8 th.lastTime ++ leBytes 1 (threadGens s t).length
    ++ leBytes 1 (threadCopies s t).length ++ leBytes 2 (threadWaits s t).length ++ List.replicate 212 0 ++ body

/-- A thread can be saved: its partition's pool is enabled and its image fits its area (R265). -/
def saveable (s : State) (t : Nat) : Bool :=
  svEn s (threadAt s t).part && decide ((imageOf s t).length ≤ svArea s (threadAt s t).part)

/-! ## Saving (R266, R269) -/

/-- Write bytes at a VA of a space, page by page; the fault that stops it. -/
def writeVa (s : State) (i p : Nat) : Nat → Nat → List Byte → Except (Nat × Nat × Nat) Unit × State
  | 0, _, _ => (.ok (), s)
  | n + 1, va, l =>
    match l with
    | [] => (.ok (), s)
    | _ =>
      let k := 8192 - va % 8192
      if 2 ^ 53 ≤ va then (.error (0x9001, va, xDetail 0 .write false), s)
      else match translate s i p va .write with
        | (.fault c d, s) => (.error (c, va, d), s)
        | (.ok a host, s) =>
          match (if host then hostAsks s p true 20 a (min k l.length) else (true, s)) with
          | (false, s) => (.error (0x9005, va, 0), s)
          | (true, s) => writeVa (writeLines (wrBytes s (physKey a host) (l.take k)) (physKey a host) (min k l.length)) i p n (va + k) (l.drop k)

/-- Read bytes at a VA of a space. -/
def readVa (s : State) (i p : Nat) (k : XKind) : Nat → Nat → Nat → Except (Nat × Nat × Nat) (List Byte) × State
  | 0, _, _ => (.ok [], s)
  | f + 1, va, n =>
    if n = 0 then (.ok [], s)
    else
      let m := min n (8192 - va % 8192)
      if 2 ^ 53 ≤ va then (.error (0x9001, va, xDetail 0 k false), s)
      else match translate s i p va k with
        | (.fault c d, s) => (.error (c, va, d), s)
        | (.ok a host, s) =>
          match (if host then hostAsks s p false 4 a m else (true, s)) with
          | (false, s) => (.error (0x9005, va, 0), s)
          | (true, s) =>
            match readCheck s (physKey a host) ((m + 3) / 4) with
            | (.good, s) =>
              (match readVa s i p k f (va + m) (n - m) with
               | (.error e, s) => (.error e, s)
               | (.ok l, s) => (.ok (rdBytes s (physKey a host) m ++ l), s))
            | (_, s) => (.error (0x9006, va, 0), s)

def pagesFor (n : Nat) : Nat := n / 8192 + 2

/-- A stream stands at its element boundary (R266): nothing that it has issued is outstanding; one that is over, or that has no
element, ends first, unless it is a write stream that still expects stops. -/
def atBoundary (r : Stream) : Bool := r.pipe == [] && (!r.ended || r.emit != []) && decide (lowDim r.spec = 0)

/-- The reply of an owner update of the thread has no room while its contexts are halted: the update is saved as its tokens. -/
def updateStuck (s : State) (t : Nat) : Bool :=
  (threadAt s t).slots.any (fun x => (List.range 16).any (fun cell =>
    (ownSlots (ctxAt s x.1 x.2) cell).any (fun k => !replyRoom s x.1 x.2 cell k)))

/-- A pending operation that a save does not wait for: a wait that another agent ends; results that stand in their reserved entries
behind such a wait of their slot; an owner update whose reply has no room; a request whose words are saved as tokens. -/
def savedAsIs (s : State) (a : Acc) : Bool :=
  isWait a || (a.kind == .update && updateStuck s a.thread) || (a.kind == .request && a.phase != .performed)
    || (a.phase == .performed && !a.done1 && s.accs.any (fun b => b.site == a.site && isWait b && decide (b.id < a.id))
        && [a.t0, a.t1].all (fun t => match t with | .keep _ => false | _ => true))

/-- A copy engine holds a whole request of the thread that it has not taken up (R216, R266). -/
def requestHeld (s : State) (t : Nat) : Bool :=
  s.ces.any (fun e => e.2.gather.any (fun g => decide (8 ≤ g.2.length) && (ctxAt s (g.1 / 4096) (g.1 / 512 % 8)).thread == some t))

/-- Nothing that a save waits for is left (R266): no operation but waits that another agent ends, no copy but one set aside
with no unit in flight, no stream within an element, no replay and no unhandled failure, no unacknowledged stripe, no token on a
crossbar wire. -/
def saveQuiet (s : State) (t : Nat) : Bool :=
  let th := threadAt s t
  !s.accs.any (fun a => a.thread == t && decide (a.site.isl < 256) && !savedAsIs s a) && !requestHeld s t
    && s.ces.all (fun e => (e.2.pendingQ ++ e.2.run.toList).all (fun r => r.owner != t)
        && e.2.aside.all (fun r => r.owner != t || r.inFlight == []))
    && (threadGens s t).all (fun g => atBoundary g.2)
    && th.slots.all (fun x =>
        (ctxAt s x.1 x.2).legs.all (fun l => (legAt s l.2).unacked == [])
          && (ctxAt s x.1 x.2).eng.all (fun e => e.2.left == [])
          && !s.chks.any (fun r => r.isl == x.1 && r.slot == x.2) && !s.rel.fails.any (fun f => f.isl == x.1)
          && !s.flights.any (fun f => f.isl == x.1 && f.slot == x.2 && decide (f.place < 2048)))

/-- The save reads the windows of cells (island, slot, cell): the first word among them that is poisoned or reads as uncorrectable
(R285, log entry 65). -/
def readWins : List (Nat × Nat × Nat) → State → Option Nat × State
  | [], s => (none, s)
  | (i, σ, n) :: r, s =>
    let c := ctxAt s i σ
    match readCheck s (winKey s i σ c n 0) (winLen c n) with
    | (.good, s) => readWins r s
    | (.poisoned j, s) => (some j, s)
    | (.bad, s) => (some 0, s)

/-- The thread's image is written, its circuits, contexts and units are released, and it enters SAVED. A resumable fault
of the writing is recorded with SAVE = 1 and the save stalls; any other stops the thread with FLT_SAVE (R269). -/
def execContextSave (thread : Nat) (s : State) : Out :=
  let th := threadAt s thread
  if !th.saving ∨ th.stop ≠ none ∨ th.resumable.any (fun r => r.save) ∨ (th.st ≠ .preempted ∧ th.st ≠ .parked) ∨ !saveQuiet s thread then .next s
  else if !saveable s thread then .next (modThread (threadFault s thread { code := 0x9034, save := true }) thread (fun x => { x with saving := false }))
  else
    let s := cancelLoads s (fun l => l.thread == some thread) s.sched.loads
    let s := discardAll s (slotsWhere s (fun i σ c => decide (i < 256) && c.thread == some thread && !th.slots.contains (i, σ)))
    match readWins ((recSlots s thread).flatMap (fun x => (List.range 16).map (fun n => (x.1, x.2, n)))) s with
    | (some a, s) => .next (threadFault s thread { code := 0x9034, save := true, addr := a, detail1 := 0x9033 })
    | (none, s) =>
      let img := imageOf s thread
      match writeVa s (tlbOf (fabricIsl th.orow th.ocol)) th.part (pagesFor img.length) (svVa s th.part thread) img with
      | (.error (c, va, d), s) =>
        if resumableCode c then .next (threadFault s thread { code := c, save := true, addr := va, detail1 := d })
        else .next (threadFault s thread { code := 0x9034, save := true, addr := va, detail1 := c })
      | (.ok _, s) =>
        .next (modThread (agePosted (discardThread s thread) thread) thread (fun x => { x with st := .saved, saving := false, slots := [] }))

/-! ## Restoring (R266, R269) -/

def byteF (b : List Byte) (i n : Nat) : Nat := leNat ((b.drop i).take n)

/-- Bytes of the island record of a context of a block, given its token count. -/
def recLen (c : Ctx) (n : Nat) : Nat :=
  let wl := ((List.range 16).map (winLen c)).sum
  17984 + (48 * n + 63) / 64 * 64 + (wl / 8 + 63) / 64 * 64 + 4 * wl
    + 8192 * ([0, 1, 2, 3].map (fun e => (maskTiles (tileMask c e)).length)).sum

/-- A token of an image entry. -/
def tokFrom (b : List Byte) : Tok :=
  let sb := byteF b 32 2
  { data := BitVec.ofNat 256 (byteF b 0 32), stop := bitsOf sb 5 3, src := 256 + bitsOf sb 10 6,
    kind := match bitsOf sb 12 11 with | 0 => .scalar | 1 => .vector | 2 => .bound | _ => .permit }

/-- The islands and places that a token passes from where it stands. -/
def waysOf (s : State) : Nat → Flight → List (Nat × Nat)
  | 0, _ => []
  | n + 1, f =>
    (f.isl, f.place) :: (match nextPlace s f with
      | some (i, σ, k) => if 2048 ≤ k then waysOf s n { f with isl := i, slot := σ, place := k } else []
      | none => [])

/-- The destination of the edge over VC `vc` whose tokens pass a side of a cell's switchbox: the first one in the order of the
region's contexts and cells (log entry 66). -/
def edgeThrough (s : State) (t : Option Nat) (isl cell side vc : Nat) : Option Dest :=
  let slots := match t with | some t => (threadAt s t).slots | none => []
  (slots.flatMap (fun x => (List.range 16).filterMap (fun n =>
    match vcDest s (ctxAt s x.1 x.2) x.1 n vc with
    | some (.buf i σ k) =>
      let d : Dest := .buf i σ k
      let f : Flight := { dest := d, tok := {}, isl := x.1, slot := x.2, place := placeOf x.1 n vc d }
      if (waysOf s 200 f).contains (isl, swKey cell side) then some d else none
    | _ => none))).head?

/-- Where a token of a switchbox's buffer goes back to: to wait for its unit or circuit, into the buffer of its side, or into its
engine's port. -/
def backTo (s : State) (isl σ cell side vc : Nat) : Option (Nat × Dest) :=
  let c := ctxAt s isl σ
  match vcDest s c isl cell vc with
  | some (.buf i τ k) =>
    if 1152 ≤ k ∧ k < 1168 then some (k, .buf i τ k)
    else if placeOf isl cell vc (.buf i τ k) = swKey cell side then some (swKey cell side, .buf i τ k)
    else (edgeThrough s c.thread isl cell side vc).map (fun d => (swKey cell side, d))
  | some d => if upSide s isl σ cell vc = side then some (viaKey cell vc, d) else (edgeThrough s c.thread isl cell side vc).map (fun d => (swKey cell side, d))
  | none => (edgeThrough s c.thread isl cell side vc).map (fun d => (swKey cell side, d))

/-- A form that may wait for another agent. -/
def waitForm : Instr → Bool
  | .waitge _ | .ldcf _ | .ldsf _ | .gwait _ => true
  | _ => false

/-- The slot of a cell, and its target, whose results leave on a VC behind a wait. -/
def lateVc (c : Ctx) (cell vc : Nat) : Option (Nat × Bool) :=
  eight.findSome? (fun k =>
    let w := (c.block.insts.getD (8 * cell + k) 0).toNat
    let (t0, t1) := wordTargets w
    let at_ (t : Target) : Bool := match t with | .vc v => v.toNat == vc | _ => false
    match decodeOp w with
    | .ok i => if !waitForm i then none else if at_ t0 then some (k, false) else if at_ t1 then some (k, true) else none
    | .error _ => none)

/-- A token of an image that stood behind `n` entries of a withdrawn wait is a result of its slot that has not left; it has its number
when the waits are there. -/
def putLate (isl σ cell k : Nat) (which : Bool) (t : Tok) (n : Nat) (s : State) : State :=
  let c := ctxAt s isl σ
  let (t0, t1) := wordTargets ((c.block.insts.getD (8 * cell + k) 0).toNat)
  let a : Acc := { id := 0, site := { isl := isl, slot := σ, cell := cell, k := k }, thread := c.thread.getD 0,
                   firing := firingNo c (8 * cell + k) - 1, kind := .late t.stop, space := .sys, addr := n, va := 0, n := 1,
                   val := natWords 8 t.data.toNat, vec := t.kind == .vector, phase := .performed,
                   t0 := if which then .none else t0, t1 := if which then t1 else .none }
  { s with accs := s.accs ++ [a] }

/-- Put the tokens of an image back, in their saved order; `at_` is the buffer of the last one and how many of its tokens have been
put. -/
def putToks (isl σ : Nat) (at_ : Nat × Nat × Nat) : Nat → List Byte → State → State
  | 0, _, s => s
  | n + 1, b, s =>
    let t := tokFrom b
    let code := byteF b 34 2
    let cell := byteF b 36 1
    let i := if at_.1 = cell ∧ at_.2.1 = code then at_.2.2 else 0
    let holes := (byteF b 37 1 + 8 - i % 8) % 8
    let late := if holes = 0 then none
      else if code / 2 ^ 14 = 0 then
        ((srcTags (ctxAt s isl σ) (8 * cell + code / 4 % 8) (code % 4))[t.src - 256]?).map (fun p => (p / 2 % 8, p % 2 == 1))
      else lateVc (ctxAt s isl σ) cell (t.src - 256)
    let app (s : State) (k : Nat) (t : Tok) : State := modCtx s isl σ (fun c => setBuf c k (bufOf c k ++ [t]))
    let s :=
      if let some (k, which) := late then putLate isl σ cell k which t holes s
      else if code / 2 ^ 14 = 0 then
        let m := 8 * cell + code / 4 % 8
        app s (opKey m (code % 4)) { t with src := (srcTags (ctxAt s isl σ) m (code % 4)).getD (t.src - 256) 512 }
      else if code / 2 ^ 14 = 1 then app s (vcKey cell (code % 32)) t
      else if code / 2 ^ 14 = 2 then
        match backTo s isl σ cell (code % 4) (t.src - 256) with
        | some (p, d) => sendTo s isl σ p d t
        | none => s
      else app s (latchKey cell) t
    putToks isl σ (cell, code, i + 1) n (b.drop 48) s

def planesFrom (b : List Byte) : Tab Bool :=
  (List.range 8192).foldr (fun i t => if (b.getD (i / 8) 0).toNat.testBit (i % 8) then (i, true) :: t else t) []

def engFrom (b : List Byte) : EngCtx :=
  let r := b.drop 2048
  let busy := (byteF r 1 1).testBit 0
  let np := byteF r 5 1
  let taken := busy || np != 0
  { act := { planes := planesFrom b, desc := BitVec.ofNat 32 (byteF r 44 4) },
    shadow := { planes := planesFrom (b.drop 1024), desc := BitVec.ofNat 32 (byteF r 48 4) },
    pw := (List.range 8).foldl (fun t i => t.set 0 i (BitVec.ofNat 32 (byteF r (8 + 4 * i) 4))) [],
    msk := BitVec.ofNat 32 (byteF r 40 4), mop := byteF r 0 1, busy := busy, pass2 := (byteF r 1 1).testBit 1,
    autoS := bitsOf (byteF r 1 1) 3 2, row := if busy then byteF r 2 2 else 0, tag := byteF r 4 1, nparam := np,
    got := if busy then np else byteF r 2 2, taken := taken, work := if taken then [.handler] else [] }

/-- Restore the status and contents of a context's tiles: `st` the four status blocks, `b` the tile bytes. -/
def putTiles (isl σ : Nat) (st : Nat → List Byte) : List (Nat × Nat) → List Byte → State → State
  | [], _, s => s
  | (e, t) :: r, b, s =>
    let i := tileIdx s isl σ e t
    let w := byteF ((st e).drop (4 * t)) 0 4
    let me := match (ctxAt s isl σ).thread with | some t => t + 1 | none => 0
    let s := { s with physT := s.physT.set (0, false, 0) i (w % 256, w.testBit 8, me) }
    putTiles isl σ st r (b.drop 8192) (wrBytes s (tileBase + 8192 * i) (b.take 8192))

/-- Restore full-empty bits of `n` words. -/
def putFull (k : Nat) : Nat → List Byte → State → State
  | 0, _, s => s
  | n + 1, b, s => setFull (putFull k n b s) (k + 4 * n) ((b.getD (n / 8) 0).toNat.testBit (n % 8))

/-- Restore the windows of cells `cells`: full-empty bytes and words, which are written whole (R285). -/
def putWins (isl σ : Nat) (c : Ctx) : List Nat → List Byte → List Byte → State → State
  | [], _, _, s => s
  | n :: r, fb, wb, s =>
    let l := winLen c n
    let k := winKey s isl σ c n 0
    putWins isl σ c r (fb.drop (l / 8)) (wb.drop (4 * l)) (putFull k l fb (writtenBank (wrBytes s k (wb.take (4 * l))) k l))

/-- Restore one context from its island record. -/
def putIsland (isl σ : Nat) (b : List Byte) (s : State) : State :=
  let n := byteF b 4 4
  let words (off m : Nat) : Tab Word := (List.range m).foldl (fun t i => t.set 0 i (BitVec.ofNat 32 (byteF b (off + 4 * i) 4))) []
  let engs := b.drop 9280
  let s := modCtx s isl σ (fun c => { c with
    begun := true, keeps := words 64 128, scales := words 576 128, opst := words 1088 2048, bufs := [], sdeps := [], hist := [],
    eng := [0, 1, 2, 3].foldl (fun t e => t.set {} e (engFrom (engs.drop (2176 * e)))) [] })
  let c := ctxAt s isl σ
  let wl := ((List.range 16).map (winLen c)).sum
  let fb := b.drop (17984 + (48 * n + 63) / 64 * 64)
  let wb := fb.drop ((wl / 8 + 63) / 64 * 64)
  let s := putWins isl σ c (List.range 16) fb wb s
  let s := putTiles isl σ (fun e => engs.drop (2176 * e + 2112))
    ([0, 1, 2, 3].flatMap (fun e => (maskTiles (tileMask c e)).map (fun t => (e, t)))) (wb.drop (4 * wl)) s
  putToks isl σ (16, 0, 0) n (b.drop 17984) s

def putIslands : List (Nat × Nat) → List Byte → State → State
  | [], _, s => s
  | (i, σ) :: r, b, s => putIslands r (b.drop (recLen (ctxAt s i σ) (byteF b 4 4))) (putIsland i σ b s)

/-- Reissue a withdrawn wait at its slot (R266). -/
def putWait (t : Nat) (slots : List (Nat × Nat)) (b : List Byte) (s : State) : State :=
  match slots[byteF b 1 1]? with
  | none => s
  | some (i, σ) =>
    let c := ctxAt s i σ
    let site : Site := { isl := i, slot := σ, cell := byteF b 2 1, k := byteF b 3 1 % 8 }
    let addr := byteF b 8 8
    let (t0, t1) := wordTargets ((c.block.insts.getD (byteF b 3 1) 0).toNat)
    let vec := (byteF b 4 1).testBit 1
    let a : Acc := { id := s.nextAcc, site := site, thread := t, firing := firingNo c (byteF b 3 1) - 1, kind := .loadFull,
                     space := .sys, addr := addr, va := addr % 2 ^ 63, n := if vec then 16 else 1, t0 := t0, t1 := t1, vec := vec,
                     cons := (byteF b 4 1).testBit 0, since := s.dtime, part := (threadAt s t).part }
    let put (s : State) (a : Acc) : State := { s with accs := s.accs ++ [a], nextAcc := s.nextAcc + 64 }
    match byteF b 0 1 with
    | 1 =>
      let w := { a with kind := .waitGe, n := 1, vec := false, val := natWords 2 (byteF b 16 8) }
      if addr.testBit 63 then
        match translateCell s i c (addr % 2 ^ 53) .read with
        | (.ok p host, s) => put s { w with addr := physKey p host, space := if host then .host else .hbm }
        | (.fault code d, s) => raiseAt (put s { w with space := .hbm, phase := .held }) site w.firing code (addr % 2 ^ 63) d 0
      else put s { w with addr := sbufBase + addr, space := .sbuf }
    | 2 => put s { a with space := .cell, addr := winKey s i σ c site.cell addr }
    | 3 => put s { a with space := .sbuf, addr := sbufBase + addr }
    | _ => put s { a with kind := .gwait, n := 1 }

def putWaits (t : Nat) (slots : List (Nat × Nat)) : Nat → List Byte → State → State
  | 0, _, s => s
  | n + 1, b, s => putWaits t slots n (b.drop 64) (putWait t slots b s)

/-- The number of a result that stood behind `n` reserved entries at its place: after the wait that reserved the last of them, and
after those of the same wait that have theirs. -/
def lateId (s : State) (a : Acc) (j i : Nat) : Nat :=
  match targetPlace s a.site.isl a.site.slot a.site.cell (if a.t0 = .none then a.t1 else a.t0) with
  | none => s.nextAcc + i
  | some p => go p a.addr (dueAt s a.site)
where
  go (p : Nat) : Nat → List Acc → Nat
    | _, [] => s.nextAcc + i
    | n, b :: l =>
      if !isWait b then go p n l
      else if n ≤ holesOf s b p then b.id + 1 + j
      else go p (n - holesOf s b p) l

/-- The results behind withdrawn waits take their numbers among those of their slots. -/
def placeLate (s : State) : State :=
  let late (a : Acc) : Bool := a.id == 0 && (match a.kind with | .late _ => true | _ => false)
  { s with accs := s.accs.zipIdx.map (fun x => if late x.1 then { x.1 with id := lateId s x.1 ((s.accs.take x.2).filter (fun a => late a && a.site == x.1.site)).length x.2 } else x.1),
           nextAcc := s.nextAcc + s.accs.length }

/-- Words of a request group (R416). -/
def groupSize : Instr → Option (OpA × Nat)
  | .stream w => some (w, 12)
  | .copy w => some (w, 8)
  | _ => none

/-- The request groups whose words an image holds are pending again: the completion token of each leaves as it would have
(R417). -/
def putRequests (t i σ : Nat) : List Nat → State → State
  | [], s => s
  | n :: r, s =>
    let c := ctxAt s i σ
    let s := match decodeOp ((c.block.insts.getD n 0).toNat) with
      | .ok ins =>
        (match groupSize ins with
         | some (w, g) =>
           (match w.t0 with
            | .vc v =>
              let m := (standing s i σ (viaKey (n / 8) v.toNat)).length / g
              let a : Acc := { id := 0, site := { isl := i, slot := σ, cell := n / 8, k := n % 8 }, thread := t, firing := firingNo c n - 1,
                               kind := .request, space := .sys, addr := vcSource i σ (n / 8) v.toNat, va := 0, n := 1, t1 := w.t1,
                               since := s.dtime, part := (threadAt s t).part }
              { s with accs := s.accs ++ (List.range m).map (fun j => { a with id := s.nextAcc + j }), nextAcc := s.nextAcc + m }
            | _ => s)
         | none => s)
      | .error _ => s
    putRequests t i σ r s

/-- A saved stream goes back to its generator. -/
def putGens (t : Nat) (x : Nat × Nat) : Nat → List Byte → State → State
  | 0, _, s => s
  | n + 1, b, s =>
    let key := byteF b 56 1 % 64 + 64 * (byteF b 57 1 % 4)
    let spec := (List.range 12).map (fun i => BitVec.ofNat 32 (byteF b (4 * i) 4))
    putGens t x n (b.drop 64)
      { s with gens := s.gens.set {} key { s.gens.get {} key with thread := some t, isl := x.1, slot := x.2, run := some { streamAt spec (byteF b 48 8) with no := s.nextAcc } } }

def putCopies (t : Nat) (x : Nat × Nat) : Nat → List Byte → State → State
  | 0, _, s => s
  | n + 1, b, s =>
    let key := byteF b 40 1 % 8 + 8 * (byteF b 41 1 % 4)
    let q2 := byteF b 16 8
    let u := byteF b 32 8
    let r : CopyReq := { src := byteF b 0 8, dst := byteF b 8 8, len := q2 % 2 ^ 32, waitFull := q2.testBit 32,
                         consume := q2.testBit 33, ctr := byteF b 24 8, owner := t, packet := 0,
                         site := { isl := x.1, slot := x.2 }, unit := u, done := u, no := s.nextAcc }
    putCopies t x n (b.drop 64)
      { s with nextAcc := s.nextAcc + 1, ces := s.ces.set {} key { s.ces.get {} key with aside := (s.ces.get {} key).aside ++ [r] } }

/-- The header of an image is the thread's (R269). -/
def imageOk (b : List Byte) (t : Nat) : Bool :=
  byteF b 0 4 == 0x31565341 && byteF b 4 2 == 1 && byteF b 6 2 == t

/-- Bring a thread's image back onto its freshly loaded contexts. -/
def restoreImage (s : State) (t : Nat) (b : List Byte) : State :=
  let th := threadAt s t
  let ex := byteF b 26 1
  let s := modThread s t (fun th => { th with hist := byteF b 24 2 % 4096, exit := if ex < 8 then some ex else none, lastTime := byteF b 32 8 })
  let x := th.slots.headD (0, 0)
  let (ng, nc, nw) := (byteF b 40 1, byteF b 41 1, byteF b 42 2)
  let r := b.drop 256
  let isls := r.drop (64 * (ng + nc + nw))
  let s := if isls = [] then s else th.slots.foldl (fun s x => putRequests t x.1 x.2 (List.range 128) s) (putIslands th.slots isls s)
  let s := putCopies t x nc (r.drop (64 * ng)) (putGens t x ng r s)
  placeLate (putWaits t th.slots nw (r.drop (64 * (ng + nc))) s)

end Sys2Proof.Machine
end

