-- ==== Sys2Proof/Machine/SchedOps.lean ====
section
/-! DEFINITION. The launch scheduler (R133 to R167): launches and preloads, slot clocks, selection, placement and
pre-emption, lending and reclaiming, deadlines. -/
namespace Sys2Proof.Machine

/-! ## Retirement of LEND and RECLAIM (R157 to R161) -/

/-- A thread's region includes one of the islands. -/
def onIslands (th : Thread) (l : List Nat) : Bool := (thRegion th).any (fun i => l.contains i)

/-- Threads that occupy a region now or after a resumption. -/
def placed (th : Thread) : Bool :=
  match th.st with
  | .loading | .held | .running | .preempted | .parked => true
  | _ => false

/-- HELD threads all of whose islands are available to partition 0, clear and in no replay become RUNNING (R159, R280). -/
def wakeHeld (s : State) : List (Nat × Thread) → State
  | [] => s
  | (t, _) :: r =>
    let s := wakeHeld s r
    let th := threadAt s t
    if th.st = .held ∧ (thRegion th).all (fun i => mayRun s th.part i && !islFailing s i) ∧ islandsClear s th ∧ th.resumable = [] ∧ th.stop = none then runThread s t else s

/-- The islands of a LEND that are not lent yet. -/
def freshOf (s : State) (o : IslOp) : List Nat := if o.lend then o.islands.filter (fun i => lentOf s i == 0) else []

/-- A load goes on in slots 4 to 7 of an island that is lent: its thread is RUNNING, and the load is of its executing frame. -/
def staysOn (s : State) (l : Load) : Bool := l.exec && (match l.thread with | some t => (threadAt s t).st != .held | none => false)

/-- A load keeps its slots 4 to 7 on islands that are lent: the new tenant's, one of a thread of a third partition (which is saved
first), and one that goes on there. -/
def lendKeeps (s : State) (o : IslOp) (l : Load) : Bool := l.part == o.part || (l.part != 0 && l.thread.isSome) || staysOn s l

/-- LEND applied (R157): the islands are lent; a LOADING thread of partition 0 there is HELD (R138); predicted and preloaded
partition-0 contexts leave slots 4 to 7, as does what is being loaded there for a frame that does not execute, and what a third
partition has preloaded there for no thread. A thread of another partition that is PARKED there is saved first, or stops if it is
unsaveable (R158). -/
def applyLend (s : State) (o : IslOp) : State :=
  let s := o.fresh.foldl (fun s i => { s with sched := { s.sched with lent := s.sched.lent.set 0 i o.part } }) s
  let s := s.sched.threads.foldl (fun s e =>
    if e.2.st = .loading ∧ e.2.part = 0 ∧ onIslands e.2 o.fresh then modThread s e.1 (fun th => { th with st := .held }) else s) s
  let s := s.sched.loads.foldl (fun s e => if lendKeeps s o e.2 then s else trimLoad s o.fresh e.1 e.2) s
  let gone (i σ : Nat) (c : Ctx) : Bool :=
    o.fresh.contains i && decide (4 ≤ σ) && c.st != .loading &&
      (match c.thread with | some t => c.part == 0 && !(threadAt s t).slots.contains (i, σ) | none => c.part != o.part)
  let s := discardAll s (slotsWhere s gone)
  s.sched.threads.foldl (fun s e =>
    let th := threadAt s e.1
    if th.st = .parked ∧ th.part ≠ 0 ∧ th.part ≠ o.part ∧ onIslands th o.fresh then
      if saveable s e.1 then modThread s e.1 (fun x => { x with saving := true }) else threadFault s e.1 { code := 0x9034 }
    else s) s

/-- A borrower's thread that parks when the islands `was` are taken back. -/
def parksFor (th : Thread) (was : List Nat) : Bool :=
  th.part != 0 && onIslands th was && (th.st == .running || th.st == .loading || th.st == .preempted)

/-- A RECLAIM can be applied: no thread that it parks has a cell whose replay has not ended (R280). -/
def reclaimReady (s : State) (o : IslOp) : Bool :=
  let was := o.islands.filter (fun i => lentOf s i != 0)
  s.sched.threads.all (fun e => !parksFor e.2 was || !replaying s e.2)

/-- RECLAIM applied (R158, R159): the islands are no longer lent, the borrowers' threads park, HELD threads run. -/
def applyReclaim (s : State) (o : IslOp) : State :=
  let was := o.islands.filter (fun i => lentOf s i != 0)
  let s := was.foldl (fun s i => { s with sched := { s.sched with lent := s.sched.lent.set 0 i 0 } }) s
  let s := s.sched.threads.foldl (fun s e => if parksFor (threadAt s e.1) was then haltThread s e.1 .parked else s) s
  wakeHeld s s.sched.threads

/-- A LEND is complete when slots 4 to 7 of its islands hold no context of partition 0, nor one of a third partition. -/
def lendDone (s : State) (o : IslOp) : Bool :=
  !s.ctxs.any (fun e => o.islands.contains (e.1 / 8) && decide (4 ≤ e.1 % 8) && e.2.st != .free && e.2.part != o.part)

/-- A thread that is placed has its contexts active, if it is one that runs or is to run. -/
def placedActive (s : State) (th : Thread) : Bool :=
  match th.st with
  | .held | .loading => false
  | .running => th.slots != [] && th.slots.all (fun x => (ctxAt s x.1 x.2).st == .active)
  | _ => true

/-- A RECLAIM is complete when no borrower's context is active on its islands and every partition-0 thread placed on
them is active. -/
def reclaimDone (s : State) (o : IslOp) : Bool :=
  !s.ctxs.any (fun e => o.islands.contains (e.1 / 8) && e.2.st == .active && e.2.part != 0)
    && s.sched.threads.all (fun e => e.2.part != 0 || !onIslands e.2 o.islands || placedActive s e.2)

def opDone (s : State) (o : IslOp) : Bool := if o.lend then lendDone s o else reclaimDone s o

/-- Operations in issue order, one at a time on each island (R161): each is applied when no earlier one names one of its
islands, and leaves when it is complete. `busy` are the islands of earlier ones. -/
def settleOps (busy : List Nat) : List IslOp → State → List IslOp × State
  | [], s => ([], s)
  | o :: r, s =>
    if o.islands.any (fun i => busy.contains i) ∨ (!o.applied ∧ !o.lend ∧ !reclaimReady s o) then
      let (l, s) := settleOps (busy ++ o.islands) r s
      (o :: l, s)
    else
      let o := if o.applied then o else { o with fresh := freshOf s o }
      let s := if o.applied then s else if o.lend then applyLend s o else applyReclaim s o
      let o := { o with applied := true }
      if opDone s o then settleOps busy r (completePacket s o.queue o.packet false)
      else
        let (l, s) := settleOps (busy ++ o.islands) r s
        (o :: l, s)

/-- What the scheduler does after any change of contexts. -/
def settle (s : State) : State :=
  let s := wakeHeld s s.sched.threads
  let (l, s) := settleOps [] s.sched.islOps s
  { s with sched := { s.sched with islOps := l } }

/-- Islands of a mask at payload words 1 to 8 (R90). -/
def maskIslands (p : Packet) : List Nat := (List.range 256).filter (fun i => (pw p (1 + i / 32)).testBit (i % 32))

def islandOp (s : State) (p : Packet) (lend : Bool) : Out :=
  let (n, s) := issuePacket s s.cur.q p
  let o : IslOp := { lend := lend, islands := maskIslands p, part := pw p 0 % 16, queue := s.cur.q, packet := n }
  .next (settle { s with sched := { s.sched with islOps := s.sched.islOps ++ [o] } })

/-- LEND (R90, R157). -/
def execLend (p : Packet) (s : State) : Out :=
  let x := queueAt s s.cur.q
  let bad := firstBad [(0, pw p 0 % 16 == 0 || decide (16 ≤ pw p 0))]
  let foreign := (maskIslands p).find? (fun i => ownerOf s i != 0 || (lentOf s i != 0 && lentOf s i != pw p 0 % 16))
  issueWith s p (some 9) bad (x.part != 0) false (fun s =>
    match foreign with
    | some i => .next (queueError s s.cur.q 0x0103 (leBytes 1 (1 + i / 32)))
    | none => islandOp s p true)

/-- RECLAIM (R90, R158). -/
def execReclaim (p : Packet) (s : State) : Out :=
  let x := queueAt s s.cur.q
  issueWith s p (some 9) (firstBad [(0, pw p 0 != 0)]) (x.part != 0) false (fun s => islandOp s p false)

/-! ## LAUNCH (R90, R133, R144, R145) -/

/-- The faults of a payload word with class, height and width. -/
def badShape (w : Nat) : Bool :=
  decide (4 < w % 8) || bitsOf w 7 3 != 0 || bitsOf w 15 8 == 0 || decide (8 < bitsOf w 15 8) || bitsOf w 23 16 == 0
    || decide (32 < bitsOf w 23 16) || bitsOf w 31 24 != 0

/-- QE_CLASS of a launch of a class from a queue (R90, R139). -/
def badClass (s : State) (x : Queue) (cls : Nat) : Bool :=
  (cls == 0 && x.part != 0) || (cls == 4 && x.level != 1) || !(ptcfgAt s x.part).en

/-- The faults of an entry frame address at words 0 and 1. -/
def badEntry (p : Packet) : List (Nat × Bool) := [(0, pw p 0 % 8 != 0), (1, decide (2 ^ 21 ≤ pw p 1))]

def freeThread (s : State) : Option Nat := (List.range 4096).find? (fun t => (threadAt s t).st == .free)

def partThreads (s : State) (p : Nat) : Nat := (s.sched.threads.filter (fun t => t.2.st != .free && t.2.part == p)).length

/-- The deadline of a launch (R144), resolved at issue: none where the launch is refused then. -/
def launchDeadline (s : State) (x : Queue) (p : Packet) : Option Nat :=
  if 2 ≤ pw p 5 % 8 then some (2 ^ 64 - 1)
  else resolveSym s (clockOf s x.part) (pw p 6) (pw p 7 % 16) (pw p 7 / 16)

def execLaunch (p : Packet) (s : State) : Out :=
  let q := s.cur.q
  let x := queueAt s q
  let dl := launchDeadline s x p
  let ctrBad := if pw64 p 10 = 0 then none else ctrBadWord (pw64 p 10)
  let bad := firstBad (badEntry p ++ [(2, pw p 2 == 0), (3, pw p 3 == 0), (4, pw p 4 == 0), (5, badShape (pw p 5)),
    (7, decide (pw p 5 % 8 < 2) && decide (13 < pw p 7 % 16)), (10, ctrBad == some 0), (11, ctrBad == some 1),
    (12, (pw p 12).testBit 31)])
  issueWith s p (some 13) bad (badClass s x (pw p 5 % 8)) false (fun s =>
    match freeThread s with
    | none => .next (queueWait s q)
    | some t =>
      if (ptcfgAt s x.part).maxthr ≤ partThreads s x.part then .next (queueWait s q)
      else if dl.isNone then .next (queueError s q 0x0103 (leBytes 1 7))
      else
        let pos := queuePos x
        let (n, s) := issuePacket s q p
        let th : Thread :=
          { st := .pending, cls := pw p 5 % 8, part := x.part, queue := q, level := x.level, h := bitsOf (pw p 5) 15 8,
            w := bitsOf (pw p 5) 23 16, entry := pw64 p 0, frame := pw64 p 0, ex := pw p 2, ey := pw p 3, ez := pw p 4,
            dl := dl.getD 0, seq := s.sched.nextSeq, arg := pw64 p 8, ctr := pw64 p 10, inc := pw p 12,
            notify := p.hdr.toNat.testBit 20, pos := pos, hdr := p.hdr.toNat,
            packet := n }
        .next (setThread { s with sched := { s.sched with nextSeq := s.sched.nextSeq + 1 } } t th))

/-! ## Origins (R149, R151, R489) -/

/-- Contexts of a partition on an island that may be evicted, best first (R152): unbound preloaded ones, then predicted
ones, the least recently used first. -/
def evictable (s : State) (p isl : Nat) : List Nat :=
  let ok (bound : Bool) (σ : Nat) : Bool :=
    let c := ctxAt s isl σ
    (c.st == .armed || c.st == .poisoned) && c.part == p && c.thread.isSome == bound &&
      (match c.thread with | some t => !(threadAt s t).slots.contains (isl, σ) | none => true)
  let old (l : List Nat) : List Nat := (argMax (fun σ => -((ctxAt s isl σ).lastUse : Int)) l).toList
  old ((usable s p isl).filter (ok false)) ++ old ((usable s p isl).filter (ok true))

def hasSlot (s : State) (p isl : Nat) : Bool := (usable s p isl).any (slotFree s isl) || evictable s p isl != []

/-- All origins of a region of height h, in the order of R151. -/
def origins (h : Nat) : List (Nat × Nat) := (List.range (9 - h)).flatMap (fun r => (List.range 32).map (fun g => (r, g)))

/-- An island meets R149 for a partition. -/
def islandOk (s : State) (p isl : Nat) : Bool :=
  mayRun s p isl || (p == 0 && islUp s isl && ownerOf s isl == 0 && lentOf s isl != 0)

/-- Rank of a class: hard, service, firm, lent, bulk (R146). -/
def rankOf (cls : Nat) : Nat := match cls with | 0 => 0 | 4 => 1 | 1 => 2 | 2 => 3 | _ => 4

/-- The frame is resident and armed at an origin, from an earlier PRELOAD or an earlier thread (R151). -/
def residentAt (s : State) (p frame h w row col : Nat) : Bool :=
  (none :: s.sched.threads.map (fun e => some e.1)).any (fun t => (findFrame s t p frame h w row col (fun st => st == .armed)).isSome)

/-- A thread may be pre-empted by one of a class: RUNNING, and of a lower class (R154). -/
def lower (s : State) (cls u : Nat) : Bool := decide (rankOf cls < rankOf (threadAt s u).cls)

/-- A thread holds a slot of an island that a partition may use: for its executing frame, or for a load of it. -/
def holdsSlot (s : State) (p isl t : Nat) : Bool :=
  ((threadAt s t).slots ++ (s.sched.loads.filter (fun l => l.2.thread == some t && l.2.exec)).flatMap (fun l => l.2.slots)).any
    (fun x => x.1 == isl && (usable s p isl).contains x.2)

/-- The thread whose save would give a slot of partition `p` on an island to class `cls`: one of the victims, or a PREEMPTED
thread of a lower class; none where no slot can be had. -/
def saverFor (s : State) (p cls : Nat) (victims : List Nat) (isl : Nat) : Option Nat :=
  (s.sched.threads.find? (fun e =>
    (victims.contains e.1 || (e.2.st == .preempted && lower s cls e.1))
      && holdsSlot s p isl e.1 && saveable s e.1)).map (·.1)

/-- A context slot of an island is free for a class, or can be freed (R149, R154). -/
def canFree (s : State) (p cls isl : Nat) : Bool :=
  hasSlot s p isl
    || (saverFor s p cls ((s.sched.threads.filter (fun e => e.2.st == .running && lower s cls e.1)).map (·.1)) isl).isSome

/-- PRELOAD (R90, R152). -/
def execPreload (p : Packet) (s : State) : Out :=
  let q := s.cur.q
  let x := queueAt s q
  let (h, w) := (bitsOf (pw p 2) 15 8, bitsOf (pw p 2) 23 16)
  issueWith s p (some 3) (firstBad (badEntry p ++ [(2, badShape (pw p 2))])) (badClass s x (pw p 2 % 8)) false (fun s =>
    let ok (o : Nat × Nat) : Bool := (regionOf h w o.1 o.2).all (fun i => islandOk s x.part i && canFree s x.part (pw p 2 % 8) i)
    let all := (origins h).filter ok
    let first := all.filter (fun o => residentAt s x.part (pw64 p 0) h w o.1 o.2)
    match first ++ all with
    | [] => .next (queueWait s q)
    | (r, g) :: _ =>
      if (regionOf h w r g).any (fun i => !hasSlot s x.part i) then .next (queueWait s q)
      else
        let (n, s) := issuePacket s q p
        .next (orderLoad s { thread := none, part := x.part, frame := pw64 p 0, h := h, w := w, orow := r, ocol := g,
                             slots := [], packet := some (q, n), since := s.dtime, cls := pw p 2 % 8 }))

/-! ## Selection (R146, R147, R154 to R156) -/

/-- Order of waiting threads (R146). -/
def before (a b : Thread) : Bool :=
  if rankOf a.cls ≠ rankOf b.cls then decide (rankOf a.cls < rankOf b.cls)
  else if a.cls < 2 ∧ a.dl ≠ b.dl then decide (a.dl < b.dl)
  else decide (a.seq < b.seq)

def insertTh (x : Nat × Thread) : List (Nat × Thread) → List (Nat × Thread)
  | [] => [x]
  | y :: t => if before x.2 y.2 then x :: y :: t else y :: insertTh x t

/-- A thread that waits to be placed: PENDING, PREEMPTED, PARKED or SAVED, with no fault unanswered (R262) and no save
under way. -/
def waiting (th : Thread) : Bool :=
  (match th.st with | .pending | .preempted | .saved | .parked => true | _ => false)
    && th.resumable == [] && th.stop.isNone && !th.saving

def waitingThreads (s : State) : List (Nat × Thread) :=
  (s.sched.threads.filter (fun e => waiting e.2)).foldr insertTh []

/-- A way to place a thread. -/
structure Place where
  row : Nat
  col : Nat
  resident : Option (List (Nat × Nat)) := none
  armed : Bool := false
  victims : List Nat := []
  savers : List Nat := []
  held : Bool := false
  deriving DecidableEq, Repr

/-- Threads that hold islands of a region against thread `t`: on an island lent to another partition only threads of its
own partition do. -/
def holders (s : State) (t : Nat) (th : Thread) (isls : List Nat) : List Nat :=
  (s.sched.threads.filter (fun e =>
    e.1 != t && (e.2.st == .running || e.2.st == .loading || (e.2.st == .held && e.2.part == th.part))
      && (thRegion e.2).any (fun i => isls.contains i && (mayRun s th.part i || e.2.part == th.part)))).map (·.1)

/-- The saves that placing a thread on an island takes, given the threads that it pre-empts: none where a slot is free, or where
no victim holds one there and a context may be evicted; else one of a thread whose slots it needs (R156). No answer where no slot
can be had. -/
def savesFor (s : State) (th : Thread) (victims : List Nat) (isl : Nat) : Option (List Nat) :=
  if (usable s th.part isl).any (slotFree s isl) then some []
  else if hasSlot s th.part isl ∧ victims.all (fun u => !holdsSlot s th.part isl u) then some []
  else (saverFor s th.part th.cls victims isl).map (fun u => [u])

/-- How a thread may be placed at an origin, if it may. -/
def placeAt (s : State) (t : Nat) (th : Thread) (o : Nat × Nat) : Option Place :=
  let isls := regionOf th.h th.w o.1 o.2
  let needsSlots := th.st == .pending || th.st == .saved
  let held := isls.any (fun i => !mayRun s th.part i)
  let hs := holders s t th isls
  let armed := th.st == .pending && residentAt s th.part th.frame th.h th.w o.1 o.2
  let res := if th.st = .pending then
      findFrame s none th.part th.frame th.h th.w o.1 o.2 (fun st => st == .armed || st == .poisoned) else none
  if !isls.all (islandOk s th.part) || (held && th.st != .pending) then none
  else if !hs.all (fun u => (threadAt s u).st == .running && lower s th.cls u) then none
  else
    let sav := if needsSlots && res.isNone then isls.map (savesFor s th hs) else []
    if sav.all (·.isSome) then
      some { row := o.1, col := o.2, resident := res, armed := armed, victims := hs,
             savers := (sav.flatMap (·.getD [])).eraseDups, held := held }
    else none

/-- Better of two placements that pre-empt (R154): the lowest highest class of the victims, then the fewest. -/
def betterPlace (s : State) (a b : Place) : Bool :=
  let top (p : Place) : Nat := (p.victims ++ p.savers).foldl (fun m u => min m (rankOf (threadAt s u).cls)) 5
  if top a ≠ top b then decide (top b < top a) else decide (a.victims.length < b.victims.length)

def bestPlace (s : State) : List Place → Option Place
  | [] => none
  | p :: t => match bestPlace s t with | none => some p | some r => some (if betterPlace s r p then r else p)

/-- The placement of a thread that keeps off some islands (R151, R154): a free one first, those with resident contexts
before others. Only the first waiting thread of a class pre-empts. -/
def placement (s : State) (t : Nat) (th : Thread) (off : List Nat) (first : Bool) : Option Place :=
  let os := if th.st = .pending then origins th.h else [(th.orow, th.ocol)]
  let ps := (os.filter (fun o => !(regionOf th.h th.w o.1 o.2).any (fun i => off.contains i))).filterMap (placeAt s t th)
  let free := ps.filter (fun p => p.victims == [] && p.savers == [])
  match free.filter (·.armed) ++ free with
  | p :: _ => some p
  | [] => if first then bestPlace s (ps.filter (·.armed) ++ ps.filter (fun p => !p.armed)) else none

/-- NSLOT of a placement (R151): over a thread that stays PREEMPTED only free slots are granted (R156), with those that hold the
entry frame's own contexts. -/
def nslotOf (s : State) (th : Thread) (resident : List (Nat × Nat)) (isls : List Nat) : Nat :=
  let victims := s.sched.threads.any (fun e => e.2.st == .preempted && lower s th.cls e.1 && onIslands e.2 isls)
  let count (i : Nat) : Nat :=
    ((usable s th.part i).filter (fun σ => !victims || slotFree s i σ || resident.contains (i, σ))).length
  isls.foldl (fun m i => min m (count i)) 8 - 1

def haltThreads (s : State) : List Nat → State
  | [] => s
  | u :: r => haltThreads (haltThread s u .preempted) r

/-- A thread is placed (R151, R153, R155, R156). -/
def placeThread (s : State) (t : Nat) (p : Place) : State :=
  let th := threadAt s t
  let isls := regionOf th.h th.w p.row p.col
  let s := modThread s t (fun x => { x with orow := p.row, ocol := p.col, nslot := nslotOf s th (p.resident.getD []) isls })
  match th.st with
  | .pending =>
    let s := modThread s t (fun th => { th with st := if p.held then .held else if p.resident.isSome then .running else .loading })
    (match p.resident with
     | some l => fetchAhead (enterFrame s t l (!p.held)) t
     | none => threadLoad s t th.frame true false)
  | .saved => threadLoad (modThread s t (fun th => { th with st := .loading })) t th.frame true true
  | _ => runThread s t

/-- Islands of the candidate origins of a hard-class thread (R166): those whose islands partition 0 owns and has not lent, and no
RUNNING or HELD hard-class thread holds. -/
def feasibleIslands (s : State) (t : Nat) (th : Thread) : List Nat :=
  let held := (s.sched.threads.filter (fun e => e.1 != t && e.2.cls == 0 && (e.2.st == .running || e.2.st == .held))).flatMap
    (fun e => thRegion e.2)
  let os := if th.st = .pending then origins th.h else [(th.orow, th.ocol)]
  ((os.map (fun o => regionOf th.h th.w o.1 o.2)).filter (fun l =>
    l.all (fun i => islUp s i && ownerOf s i == 0 && lentOf s i == 0 && !held.contains i))).flatten

/-- One selection over the waiting threads in order. A thread that waits for saves or replays keeps its islands free (`off`), and a
feasible hard-class thread that is not placed keeps those of its candidate origins from lower classes (`hard`, R166); `seen` holds the classes that have had
their first thread. -/
def selectFrom (off hard seen : List Nat) : List (Nat × Thread) → State → State
  | [], s => s
  | (t, th) :: r, s =>
    let hard' := if th.cls = 0 then feasibleIslands s t th ++ hard else hard
    match placement s t th (if th.cls = 0 then off else off ++ hard) (!seen.contains th.cls) with
    | none => selectFrom off hard' (th.cls :: seen) r s
    | some p =>
      if p.victims.any (fun u => replaying s (threadAt s u)) ∨ (regionOf th.h th.w p.row p.col).any (islFailing s) then
        selectFrom (off ++ regionOf th.h th.w p.row p.col) hard' (th.cls :: seen) r s
      else
      let s := haltThreads s p.victims
      if p.savers = [] then placeThread s t p
      else
        let s := p.savers.foldl (fun s u => modThread s u (fun x => { x with saving := true })) s
        selectFrom (off ++ regionOf th.h th.w p.row p.col) hard' (th.cls :: seen) r s

def execSchedulerSelect (s : State) : Out := .next (settle (selectFrom [] [] [] (waitingThreads s) s))

/-! ## Deadlines (R148) -/

/-- A device event to the enabled rings of a partition. -/
def postPart (s : State) (p : Nat) (ev : Event) : List Nat → State
  | [] => s
  | e :: t =>
    let r := ringAt s e
    postPart (if r.en ∧ r.part = p then setRing s e (raiseOn r { ev with b11 := r.part }) else s) p ev t

def execDeadlinePass (thread : Nat) (s : State) : Out :=
  let th := threadAt s thread
  if th.st = .free ∨ th.missed ∨ 2 ≤ th.cls ∨ s.dtime ≤ th.dl then .next s
  else
    let s := modThread s thread (fun x => { x with missed := true })
    let d := leBytes 2 thread ++ leBytes 1 th.queue ++ leBytes 1 0 ++ leBytes 8 th.dl
    let s := postPart s th.part (deviceEvent s 0x8010 d) (List.range 32)
    .next (if th.cls = 1 ∧ th.st = .pending then threadFault s thread { code := 0x9032 } else s)

/-! ## Slot clocks (R142, R143) -/

/-- The starts of the used symbols 1 to n − 1 rise strictly from above `lo` and end below the slot's length. -/
def symsRise (k : SlotClock) : Nat → Nat → List Nat → Bool
  | _, lo, [] => decide (lo < k.len)
  | f, lo, i :: t => decide (lo < k.sym.get 0 i) && symsRise k f (k.sym.get 0 i) t

def clockOk (k : SlotClock) : Bool :=
  decide (2 ^ 20 ≤ k.len) && decide (k.len ≤ 2 ^ 25) && symsRise k 0 0 ((List.range (symCount k)).drop 1)

/-- A write of SCCFG (R143). -/
def sccfgWrite (k : SlotClock) (v : Nat) : SlotClock :=
  if k.en then { k with en := v.testBit 0 }
  else
    let n := { k with xcp := v.testBit 1 }
    if !v.testBit 0 then n
    else if clockOk n then { n with en := true, err := false } else { k with err := true }

def execSlotClockEnable (l : Level) (c : Nat) (v : Word) (s : State) : Out :=
  if l = .t ∨ 4 ≤ c then .next s
  else
    let s := journalSys s l (0x20300C + 128 * c) v
    .next { s with sched := { s.sched with clocks := s.sched.clocks.set {} c (sccfgWrite (clockAt s c) v.toNat) } }

end Sys2Proof.Machine
end

