-- ==== Sys2Proof/Machine/FrameOps.lean ====
section
/-! DEFINITION. Groups (R163 to R165), retirement (R135), commit and fetch-ahead (R190 to R195), the arbiter's window
(R182), the acceptance of tokens (R174 to R176) and the escape lane (R196 to R198). -/
namespace Sys2Proof.Machine

/-! ## Groups (R163) -/

def groupAt (s : State) (g : Nat) : Group := s.sched.groups.get {} g
def setGroup (s : State) (g : Nat) (x : Group) : State := { s with sched := { s.sched with groups := s.sched.groups.set {} g x } }

def memberOf (x : Group) (t : Nat) : Option Member := (x.members.find? (fun m => m.1 == t)).map (·.2)

def setMember (x : Group) (t : Nat) (m : Member) : Group :=
  { x with members := x.members.map (fun e => if e.1 = t then (t, m) else e) }

def dropMember (x : Group) (t : Nat) : Group := { x with members := x.members.filter (fun e => e.1 != t) }

/-- check(g). -/
def groupCheck (x : Group) : Group :=
  let x := if 1 ≤ x.expect ∧ x.arr = x.expect then
      { x with phase := (x.phase + 1) % 2 ^ 32, arr := 0, expect := x.expect - x.dropNext, dropNext := 0,
               members := x.members.map (fun e => (e.1, { e.2 with arrived := false })) }
    else x
  if x.members = [] then {} else x

/-- GJOIN. -/
def groupJoin (s : State) (t g : Nat) : Except Nat State :=
  let x := groupAt s g
  let p := (threadAt s t).part
  if x.valid ∧ x.part ≠ p then .error 0x901A
  else if x.valid ∧ (memberOf x t).isSome then .ok s
  else if 8 ≤ (s.sched.groups.filter (fun e => (memberOf e.2 t).isSome)).length then .error 0x901B
  else
    let x := if x.valid then x else { valid := true, part := p }
    .ok (setGroup s g { x with members := x.members ++ [(t, { seen := x.phase })], expect := x.expect + 1 })

/-- GARRIVE. -/
def groupArrive (s : State) (t g : Nat) (drop : Bool) : Except Nat State :=
  let x := groupAt s g
  match memberOf x t with
  | none => .error 0x901C
  | some m =>
    if m.arrived then .error 0x901D
    else
      let x := { setMember x t { m with arrived := true } with arr := x.arr + 1 }
      .ok (setGroup s g (groupCheck (if drop then { dropMember x t with dropNext := x.dropNext + 1 } else x)))

/-- GLEAVE. -/
def groupLeave (s : State) (t g : Nat) : Except Nat State :=
  let x := groupAt s g
  match memberOf x t with
  | none => .error 0x901C
  | some m =>
    let x := if m.arrived then { x with dropNext := x.dropNext + 1 } else { x with expect := x.expect - 1 }
    .ok (setGroup s g (groupCheck (dropMember x t)))

/-- The implicit leave of a thread from every group (R135). -/
def leaveGroups (s : State) (t : Nat) : List Nat → State
  | [] => s
  | g :: r => leaveGroups (match groupLeave s t g with | .ok s => s | .error _ => s) t r

def leaveAll (s : State) (t : Nat) : State := leaveGroups s t (s.sched.groups.map (·.1))

/-- A group operation of a thread: 0 GJOIN, 1 GLEAVE, 2 GARRIVE, 3 GDROP. -/
def groupOp (s : State) (t g op : Nat) : Except Nat State :=
  match op with
  | 0 => groupJoin s t g
  | 1 => groupLeave s t g
  | 2 => groupArrive s t g false
  | _ => groupArrive s t g true

/-- The phase that releases a GWAIT, and the state with the member's seen value moved on; an error for a thread that is
no member (R163). -/
def groupWait (s : State) (t g : Nat) : Except Nat (Option (Nat × State)) :=
  let x := groupAt s g
  match memberOf x t with
  | none => .error 0x901C
  | some m =>
    let d := (x.phase + 2 ^ 32 - m.seen) % 2 ^ 32
    if 1 ≤ d ∧ d < 2 ^ 31 then .ok (some (x.phase, setGroup s g (setMember x t { m with seen := x.phase }))) else .ok none

/-! ## Counters of a thread (R135, R215) -/

/-- The counter of a thread or copy as an access of a partition at a level, or the fault code. -/
def ctrReach (s : State) (p level a : Nat) : Except Nat Nat × State :=
  if a.testBit 63 then
    match translate s 4 p (a % 2 ^ 53) .rmw with
    | (.fault c _, s) => (.error c, s)
    | (.ok b host, s) => placeKey s p host b 2 false
  else if sbufAllowed s p level (a % 2 ^ 27) 8 false then (.ok (sbufBase + a % 2 ^ 27), s)
  else (.error 0x9004, s)

/-- Step 3 of R135: the increment, or bit 63 of a thread that stops; CTR_UPDATE_FAIL if it cannot be made. -/
def threadCounter (s : State) (t : Nat) (poison : Bool) : State :=
  let th := threadAt s t
  if th.ctr = 0 then s
  else match ctrReach s th.part 0 th.ctr with
    | (.ok k, s) => ctrAdd s k (if poison then 0 else th.inc) poison
    | (.error c, s) =>
      postQueueEvent s th.queue 0x8012 th.pos th.hdr (leBytes 2 t ++ leBytes 2 c ++ leBytes 8 th.ctr) 0 false

/-- Retirement (R135): groups, counter, EV_DONE, then the slots, the strait queues and the descriptor. -/
def retire (s : State) (t : Nat) : State :=
  let th := threadAt s t
  let s := completePacket (threadCounter (leaveAll s t) t false) th.queue th.packet false
  let s := freeTiles (discardThread s t) t
  { s with straits := { s.straits with queues := s.straits.queues.filter (fun q => q.kept || q.thread != t) },
           sched := { s.sched with threads := s.sched.threads.del t } }

/-! ## Commit (R190 to R192) -/

/-- The point after an exit through x0 (R134), and whether the thread retires. -/
def nextPoint (th : Thread) : Nat × Nat × Nat × Bool :=
  let (x, y) := if th.x + 1 = th.ex then (0, th.y + 1) else (th.x + 1, th.y)
  let (y, z) := if y = th.ey then (0, th.z + 1) else (y, th.z)
  (x, y, z, decide (z = th.ez))

/-- The islands that have begun in the frame that ends are noted for its iteration point (R45). -/
def noteBegun (s : State) (t : Nat) : State :=
  modThread s t (fun th => { th with
    begun := (th.begun ++ (th.slots.filter (fun x => (ctxAt s x.1 x.2).begun)).map (·.1)).eraseDups })

/-- The contexts of the frame that ended become contexts of a predicted frame. -/
def leaveFrame (s : State) (t : Nat) : State :=
  let s := haltAll s (threadAt s t).slots
  let s := noteBegun s t
  let s := (threadAt s t).slots.foldl (fun s x =>
    let s := settleLegs s (ctxAt s x.1 x.2)
    modCtx s x.1 x.2 (fun c => { c with st := .armed })) s
  regrant s (threadAt s t).slots

/-- The slots may still be used by the thread's partition (R150, R157). -/
def slotsUsable (s : State) (th : Thread) (l : List (Nat × Nat)) : Bool := l.all (fun x => (usable s th.part x.1).contains x.2)

/-- Frame `f` becomes executing (R192). -/
def succeed (s : State) (t f : Nat) (run : Bool) : State :=
  let th := threadAt s t
  if f = th.frame ∧ slotsUsable s th th.slots then
    enterFrame (regrant (prune (noteBegun (haltAll s th.slots) t) t) th.slots) t th.slots run
  else
    let s := leaveFrame s t
    let s := modThread s t (fun x => { x with frame := f })
    let drop := if slotsUsable s th th.slots then [] else th.slots
    let s := prune (discardAll s drop) t
    match findFrame s (some t) th.part f th.h th.w th.orow th.ocol (fun st => st == .armed || st == .poisoned) with
    | some l => if slotsUsable s th l then enterFrame s t l run
      else threadLoad (modThread (discardAll s l) t (fun x => { x with slots := [] })) t f true false
    | none =>
      let s := modThread s t (fun x => { x with slots := [] })
      if s.sched.loads.any (fun l => l.2.thread == some t && l.2.frame == f) then
        { s with sched := { s.sched with loads := s.sched.loads.map (fun l =>
          (l.1, if l.2.thread = some t ∧ l.2.frame = f then { l.2 with exec := true } else l.2)) } }
      else threadLoad (discardAll s (slotsWhere s (fun i _ c => decide (i < 256) && c.thread == some t && c.frame == f))) t f true false

/-- The frame named by an exit of the executing frame. -/
def exitFrame (s : State) (th : Thread) (x : Nat) : Nat :=
  match th.slots with
  | (i, σ) :: _ => (ctxAt s i σ).exits.getD x 0
  | [] => th.entry

def commitFrame (s : State) (t x : Nat) : State :=
  let run := (threadAt s t).st == .running
  let f := exitFrame s (threadAt s t) x
  let s := agePosted (learn s t x) t
  if x = 0 then
    let (a, b, c, last) := nextPoint (threadAt s t)
    let s := modThread s t (fun th => { th with x := a, y := b, z := c })
    if last then retire s t
    else fetchAhead (modThread (succeed s t (threadAt s t).entry run) t (fun th => { th with begun := [] })) t
  else fetchAhead (succeed s t f run) t

def execFrameCommit (thread : Nat) (s : State) : Out :=
  let th := threadAt s thread
  match th.exit with
  | none => .next s
  | some x =>
    if (th.st = .running ∨ th.st = .held ∨ th.st = .preempted ∨ th.st = .parked) ∧ th.stop = none ∧ th.resumable = []
        ∧ quiescent s thread ∧ !(thRegion th).any (islFailing s) then .next (settle (commitFrame s thread x))
    else .next s

/-! ## The arbiter's window (R182) -/

/-- Weights of a cell's slots from the occupancy sums of the window. -/
def newWeights (c : Ctx) (cell : Nat) : List Nat → Ctx
  | [] => c
  | k :: t =>
    let m := eight.foldl (fun m j => max m (c.occ.get 0 (8 * cell + j))) 0
    let (_, cred, age) := arbOf c (8 * cell + k)
    let w := if m = 0 then 1 else 1 + 15 * c.occ.get 0 (8 * cell + k) / m
    setArb (newWeights c cell t) (8 * cell + k) (w, cred, age)

/-- ARBITER_WINDOW: 256 cycles of the context's activation have passed since the cell's last window. -/
def execArbiterWindow (isl cell : Nat) (s : State) : Out :=
  match activeSlot s isl with
  | none => .next s
  | some σ =>
    let n := (ctxAt s isl σ).windows.get 0 cell + 1
    if s.cycle < (ctxAt s isl σ).since + 256 * n then .next s
    else .next (modCtx s isl σ (fun c =>
      let d := newWeights c cell eight
      { d with occ := eight.foldl (fun o k => o.set 0 (8 * cell + k) 0) d.occ, windows := d.windows.set 0 cell n }))

/-! ## Acceptance of tokens (R174 to R176, R181, R198) -/

def removeAt (s : State) (n : Nat) : State := { s with flights := s.flights.eraseIdx n }

/-- No earlier token stands before this one in its place. -/
def headOf (s : State) (n : Nat) (f : Flight) : Bool := !(s.flights.take n).any (sameQueue f)

/-- The slot and the operand position that a buffer of a context feeds. -/
def feedOf (c : Ctx) (key : Nat) : Option (Nat × Nat) :=
  if key < 512 then some (key / 4, key % 4)
  else if key < 1024 then (c.block.vcs.find? (fun e => vcKey (vcCell e) (vcVc e) == key)).map (fun e => (8 * vcCell e + vcK e, vcPos e))
  else none

/-- A stop that reaches b of CARRY is discarded as it arrives (R373). -/
def dropsStop (c : Ctx) (key : Nat) (t : Tok) : Bool :=
  t.stop != 0 && (match feedOf c key with
    | some (n, 1) => (match decodeOp (c.block.insts.getD n 0).toNat with | .ok (.carry _) => true | _ => false)
    | _ => false)

/-- A token as it enters a buffer: none where it is discarded; into the VC of a bound or permit input it enters as one (R172). -/
def entering (c : Ctx) (key : Nat) (t : Tok) : List Tok :=
  if dropsStop c key t then []
  else [if 512 ≤ key then (match feedOf c key with | some (n, p) => arriveAs c n p t | none => t) else t]

/-- A token enters a buffer. -/
def putTok (s : State) (isl σ key : Nat) (t : Tok) : State :=
  modCtx s isl σ (fun c => setBuf c key (bufOf c key ++ entering c key t))

/-- Read `l` as the VC's route out of a context: the thread may use the unit now. -/
def unitFor (owner : Option Nat) (thread : Option Nat) : Bool := owner.isNone || owner == thread

/-- A token reaches the generator's port: the thread of the first token claims the generator until its stream ends. -/
def toGen (s : State) (f : Flight) (d ag p : Nat) : Option State :=
  let g := s.gens.get {} (64 * d + ag)
  let th := (ctxAt s f.isl f.slot).thread
  let q := if p = 0 then g.specQ else if p = 1 then g.idxQ else g.dataQ
  if !unitFor g.thread th ∨ portLimit ≤ q.length then none
  else
    let g := { g with thread := th, isl := f.isl, slot := f.slot }
    let g := if p = 0 then { g with specQ := q ++ [f.tok] } else if p = 1 then { g with idxQ := q ++ [f.tok] } else { g with dataQ := q ++ [f.tok] }
    some { s with gens := s.gens.set {} (64 * d + ag) g }

def toSport (s : State) (f : Flight) (d sp : Nat) : Option State :=
  let p := s.sports.get {} (64 * d + sp)
  let th := (ctxAt s f.isl f.slot).thread
  if !unitFor p.thread th ∨ portLimit ≤ p.inQ.length then none
  else some { s with sports := s.sports.set {} (64 * d + sp) { p with thread := th, isl := f.isl, slot := f.slot, inQ := p.inQ ++ [f.tok] } }

/-- Words gathered for a source. -/
def gathered (e : CopyEng) (src : Nat) : List Word := match e.gather.find? (fun g => g.1 == src) with | some g => g.2 | none => []

/-- A request token reaches a copy engine: eight words of one source make a request (R212). A stop is no word of one: the
request breaks R212 and the thread takes FLT_COPY_SPEC (R214). -/
def toCopy (s : State) (f : Flight) (cell d n : Nat) : Option State :=
  let e := s.ces.get {} (8 * d + n)
  let src := vcSource f.isl f.slot cell (f.tok.src - 256)
  let l := gathered e src
  if 8 ≤ l.length then none
  else if f.tok.stop ≠ 0 then
    match (ctxAt s f.isl f.slot).thread with
    | some t => some (raiseUnit s t 2 (n + 64 * d) 0 0x9015 0 0)
    | none => some s
  else
    let l := l ++ [BitVec.ofNat 32 f.tok.data.toNat]
    let e := { e with gather := e.gather.filter (fun g => g.1 != src) ++ [(src, l)],
                      gatherDeps := liveDeps s f.isl (mergeDeps e.gatherDeps f.tok.deps) }
    some { s with ces := s.ces.set {} (8 * d + n) e }

/-- A token reaches the sender of its circuit's leg. -/
def toLeg (s : State) (f : Flight) (n : Nat) : Option State :=
  match s.straits.legs.find? (fun l => l.1 == n) with
  | none => none
  | some (_, l) => if portLimit ≤ l.waiting.length then none else some (setLeg s n { l with waiting := l.waiting ++ [f.tok] })

/-- A token reaches its unit (`cell` is its source cell) or its uplink. -/
def toUnit (s : State) (f : Flight) (cell : Nat) : Option State :=
  match f.dest with
  | .buf _ _ _ => none
  | .gen d ag p => toGen s f d ag p
  | .sport d sp => toSport s f d sp
  | .ce d m => toCopy s f cell d m
  | .circuit l => toLeg s f l

/-- A token of an owner update of a thread that stops, or is to be saved, goes on to its owner (R264, R266). -/
def drains (s : State) (c : Ctx) (i σ k : Nat) : Bool :=
  (match c.thread with | some t => (threadAt s t).stop.isSome || (threadAt s t).saving | none => false)
    && (ctxAt s i σ).block.vcs.any (fun e => vcKey (vcCell e) (vcVc e) == k && vcPos e == 2
        && (ownSlots (ctxAt s i σ) (vcCell e)).contains (vcK e))

/-- A token moves into the next buffer if it may: its own (a reserved entry), or the next one under R176. A switchbox
forwards only tokens of its active context (R181). -/
def acceptTok (s : State) (n : Nat) (f : Flight) : Option State :=
  let t := removeAt s n
  let on : Bool := (ctxAt s f.isl f.slot).st == .active
  if 8192 ≤ f.place then toUnit t f (placeCell f.place)
  else if 4096 ≤ f.place then
    if mayEnter s f.isl f.slot (f.place - 4096) 1 ∧ on then
      some { s with flights := s.flights.set n { f with place := f.place - 4096 } }
    else none
  else match f.dest with
    | .buf i σ k =>
      if f.place < 2048 then some (putTok t i σ k f.tok)
      else if !on ∧ !drains s (ctxAt s f.isl f.slot) i σ k then none
      else if f.place = 3072 then (if mayPut s i σ k then some (putTok t i σ k f.tok) else none)
      else match nextPlace s f with
        | none => none
        | some (j, τ, p) =>
          if !mayPut s j τ p then none
          else if p < 2048 then some (putTok t j τ p f.tok)
          else some { t with flights := t.flights ++ [{ f with isl := j, slot := τ, place := p, age := 0 }] }
    | _ => if on then toUnit t f (placeCell f.place) else none

/-- Cell of an operand buffer, a VC buffer or a switchbox output buffer: a switchbox is part of its cell (R168). -/
def bufCell (k : Nat) : Option Nat :=
  if k < 512 then some (k / 32) else if k < 1024 then some ((k - 512) / 32)
  else if 2048 ≤ k ∧ k < 3072 then some ((k - 2048) / 8) else if 3584 ≤ k ∧ k < 4096 then some ((k - 3584) / 32) else none

/-- Island and cell whose buffer a token in flight enters next, if it is a cell's. -/
def entersCell (s : State) (f : Flight) : Option (Nat × Nat) :=
  if 8192 ≤ f.place then none
  else if 4096 ≤ f.place then (bufCell (f.place - 4096)).map (fun c => (f.isl, c))
  else match f.dest with
    | .buf i _ k =>
      if f.place < 2048 ∨ f.place = 3072 then (bufCell k).map (fun c => (i, c))
      else (match nextPlace s f with
        | some (j, _, p) => (bufCell p).map (fun c => (j, c))
        | none => none)
    | _ => none

/-- The `n`-th token in flight reaches its next buffer, failing its parity check `fails` times (R174, R281): at the second
failure it stays with its sender, and the receiving cell has a failure with no failing firing. A cell with a failure that has
not been handled takes no token in (R278). -/
def execTokenAccept (n fails : Nat) (s : State) : Out :=
  match s.flights[n]? with
  | none => .next s
  | some f =>
    if f.chk.isSome ∨ !headOf s n f then .next s
    else match entersCell s f with
      | some (i, c) =>
        if cellFailed s i c then .next s
        else if 2 ≤ fails then .next (failFiring s { isl := i, slot := f.slot, cell := c, k := 255 } 0 [])
        else .next ((acceptTok s n f).getD s)
      | none => if 2 ≤ fails then .next s else .next ((acceptTok s n f).getD s)

/-! ## The escape lane (R196 to R198) -/

/-- Number of the switchbox that the recovery token visits after `n`: 32 rows of 33 in boustrophedon order. -/
def nextVisit (n : Nat) : Nat := (n + 1) % 1056

/-- Row and column of visit `n`. -/
def visitAt (n : Nat) : Nat × Nat := (n / 33, if n / 33 % 2 = 0 then n % 33 else 32 - n % 33)

/-- Flights that head a switchbox buffer of the cell at (row, col) of a die, are blocked and older than 1,024 cycles. -/
def oldBlocked (s : State) (die row col : Nat) : List (Nat × Flight) :=
  (s.flights.zipIdx.filter (fun e =>
    let f := e.1
    decide (f.isl < 256) && f.isl / 64 == die && cellRow f.isl (placeCell f.place) == row && cellCol f.isl (placeCell f.place) == col
      && decide (1024 < f.age) && blockedFlight s (s.flights.take e.2) f)).map (fun e => (e.2, e.1))

def oldest : List (Nat × Flight) → Option (Nat × Flight)
  | [] => none
  | e :: t => match oldest t with | none => some e | some g => some (if e.2.age < g.2.age then g else e)

/-- Steps of a token in a switchbox to the cell of its buffer. -/
def stepsLeft (f : Flight) : Nat :=
  match f.dest with
  | .buf i _ k =>
    let c := (k - 512) / 32
    let p := placeCell f.place
    let gap (x y : Nat) : Nat := (x - y) + (y - x)
    gap (cellRow f.isl p) (cellRow i c) + gap (cellCol f.isl p) (cellCol i c)
  | _ => 0

/-- The indexes of the item that a blocked token heads: the token, or a vector's two beats together. The second beat goes by
itself where the first is in the buffer already. None while an earlier token of the edge is on its way before it, or a
beat has not come yet (log entry 62). -/
def itemOf (s : State) (n : Nat) (f : Flight) : Option (List Nat) :=
  let same (g : Flight) : Bool := g.dest == f.dest && g.tok.src == f.tok.src && g.chk.isNone
  let before := s.flights.any (fun g => same g && decide (2048 ≤ g.place) && decide (g.place < 3072) && decide (stepsLeft g < stepsLeft f))
  let half : Bool := match f.dest with
    | .buf i σ k => ((bufOf (ctxAt s i σ) k).filter (fun t => t.kind == .vector && t.stop == 0)).length % 2 == 1
    | _ => false
  if before then none
  else if f.tok.kind ≠ .vector ∨ half then some [n]
  else match s.flights.zipIdx.find? (fun e => decide (n < e.2) && sameQueue f e.1 && same e.1) with
    | some e => some [n, e.2]
    | none => none

/-- The recovery token visits a switchbox and moves on (R196, R197). -/
def execEscapeVisit (die : Nat) (s : State) : Out :=
  let n := s.rel.token.get 0 die
  let s1 := { s with rel := { s.rel with token := s.rel.token.set 0 die (nextVisit n) } }
  if 4 ≤ die then .next s
  else match oldest (oldBlocked s die (visitAt n).1 (visitAt n).2) with
    | none => .next s1
    | some (i, f) =>
      match f.dest, itemOf s i f with
      | .buf isl σ k, some ix =>
        let l := latchKey ((k - 512) / 32)
        if 512 ≤ k ∧ k < 1024 ∧ eight.all (fun τ => bufOf (ctxAt s isl τ) l == []) then
          let toks := ix.filterMap (fun j => (s.flights[j]?).map (fun g => { g.tok with src := 256 + (k - 512) % 32 }))
          let rest := (s.flights.zipIdx.filter (fun e => !ix.contains e.2)).map (·.1)
          .next (modCtx { s1 with flights := rest } isl σ (fun c => setBuf c l (toks.flatMap (entering c k))))
        else .next s1
      | _, _ => .next s1

end Sys2Proof.Machine
end

