-- ==== Sys2Proof/Machine/GenOps.lean ====
section
/-! DEFINITION. Address generators (R205 to R209): the check of a specification, the walk, and one element. -/
namespace Sys2Proof.Machine

/-! ## Bindings -/

/-- Route words of a thread's executing frame, each with the context that holds it. -/
def frameRoutes (s : State) (t : Nat) : List (DWord × Nat × Nat) :=
  (threadAt s t).slots.flatMap (fun x => (ctxAt s x.1 x.2).block.routes.map (fun r => (r, x.1, x.2)))

/-- The binding of a generator's port (R334). -/
def genRoute (s : State) (t d ag p : Nat) : Option (DWord × Nat × Nat) :=
  (frameRoutes s t).find? (fun r => rtKind r.1 == 3 && bitsOf r.1.toNat 5 4 == d && bitsOf r.1.toNat 11 6 == ag
    && bitsOf r.1.toNat 13 12 == p)

def genDone (s : State) (t d ag : Nat) : Option (DWord × Nat × Nat) :=
  (frameRoutes s t).find? (fun r => rtKind r.1 == 4 && bitsOf r.1.toNat 5 4 == d && bitsOf r.1.toNat 11 6 == ag)

/-- Where a unit's tokens of a binding go: onto its circuit (R334), or to the buffer of its END. -/
def routeDest (s : State) (r : DWord × Nat × Nat) : Option Dest :=
  let c := ctxAt s r.2.1 r.2.2
  match c.legs.find? (fun l => l.1 == 512 + c.block.routes.findIdx (· == r.1)) with
  | some (_, n) => some (.circuit n)
  | none => endDest s c r.2.1 (rtEnd r.1)

/-- The sender of a unit's circuit takes `n` tokens: it has room for them, is empty, or its thread is being saved (R266). -/
def legTakes (s : State) (g : Leg) (n : Nat) : Bool :=
  decide (g.waiting.length + n ≤ portLimit) || g.waiting == []
    || (match g.thread with | some t => (threadAt s t).saving | none => false)

/-- Deliver tokens of a unit, if the buffer or the circuit's sender has room for them. -/
def unitSend (s : State) (d : Option Dest) (l : List Tok) : Option State :=
  match d with
  | some (.buf i σ k) =>
    if mayEnter s i σ k l.length then some (l.foldl (fun s t => sendTo s i σ k (.buf i σ k) t) s) else none
  | some (.circuit n) =>
    let g := legAt s n
    if legTakes s g l.length then some (setLeg s n { g with waiting := g.waiting ++ l }) else none
  | _ => some s

/-- The request of a source is taken up: the T1 token of its STREAM or COPY leaves (R417). -/
def tookRequest (s : State) (src : Nat) : State :=
  match s.accs.find? (fun a => a.kind == .request && a.addr == src && a.phase != .performed) with
  | some a => { s with accs := s.accs.map (fun b => if b.id = a.id then { b with phase := .performed } else b) }
  | none => s

/-! ## Bindings of a specification -/

/-- The frame's bindings allow the stream (R206). -/
def specBound (s : State) (t d ag : Nat) (l : List Word) : Bool :=
  (match genRoute s t d ag 2 with
   | some (r, _) => r.toNat.testBit 14 == spWrite l
   | none => false) && (spMode l != 1 || (genRoute s t d ag 1).isSome)

/-! ## Acceptance (R205, R209) -/

def setGen (s : State) (d ag : Nat) (g : Gen) : State :=
  { s with gens := s.gens.set {} (64 * d + ag) (if genIdle g then {} else g) }

/-- A generator takes the next twelve words; a stop among them is refused as it arrives. -/
def execStreamSpecAccept (die ag : Nat) (s : State) : Out :=
  let g := s.gens.get {} (64 * die + ag)
  match g.thread, g.run with
  | some t, none =>
    let toks := g.specQ.take 12
    if (g.specQ.length < 12 ∧ toks.all (fun x => x.stop == 0)) ∨ (threadAt s t).stop ≠ none then .next s
    else
      let l := toks.map (fun x => BitVec.ofNat 32 x.data.toNat)
      if toks.any (fun x => x.stop ≠ 0) ∨ !specOk l ∨ !specBound s t die ag l then
        if g.stalled then .next s
        else .next (raiseUnit (setGen s die ag { g with stalled := true }) t 1 (64 * die + ag) 0 0x9014 0 0)
      else
        let src := match genRoute s t die ag 0 with
          | some (r, i, σ) => vcSource i σ (endCell (rtEnd r)) (endVc (rtEnd r))
          | none => 0
        .next (tookRequest (setGen s die ag { g with specQ := g.specQ.drop 12, run := some { spec := l, deps := depsOf toks, no := s.nextAcc } }) src)
  | _, _ => .next s

/-! ## Moving elements (R206, R207) -/

/-- Bytes of an element, and its alignment. -/
def elemBytes (l : List Word) : Nat := match spElem l with | 0 => 4 | 1 => 64 | _ => 64 + 32 * spPlanes l
def elemAlign (l : List Word) : Nat := if spElem l = 0 then 4 else 64

/-- An element of `n` bytes is cut into pieces of at most 64 bytes, none of which crosses a page: their addresses. -/
def elemPieces (n x : Nat) : List Nat := (List.range ((n + 63) / 64)).map (fun j => x + 64 * j)

/-- The memory keys of pieces of an element, each translated in its own page, or the fault (R248). -/
def pieceKeys (s : State) (i p : Nat) (k : XKind) : List Nat → Except (Nat × Nat × Nat) (List Nat) × State
  | [] => (.ok [], s)
  | x :: t =>
    match translate s i p x k with
    | (.fault c dt, s) => (.error (c, x, dt), s)
    | (.ok a host, s) =>
      if host && !hostReach s p then (.error (0x9005, x, 0), s)
      else match pieceKeys s i p k t with
        | (.ok l, s) => (.ok (physKey a host :: l), s)
        | e => e

/-- Memory keys of the pieces of an element, or the fault (R206, R253, R413). -/
def elemKeys (s : State) (t d ag : Nat) (l : List Word) (x : Int) : Except (Nat × Nat × Nat) (List Nat) × State :=
  let th := threadAt s t
  let n := elemBytes l
  let k : XKind := if spWrite l then .write else .read
  if x % (elemAlign l : Int) ≠ 0 then (.error (0x9010, addr64 x, 0), s)
  else if spSbuf l then
    if x < 0 ∨ !sbufAllowed s th.part th.level x.toNat n (!spWrite l && !spConsume l) then (.error (0x9004, addr64 x, 0), s)
    else (.ok (elemPieces n (sbufBase + x.toNat)), s)
  else if x < 0 ∨ (2 ^ 53 : Int) < x + n then (.error (0x9001, addr64 x, xDetail 0 k false), s)
  else pieceKeys s (16 + 128 * d + ag) th.part k (elemPieces n x.toNat)

/-- A fault of a generator at its next element: it stalls (R260, R264). -/
def genFault (s : State) (t d ag : Nat) (g : Gen) (r : Stream) (f : Nat × Nat × Nat) : State :=
  raiseUnit (setGen s d ag { g with stalled := true }) t 1 (64 * d + ag) r.elem f.1 f.2.1 f.2.2

/-- The generator's data port: where a read stream's tokens go. -/
def dataSend (s : State) (t d ag : Nat) (l : List Tok) : Option State := unitSend s ((genRoute s t d ag 2).bind (routeDest s)) l

/-- The format record of a generator's data port. -/
def dataFmt (s : State) (t d ag : Nat) : Nat := match genRoute s t d ag 2 with | some (r, _) => rtRecord r | none => 0

def putPipe (s : State) (d ag : Nat) (g : Gen) (r : Stream) : State := setGen s d ag { g with run := some r }

/-! ### Issue -/

/-- Stops of the walk follow: a read stream emits them in their place, a write stream expects them (R206). -/
def addStops (r : Stream) (l : List Nat) (idx : Option Tok) (deps : List Nat) : Stream :=
  if spWrite r.spec then { r with emit := r.emit ++ l }
  else { r with pipe := r.pipe ++ l.map (fun lv => { stop := lv, elem := r.elem, idx := idx, deps := deps }) }

/-- A write stream expects a stop: the token of the data port must be it. -/
def expectStop (s : State) (t d ag : Nat) (g : Gen) (r : Stream) (lv : Nat) (rest : List Nat) : State :=
  match g.dataQ with
  | [] => s
  | x :: q =>
    if x.stop = lv then putPipe s d ag { g with dataQ := q } { r with emit := rest, deps := mergeDeps r.deps x.deps }
    else genFault s t d ag g r (0x9016, 0, 0)

/-- The hazard detector's check of the pieces of an element (R290). -/
def unitHazards (s : State) (isl t d u : Nat) : List Nat → Nat → Bool → List Nat → Except Nat State
  | [], _, _, _ => .ok s
  | k :: ks, n, wrote, deps =>
    match unitHazard s isl t d u k (min n 64) wrote deps with
    | .error p => .error p
    | .ok s => unitHazards s isl t d u ks (n - 64) wrote deps

/-- The next element is issued at an address: translated, checked, and with its data if it is written, the padding beat of an
nb8 group apart (R303). `after` takes the stream on. -/
def issueElem (s : State) (t d ag : Nat) (g : Gen) (r : Stream) (x : Int) (idx : Option Tok) (after : Gen → Stream → Gen) : State :=
  let l := r.spec
  let w := spWrite l
  let n := if spElem l = 0 then 1 else 2
  let toks := if w then g.dataQ.take n else []
  if w ∧ (toks.any (fun x => x.stop ≠ 0) ∨ (n = 2 ∧ toks.any (fun x => x.kind ≠ .vector))) then genFault s t d ag g r (0x9016, 0, 0)
  else if w ∧ toks.length < n then s
  else match elemKeys s t d ag l x with
    | (.error f, s) => genFault s t d ag g r f
    | (.ok ks, s) =>
      let deps := mergeDeps (match idx with | some y => y.deps | none => []) (depsOf toks)
      match unitHazards s g.isl t d (unitNo ag r.no) ks (elemBytes l) (w || spConsume l) (mergeDeps r.deps deps) with
      | .error p => genFault s t d ag g r (0x901E, addr64 x, p)
      | .ok s =>
        let ws := if n = 1 then toks.map (fun y => BitVec.ofNat 32 y.data.toNat) else toks.flatMap (fun y => natWords 8 y.data.toNat)
        let m := if w && padVec (dataFmt s t d ag) r.elem then 8 else elemBytes l / 4
        let p : StreamItem := { elem := r.elem, keys := ks, left := List.range m, addr := x.toNat, idx := idx, deps := deps,
                                words := ws.zipIdx.map (fun y => (y.2, y.1)), id := s.nextAcc }
        setGen { s with nextAcc := s.nextAcc + 1 } d ag
          (after { g with dataQ := g.dataQ.drop toks.length } { r with pipe := r.pipe ++ [p], deps := if w then mergeDeps r.deps deps else r.deps })

/-- The stream after step `e` of its walk: the stops that come next, and whether it has ended. -/
def stepWalk (r : Stream) : Stream :=
  let e := r.elem
  { addStops { r with elem := e + 1 } (stopsAfter r.spec e) none [] with ended := walkOver r.spec (e + 1) }

/-- The next place of a gather stream, as its index port gives it (R207, R483). -/
def gatherStep (s : State) (t d ag : Nat) (g : Gen) (r : Stream) : State :=
  match g.idxQ with
  | [] => s
  | x :: q =>
    let depth := match genRoute s t d ag 1 with | some (w, _) => bitsOf w.toNat 50 48 | none => 0
    if depth < x.stop then genFault s t d ag g r (0x9016, 0, 0)
    else if x.stop ≠ 0 then
      putPipe s d ag { g with idxQ := q } { addStops r [x.stop] (some x) x.deps with ended := x.stop == depth }
    else issueElem s t d ag g r (streamBase r.spec + (x.data.toNat % 2 ^ 32 : Nat) * spStride r.spec 0) (some x)
      (fun g r => { g with idxQ := q, run := some { r with elem := r.elem + 1 } })

/-- The next step of the walk. -/
def issueNext (s : State) (t d ag : Nat) (g : Gen) (r : Stream) : State :=
  match r.emit with
  | lv :: rest => expectStop s t d ag g r lv rest
  | [] =>
    if spMode r.spec = 1 then gatherStep s t d ag g r
    else if lowDim r.spec ≠ 0 then putPipe s d ag g (stepWalk r)
    else issueElem s t d ag g r (elemAddr r.spec r.elem) none (fun g r => { g with run := some (stepWalk r) })

/-! ### Performing -/

/-- Key of word `j` of an element. -/
def partKey (p : StreamItem) (j : Nat) : Nat := p.keys.getD (j / 16) 0 + 4 * (j % 16)

/-- The words that one access moves with word `j`: one of host memory, else those of its 64-byte unit (R225); a synchronising
read tests, reads and changes all of them in one bank operation (R202). -/
def together (r : Stream) (p : StreamItem) (j : Nat) : List Nat :=
  if spSync r.spec then p.left
  else if hostBase ≤ partKey p j then [j]
  else p.left.filter (fun k => k / 16 == j / 16)

/-- An element that has been issued can move: its memory is reachable, the words of a synchronising read are full, and no earlier
one is outstanding that moves one of its pieces (R209). Where an index must tell the elements that are performed from those that are
not (R264, R266), none passes an earlier one that may still stop: one that empties its words, or writes to host memory. -/
def canPerform (s : State) (d : Nat) (r : Stream) (i : Nat) (p : StreamItem) : Bool :=
  p.stop == 0 && p.left != [] && p.keys.all (mdReaches s d)
    && !((r.pipe.take i).any (fun q => q.left != []
      && (spConsume r.spec || (spWrite r.spec && q.keys.any (fun k => decide (hostBase ≤ k))) || q.keys.any (fun k => p.keys.contains k))))
    && (!spSync r.spec || p.left.all (fun j => isFull s (partKey p j)))

/-- The request to host memory that moves the piece of word `j`, sent once, before the first of its words moves. -/
def askPiece (s : State) (t : Nat) (r : Stream) (p : StreamItem) (j : Nat) : Option StreamItem × State :=
  if p.asked.contains (j / 16) then (some p, s)
  else
    let n := (p.left.filter (fun k => k / 16 == j / 16)).length
    match hostAsk s (threadAt s t).part (spWrite r.spec) (partKey p (16 * (j / 16)) - hostBase) (4 * n) with
    | (false, s) => (none, s)
    | (true, s) => (some { p with asked := (j / 16) :: p.asked }, s)

/-- One access of a read element: the words that it moves, or the code of the fault that it meets. -/
def readPart (s : State) (t : Nat) (r : Stream) (p : StreamItem) : Except Nat StreamItem × State :=
  let (j, s) := pickOf s (if spSync r.spec then p.left.take 1 else p.left)
  let js := together r p j
  let k := partKey p (js.headD 0)
  let done (s : State) (p : StreamItem) : StreamItem :=
    { p with left := p.left.filter (fun x => !js.contains x), words := js.foldl (fun w x => w.set 0 x (rdWord s (partKey p x))) p.words }
  if hostBase ≤ k then
    match askPiece s t r p j with
    | (none, s) => (.error 0x9005, s)
    | (some p, s) => (.ok (done s p), s)
  else match readCheck s k js.length with
    | (.good, s) => (.ok (done s p), if spConsume r.spec then js.foldl (fun s x => setFull s (partKey p x) false) s else s)
    | (_, s) => (.error 0x9006, s)

/-- One access of a written element. -/
def writePart (s : State) (t : Nat) (r : Stream) (p : StreamItem) : Except Nat StreamItem × State :=
  let (j, s) := pickOf s p.left
  let js := together r p j
  let k := partKey p (js.headD 0)
  let put (s : State) : State := js.foldl (fun s x => wrWord s (partKey p x) (p.words.get 0 x)) s
  let rest (p : StreamItem) : StreamItem := { p with left := p.left.filter (fun x => !js.contains x) }
  if hostBase ≤ k then
    match askPiece s t r p j with
    | (none, s) => (.error 0x9005, s)
    | (some p, s) => (.ok (rest p), postWrite (put s) (threadAt s t).part p.id (some t))
  else
    let s := put s
    (.ok (rest p), if spSbuf r.spec then js.foldl (fun s x => setFull s (partKey p x) true) s
      else if js.length = 16 then wholeLine (writtenBank s k 16) k else s)

/-- Element `i` of what is issued makes one access; a written element that is complete is finished. Of a write stream that meets a
fault, neither that element nor a later one is performed (R264). -/
def performItem (s : State) (t d ag : Nat) (g : Gen) (r : Stream) (i : Nat) : State :=
  match r.pipe[i]? with
  | none => s
  | some p =>
    match (if spWrite r.spec then writePart s t r p else readPart s t r p) with
    | (.error c, s) =>
      let left := if spWrite r.spec then { r with pipe := r.pipe.take i } else r
      genFault s t d ag { g with run := some left } { r with elem := p.elem } (c, p.addr, 0)
    | (.ok p, s) =>
      putPipe s d ag g { r with
        pipe := if spWrite r.spec ∧ p.left = [] then r.pipe.eraseIdx i else r.pipe.set i p,
        deps := if s.pcie.posted.any (fun w => w.id == p.id) then mergeDeps r.deps [p.id] else r.deps }

/-! ### Emission and the end -/

/-- Tokens of a read element in format `f`: a scalar, filled if it is narrow (R293), or pairs of beats, with a padding beat for odd
PLANES (R303). -/
def elemToks (l : List Word) (f : Nat) (w : Tab Word) (deps : List Nat) : List Tok :=
  if spElem l = 0 then [scalarTok (fillScalar (fmtFMT f) (w.get 0 0).toNat) deps]
  else
    let n := elemBytes l / 32
    (List.range (n + n % 2)).map (fun i => beatTok (if i < n then wordsNat ((List.range 8).map (fun j => w.get 0 (8 * i + j))) else 0) deps)

/-- Tokens of the oldest thing that a read stream has issued. -/
def itemToks (s : State) (t d ag : Nat) (g : Gen) (r : Stream) (p : StreamItem) : List Tok :=
  let deps := unitDeps s g.isl d (unitNo ag r.no) (mergeDeps r.deps p.deps)
  if p.stop ≠ 0 then [stopTok p.stop deps] else elemToks r.spec (dataFmt s t d ag) p.words deps

/-- What a read stream has issued leaves in the order of the walk: a stop, or an element whole. -/
def emitHead (s : State) (t d ag : Nat) (g : Gen) (r : Stream) : Option State :=
  match r.pipe with
  | p :: rest =>
    if spWrite r.spec ∨ (p.stop = 0 ∧ p.left ≠ []) then none
    else (dataSend s t d ag (itemToks s t d ag g r p)).map (fun u => putPipe u d ag g { r with pipe := rest })
  | [] => none

/-- The stream is over: a write stream's completion token leaves, and the generator is free for the next (R209). -/
def endStream (s : State) (t d ag : Nat) (g : Gen) (r : Stream) : State :=
  let done := if spWrite r.spec then
      unitSend s ((genDone s t d ag).bind (routeDest s)) [scalarTok 0 (unitDeps s g.isl d (unitNo ag r.no) r.deps)]
    else some s
  match done with
  | some s => setGen s d ag { g with run := none }
  | none => s

/-- A read stream that is to be saved takes back what it has issued from an element that has not moved on: the element is
its next one again (R266). Index tokens go back to their port. -/
def rewind (g : Gen) (r : Stream) : Gen :=
  match r.pipe with
  | p :: _ => { g with idxQ := (r.pipe.filterMap (fun q => q.idx)) ++ g.idxQ, run := some { r with elem := p.elem, pipe := [], ended := false } }
  | [] => g

/-! ### STREAM_ELEMENT -/

/-- What a generator can do next: issue the next step of the walk, move element `i` of what is issued, emit the oldest, end the
stream, or go back to its element boundary. -/
inductive GenMove where
  | issue
  | perform (i : Nat)
  | emit
  | finish
  | rewind
  deriving DecidableEq, Repr

/-- The moves of a generator. A thread that stops issues and emits nothing, and what a write stream has issued is performed
(R264). A stream that waits for the answer to a fault issues nothing (R260). One that is to be saved issues no element. -/
def genMoves (s : State) (t d ag : Nat) (g : Gen) (r : Stream) : List GenMove :=
  let saving := (threadAt s t).saving && decide (lowDim r.spec = 0)
  let perform := (r.pipe.zipIdx.filter (fun x => canPerform s d r x.2 x.1)).map (fun x => GenMove.perform x.2)
  if (threadAt s t).stop ≠ none then (if spWrite r.spec then perform else [])
  else if saving ∧ !spWrite r.spec ∧ r.pipe.head?.any (fun p => p.stop == 0 && p.left != []) then [.rewind]
  else
    (if !g.stalled && !r.ended && !saving && (threadAt s t).slots != [] then [.issue] else []) ++ perform
      ++ (if (emitHead s t d ag g r).isSome then [.emit] else [])
      ++ (if r.ended ∧ !g.stalled ∧ r.pipe = [] ∧ r.emit = [] then [.finish] else [])
      ++ (if r.ended ∧ r.pipe = [] ∧ r.emit ≠ [] ∧ !saving ∧ !g.stalled then [.issue] else [])

/-- A write stream of the thread has an element outstanding that can be performed (R264). -/
def writesGoing (s : State) (t : Nat) : Bool :=
  s.gens.any (fun g => g.2.thread == some t && (match g.2.run with
    | some r => spWrite r.spec && r.pipe.zipIdx.any (fun x => canPerform s (g.1 / 64) r x.2 x.1)
    | none => false))

def doMove (s : State) (t d ag : Nat) (g : Gen) (r : Stream) : GenMove → State
  | .issue => issueNext s t d ag g r
  | .perform i => performItem s t d ag g r i
  | .emit => (emitHead s t d ag g r).getD s
  | .finish => endStream s t d ag g r
  | .rewind => setGen s d ag (Sys2Proof.Machine.rewind g r)

/-- STREAM_ELEMENT: one of the generator's moves, any that it can make (R236). -/
def execStreamElement (die ag : Nat) (s : State) : Out :=
  let g := s.gens.get {} (64 * die + ag)
  match g.thread, g.run with
  | some t, some r =>
    let ms := genMoves s t die ag g r
    let (n, s) := pickOf s (List.range ms.length)
    (match ms[n]? with
     | some m => .next (doMove s t die ag g r m)
     | none => .next s)
  | _, _ => .next s

end Sys2Proof.Machine
end

