-- ==== Sys2Proof/Machine/CopyOps.lean ====
section
/-! DEFINITION. Copy engines (R212 to R218): requests from operators and from COPY packets, units, setting aside and
resuming, and the counter at the end. -/
namespace Sys2Proof.Machine

/-! ## Requests (R212 to R214) -/

/-- Endpoint fields (R213). -/
def epKind (e : Nat) : Nat := bitsOf e 63 60
def epCell (e : Nat) : Nat := 
  let (d, row, col) := (bitsOf e 15 14, bitsOf e 20 16, bitsOf e 26 21)
  16 * (64 * d + 8 * (row / 4) + col / 4) + 4 * (row % 4) + col % 4

/-- An endpoint is well formed by itself: reserved bits, alignment, assigned kind. -/
def epShape (e : Nat) : Bool :=
  match epKind e with
  | 0 => bitsOf e 59 53 == 0 && e % 64 == 0
  | 1 => bitsOf e 59 27 == 0 && e % 64 == 0
  | 2 => bitsOf e 59 27 == 0 && e % 16 == 0 && decide (bitsOf e 26 21 ≤ 31)
  | 3 => bitsOf e 59 8 == 0
  | _ => false

/-- Context of a thread's executing frame on an island. -/
def frameCtx (s : State) (t isl : Nat) : Option (Nat × Nat) := (threadAt s t).slots.find? (fun x => x.1 == isl)

/-- The binding of a stream port, 0 towards the engine, 1 towards the fabric (R334). -/
def sportRoute (s : State) (t e dir : Nat) : Option (DWord × Nat × Nat) :=
  (frameRoutes s t).find? (fun r => rtKind r.1 == 7 && bitsOf r.1.toNat 5 4 == bitsOf e 7 6 && bitsOf r.1.toNat 11 6 == e % 64
    && bitsOf r.1.toNat 12 12 == dir)

/-- A CELL endpoint lies in the thread's region and window, a stream endpoint is bound by its frame. -/
def epOwned (s : State) (t e len dir : Nat) : Bool :=
  match epKind e with
  | 2 =>
    (match frameCtx s t (epCell e / 16) with
     | some (i, σ) => decide (e % 2 ^ 14 + len / 4 ≤ winLen (ctxAt s i σ) (epCell e % 16))
     | none => false)
  | 3 => (sportRoute s t e dir).isSome
  | _ => true

/-- q0 to q3 keep R212. -/
def reqShape (q0 q1 q2 q3 : Nat) : Bool :=
  let len := q2 % 2 ^ 32
  epShape q0 && epShape q1 && len % 64 == 0 && decide (64 ≤ len)
    && (!q2.testBit 32 || epKind q0 == 1 || epKind q0 == 2) && (!q2.testBit 33 || q2.testBit 32) && q2 / 2 ^ 34 == 0
    && (q3 == 0 || (ctrBadWord q3).isNone)

def reqOf (q0 q1 q2 q3 owner packet : Nat) (site : Site) : CopyReq :=
  { src := q0, dst := q1, len := q2 % 2 ^ 32, waitFull := q2.testBit 32, consume := q2.testBit 33, ctr := q3, owner := owner,
    packet := packet, site := site }

def ceAt (s : State) (i : Nat) : CopyEng := s.ces.get {} i
def setCe (s : State) (i : Nat) (e : CopyEng) : State := { s with ces := s.ces.set {} i e }

/-- A complete request of an operator is taken up and checked (R214, R217). -/
def takeRequest (s : State) (i : Nat) (g : Nat × List Word) : State :=
  let e := ceAt s i
  let deps := e.gatherDeps
  let s := setCe s i { e with gather := e.gather.filter (fun x => x.1 != g.1), gatherDeps := if e.gather.length ≤ 1 then [] else deps }
  let q (k : Nat) : Nat := (g.2.getD (2 * k) 0).toNat + 2 ^ 32 * (g.2.getD (2 * k + 1) 0).toNat
  let site : Site := { isl := g.1 / 4096, slot := g.1 / 512 % 8, cell := g.1 / 32 % 16 }
  match (ctxAt s site.isl site.slot).thread with
  | none => s
  | some t =>
    let s := tookRequest s g.1
    if reqShape (q 0) (q 1) (q 2) (q 3) && epOwned s t (q 0) (q 2 % 2 ^ 32) 0 && epOwned s t (q 1) (q 2 % 2 ^ 32) 1 then
      let e := ceAt s i
      setCe { s with nextAcc := s.nextAcc + 1 } i
        { e with pendingQ := e.pendingQ ++ [{ reqOf (q 0) (q 1) (q 2) (q 3) t 0 site with deps := deps, no := s.nextAcc }] }
    else raiseUnit s t 2 (i % 8 + 64 * (i / 8)) 0 0x9015 0 0

/-- The oldest complete request enters the engine while it holds fewer than 16 (R216). -/
def takeRequests (i : Nat) : List (Nat × List Word) → State → State
  | [], s => s
  | g :: t, s => takeRequests i t (if g.2.length = 8 ∧ (ceAt s i).pendingQ.length < 16 then takeRequest s i g else s)

/-- COPY_REQUEST_START: complete requests are taken up, and an idle engine starts the next one (R216). -/
def execCopyRequestStart (die ce : Nat) (s : State) : Out :=
  let i := 8 * die + ce
  let s := takeRequests i (ceAt s i).gather s
  let e := ceAt s i
  match e.run, e.pendingQ with
  | none, r :: t => .next (setCe s i { e with run := some r, pendingQ := t })
  | _, _ => .next s

/-- The first payload word of a COPY packet that fails (R212 to R215). -/
def copyBad (p : Packet) : Option Nat :=
  let ep (i : Nat) : Bool := epShape (pw64 p i) && decide (epKind (pw64 p i) ≤ 1)
  let hi (i : Nat) : Bool := decide (1 < epKind (pw64 p i)) || bitsOf (pw p (i + 1)) 27 21 != 0 || (epKind (pw64 p i) == 1 && pw p (i + 1) % 2 ^ 28 != 0)
  let len := pw p 4
  let ctr := if pw64 p 6 = 0 then none else ctrBadWord (pw64 p 6)
  firstBad [(0, !ep 0 && !hi 0), (1, !ep 0), (2, !ep 2 && !hi 2), (3, !ep 2), (4, len % 64 != 0 || len == 0),
    (5, decide (4 ≤ pw p 5) || ((pw p 5).testBit 0 && epKind (pw64 p 0) != 1) || ((pw p 5).testBit 1 && !(pw p 5).testBit 0)),
    (6, ctr == some 0), (7, ctr == some 1), (8, decide (2 ^ 5 ≤ pw p 8))]

/-- COPY (R90, R215): the request joins the engine's; the packet completes with its counter update. Its queue is in WAIT while the
engine has no place for it (log entry 76). -/
def execCopyPacket (p : Packet) (s : State) : Out :=
  let q := s.cur.q
  let i := 8 * bitsOf (pw p 8) 4 3 + pw p 8 % 8
  issueWith s p (some 9) (copyBad p) false false (fun s =>
    let e := ceAt s i
    if 16 ≤ e.pendingQ.length then .next (queueWait s q)
    else
      let (n, u) := issuePacket s q p
      .next (setCe u i { e with pendingQ := e.pendingQ ++
        [{ reqOf (pw64 p 0) (pw64 p 2) (pw64 p 4) (pw64 p 6) (0x1000 + q) n { q := q } with
             pos := queuePos (queueAt s q), hdr := p.hdr.toNat }] }))

/-! ## The end of a copy (R215, R218) -/

def reqPart (s : State) (r : CopyReq) : Nat := if r.owner < 0x1000 then (threadAt s r.owner).part else (queueAt s (r.owner - 0x1000)).part
def reqLevel (s : State) (r : CopyReq) : Nat := if r.owner < 0x1000 then (threadAt s r.owner).level else (queueAt s (r.owner - 0x1000)).level

/-- Unit and die of engine `i` as bytes 22 and 23 of a record hold them (R254). -/
def ceUnit (i : Nat) : Nat := i % 8 + 64 * (i / 8)

/-- The counter of a copy takes `v`, poisoned or not, if it can be reached. -/
def copyCounter (s : State) (r : CopyReq) (v : Nat) (poison : Bool) : State :=
  if r.ctr = 0 then s
  else match ctrReach s (reqPart s r) (reqLevel s r) r.ctr with
    | (.ok k, s) => ctrAdd s k v poison
    | (.error _, s) => s

/-- A fault record of a copy of a queue (R215, R254). -/
def copyRecord (s : State) (i : Nat) (r : CopyReq) (code addr d1 unit : Nat) : FaultRec :=
  { code := code, resumable := resumableCode code, atEntry := false, save := false, kind := 2, others := 0, owner := r.owner,
    part := reqPart s r, frameId := 0, firing := 0, block := 0, slot := 255, unit := ceUnit i, elem := unit,
    addr := addr, detail1 := d1, detail2 := 0, time := s.dtime, fseq := 0 }

/-- The event of a terminal fault of a queue's copy, with the position and header of its packet, and depth 0 (R100, R215, R258). -/
def copyEvent (s : State) (r : CopyReq) (code fseq : Nat) : State :=
  postQueueEvent s (r.owner - 0x1000) code r.pos r.hdr (leBytes 2 r.owner ++ leBytes 2 0 ++ leBytes 4 fseq) 0 false

/-- A copy ends with a fault: the counter takes 64 times the units performed with its poison, and a queue's packet completes. -/
def copyFail (s : State) (r : CopyReq) (code fseq : Nat) : State :=
  let s := copyCounter s r (64 * r.done) true
  if r.owner < 0x1000 then s else completePacket (copyEvent s r code fseq) (r.owner - 0x1000) r.packet true

/-- All units are performed: the counter takes LEN and the request is done (R218). -/
def copyDone (s : State) (r : CopyReq) : State :=
  let s := copyCounter s r r.len false
  if r.owner < 0x1000 then s else completePacket s (r.owner - 0x1000) r.packet false

/-! ## The requests of an engine that have units -/

/-- Request `j` of an engine: 0 the one being worked on, j + 1 the j-th set aside. -/
def reqAt (e : CopyEng) (j : Nat) : Option CopyReq := if j = 0 then e.run else e.aside[j - 1]?

def putReq (s : State) (i j : Nat) (r : CopyReq) : State :=
  let e := ceAt s i
  setCe s i (if j = 0 then { e with run := some r } else { e with aside := e.aside.set (j - 1) r })

def dropReq (s : State) (i j : Nat) : State :=
  let e := ceAt s i
  setCe s i (if j = 0 then { e with run := none } else { e with aside := e.aside.eraseIdx (j - 1) })

/-- A request whose units are all performed or dropped ends: with its counter's update, or with its fault, which is raised on
the thread or recorded for the queue (R215, R218). A queue's record waits for room in the fault queue (R257). -/
def endReq (s : State) (i j : Nat) (r : CopyReq) : State :=
  if r.inFlight ≠ [] then s
  else match r.fault with
    | none => if r.len / 64 ≤ r.unit then copyDone (dropReq s i j) r else s
    | some (code, addr, d1, unit) =>
      if r.owner < 0x1000 then raiseUnit (copyFail (dropReq s i j) r code 0) r.owner 2 (ceUnit i) unit code addr d1
      else if let some n := r.answered then copyFail (dropReq s i j) r code n
      else if 1024 ≤ faultEntries s then s
      else
        let n := s.faults.nextSeq
        copyFail (pushRecord (dropReq s i j) (copyRecord s i r code addr d1 unit)) r code n

/-! ## Stream ends (R213, R216) -/

/-- The context that a stream endpoint of a request belongs to is not active (R216). -/
def epInactive (s : State) (r : CopyReq) (e dir : Nat) : Bool :=
  epKind e == 3 && (match sportRoute s r.owner e dir with
    | some (_, i, σ) => (ctxAt s i σ).st != .active
    | none => true)

def reqInactive (s : State) (r : CopyReq) : Bool := epInactive s r r.src 0 || epInactive s r r.dst 1

def sportOf (s : State) (e : Nat) : SPort := s.sports.get {} (64 * bitsOf e 7 6 + e % 64)
def setSport (s : State) (e : Nat) (p : SPort) : State :=
  { s with sports := s.sports.set {} (64 * bitsOf e 7 6 + e % 64) (if p.inQ = [] then {} else p) }

/-- Words of a token; a stop has none. -/
def tokWords (t : Tok) : List Word :=
  if t.stop ≠ 0 then [] else if t.kind = .vector then natWords 8 t.data.toNat else [BitVec.ofNat 32 t.data.toNat]

/-- Words of the next unit that a stream source has delivered. -/
def bufWords (r : CopyReq) : List Word := r.buf.flatMap tokWords

/-- The tokens that a stream source has delivered of a unit that is not complete go back to its port. -/
def unread (s : State) (r : CopyReq) : State × CopyReq :=
  if r.buf = [] then (s, r)
  else
    let p := sportOf s r.src
    (setSport s r.src { p with inQ := r.buf ++ p.inQ, thread := some r.owner }, { r with buf := [] })

/-- The binding of a request's stream destination, and where its tokens go. -/
def dstRoute (s : State) (r : CopyReq) : Option (DWord × Nat × Nat) := sportRoute s r.owner r.dst 1
def dstSend (s : State) (r : CopyReq) (l : List Tok) : Option State := unitSend s ((dstRoute s r).bind (routeDest s)) l

/-- What the tokens of a copy derive from (R233, R290). -/
def copyDeps (s : State) (i : Nat) (r : CopyReq) (l : List Tok) : List Nat :=
  unitDeps s r.site.isl (i / 8) (unitNo (64 + i % 8) r.no) (mergeDeps r.deps (depsOf l))

/-- The tokens of unit `n` at a stream destination: two vector beats, the second zero where an nb8 group has its padding (R303),
with the stops that stood among its words after them, or sixteen scalars with every stop in its place (R213). -/
def unitToks (s : State) (i : Nat) (r : CopyReq) (n : Nat) (ws : List Word) : List Tok :=
  let d := copyDeps s i r r.buf
  let f := match dstRoute s r with | some (w, _) => rtRecord w | none => 0
  let sc (l : List Word) : List Tok := l.map (fun w => scalarTok (fillScalar (fmtFMT f) w.toNat) d)
  if fmtVEC f then
    [beatTok (wordsNat (ws.take 8)) d, beatTok (if padVec f n then 0 else wordsNat (ws.drop 8)) d] ++ (r.buf.filter (fun t => t.stop ≠ 0)).map (fun t => stopTok t.stop d)
  else if r.buf = [] then sc ws
  else r.buf.flatMap (fun t => if t.stop ≠ 0 then [stopTok t.stop d] else sc (tokWords t))

/-- The next token of a stream source: a word joins the next unit, a stop goes to a stream destination in its place or is
discarded at a memory destination (R213). -/
def feedCopy (s : State) (r : CopyReq) : Option (CopyReq × State) :=
  let p := sportOf s r.src
  match p.inQ with
  | [] => none
  | x :: q =>
    if p.thread ≠ some r.owner then none
    else
      let u := setSport s r.src { p with inQ := q }
      if x.stop = 0 then some ({ r with buf := r.buf ++ [x] }, u)
      else if epKind r.dst ≠ 3 then some (r, u)
      else if r.buf = [] then (dstSend u r [stopTok x.stop x.deps]).map (fun v => (r, v))
      else some ({ r with buf := r.buf ++ [x] }, u)

/-! ## Issuing a unit (R216, R260) -/

/-- Memory key of the 64 bytes of the next unit at an endpoint in memory, or the fault. -/
def unitKey64 (s : State) (i : Nat) (r : CopyReq) (e : Nat) (k : XKind) (reads : Bool) : Except (Nat × Nat × Nat) Nat × State :=
  let p := reqPart s r
  match epKind e with
  | 2 =>
    let isl := epCell e / 16
    (match frameCtx s r.owner isl with
     | some (_, σ) => .ok (winKey s isl σ (ctxAt s isl σ) (epCell e % 16) (e % 2 ^ 14 + 16 * r.unit))
     | none => .error (0x9011, e % 2 ^ 14, 0), s)
  | 1 =>
    let a := e % 2 ^ 27 + 64 * r.unit
    if sbufAllowed s p (reqLevel s r) a 64 reads then (.ok (sbufBase + a), s) else (.error (0x9004, a, 0), s)
  | _ =>
    let a := e % 2 ^ 53 + 64 * r.unit
    if 2 ^ 53 ≤ a then (.error (0x9001, a, xDetail 0 k false), s)
    else match translate s (16 + 128 * (i / 8) + 64 + i % 8) p a k with
      | (.fault c d, s) => (.error (c, a, d), s)
      | (.ok b host, s) => if host && !hostReach s p then (.error (0x9005, a, 0), s) else (.ok (physKey b host), s)

/-- The key of a unit's memory end, checked by the hazard detector for a request of a thread (R290); 0 for a stream. -/
def unitKeyH (s : State) (i : Nat) (r : CopyReq) (e : Nat) (k : XKind) (reads wrote : Bool) : Except (Nat × Nat × Nat) Nat × State :=
  if epKind e = 3 then (.ok 0, s)
  else match unitKey64 s i r e k reads with
    | (.error f, s) => (.error f, s)
    | (.ok key, s) =>
      if 0x1000 ≤ r.owner then (.ok key, s)
      else match unitHazard s r.site.isl r.owner (i / 8) (unitNo (64 + i % 8) r.no) key 64 wrote r.deps with
        | .error p => (.error (0x901E, e % 2 ^ 53 + 64 * r.unit, p), s)
        | .ok s => (.ok key, s)

/-- A fault at the issue of a unit: a resumable one stalls the request at that unit, a terminal one ends it when the units in
flight have completed (R218, R260). A queue's record waits for room in the fault queue (R257). -/
def issueFault (s : State) (i : Nat) (r : CopyReq) (f : Nat × Nat × Nat) : State :=
  if !resumableCode f.1 then putReq s i 0 { r with fault := some (f.1, f.2.1, f.2.2, r.unit) }
  else if r.owner < 0x1000 then
    putReq (raiseUnit s r.owner 2 (ceUnit i) r.unit f.1 f.2.1 f.2.2) i 0 { r with stalled := some f.2.1 }
  else if 1024 ≤ faultEntries s then s
  else putReq (pushRecord s (copyRecord s i r f.1 f.2.1 f.2.2 r.unit)) i 0 { r with stalled := some f.2.1 }

/-- The second half of the next unit of a stream source is the padding beat of an nb8 group, which is discarded (R303). -/
def srcPad (s : State) (r : CopyReq) : Bool :=
  epKind r.src == 3 && (match sportRoute s r.owner r.src 0 with | some (w, _) => padVec (rtRecord w) r.unit | none => false)

/-- The next unit of the request being worked on is issued: its ends are translated; its words of a stream source are
there. Between two streams it is performed at once. -/
def issueUnit (s : State) (i : Nat) (r : CopyReq) : State :=
  let str := epKind r.src == 3
  if str ∧ (bufWords r).length < 16 then
    match feedCopy s r with
    | some (r, s) => putReq s i 0 r
    | none => s
  else match unitKeyH s i r r.src .read (!r.consume) r.consume with
    | (.error f, s) => issueFault s i r f
    | (.ok a, s) =>
      match unitKeyH s i r r.dst .write false true with
      | (.error f, s) => issueFault s i r f
      | (.ok b, s) =>
        if str ∧ epKind r.dst = 3 then
          match dstSend s r (unitToks s i r r.unit (bufWords r)) with
          | some s => let r := { r with buf := [], unit := r.unit + 1, done := r.done + 1 }; endReq (putReq s i 0 r) i 0 r
          | none => s
        else
          let ws := bufWords r
          let u : CopyUnit := { unit := r.unit, src := a, dst := b, id := s.nextAcc, left := if str then [] else List.range 16,
                                words := if str then ws.zipIdx.map (fun x => (x.2, x.1)) else [],
                                todo := List.range (if srcPad s r then 8 else 16) }
          putReq { s with nextAcc := s.nextAcc + 1 } i 0 { r with buf := [], unit := r.unit + 1, inFlight := r.inFlight ++ [u] }

/-! ## Performing a unit (R202, R216, R225, R237) -/

/-- The words of a unit, in order. -/
def unitWords (u : CopyUnit) : List Word := (List.range 16).map (fun j => u.words.get 0 j)

/-- Memory keys of the ends of a unit. -/
def unitKeys (r : CopyReq) (u : CopyUnit) : List Nat :=
  (if epKind r.src = 3 then [] else [u.src]) ++ (if epKind r.dst = 3 then [] else [u.dst])

/-- A unit in flight can go on: its memory is reachable, the words that it waits for are full (R212), no earlier unit of the request
that touches its memory is in flight (R230), and a stream destination, which takes units in order, has an active context and room.
With CONSUME its words are read only when they can be written too (R218). -/
def unitReady (s : State) (i : Nat) (r : CopyReq) (u : CopyUnit) : Bool :=
  let reach (k : Nat) : Bool := mdReaches s (i / 8) k
  let str := epKind r.dst == 3
  let before := r.inFlight.takeWhile (fun x => x.unit != u.unit)
  let first := before == []
  let clear := !before.any (fun x => (unitKeys r x).any (fun k => (unitKeys r u).contains k))
  let out := if str then first && !epInactive s r r.dst 1 && (dstSend s r (unitToks s i r u.unit (unitWords u))).isSome else reach u.dst
  clear && if u.left = [] then out
  else reach u.src && (!r.waitFull || allFull s u.src 16) && (hostBase ≤ u.src || !(str || r.consume) || out)

/-- What a step of a unit leaves: the unit with what is still to do, its completion, or a fault. -/
inductive UnitEnd where
  | more (u : CopyUnit)
  | done
  | fault (code addr d1 : Nat)
  deriving DecidableEq, Repr

/-- Address of unit `n` of an endpoint as a record shows it: word address of a window, SBUF address or VA. -/
def unitAddr (e n : Nat) : Nat :=
  match epKind e with
  | 2 => e % 2 ^ 14 + 16 * n
  | 1 => e % 2 ^ 27 + 64 * n
  | _ => e % 2 ^ 53 + 64 * n

/-- The read of a unit: sixteen words at one instant, of host memory one word, after the request for all of them. A bank word that
reads as uncorrectable stops the copy as a poisoned one does (log entry 65). -/
def readUnit (s : State) (r : CopyReq) (u : CopyUnit) : UnitEnd × State :=
  if hostBase ≤ u.src then
    let (j, s) := pickOf s u.left
    match (if u.asked then (true, s) else hostAsk s (reqPart s r) false (u.src - hostBase) 64) with
    | (false, s) => (.fault 0x9005 (unitAddr r.src u.unit) 0, s)
    | (true, s) => (.more { u with left := u.left.erase j, asked := true, words := u.words.set 0 j (rdWord s (u.src + 4 * j)) }, s)
  else match readCheck s u.src 16 with
    | (.poisoned j, s) => (.fault 0x9033 (unitAddr r.src u.unit + j) 1, s)
    | (.bad, s) => (if u.src < sbufBase then .fault 0x9006 (unitAddr r.src u.unit) 0 else .fault 0x9033 (unitAddr r.src u.unit) 1, s)
    | (.good, s) =>
      (.more { u with left := [], words := (rdWords s u.src 16).zipIdx.map (fun x => (x.2, x.1)) },
        if r.consume then setFulls s u.src false 16 else s)

/-- The thread of a request; a queue's has none. -/
def reqThread (r : CopyReq) : Option Nat := if r.owner < 0x1000 then some r.owner else none

/-- The write of a unit: to a stream, to host memory one word, after the request for all of them, else its words and their full
bits at one instant. A unit whose request cannot be sent writes nothing (R218). -/
def writeUnit (s : State) (i : Nat) (r : CopyReq) (u : CopyUnit) : UnitEnd × State :=
  let n := u.todo.length
  if epKind r.dst = 3 then
    match dstSend s r (unitToks s i r u.unit (unitWords u)) with
    | some s => (.done, s)
    | none => (.more u, s)
  else if hostBase ≤ u.dst then
    let (j, s) := pickOf s u.todo
    match (if u.sent then (true, s) else hostAsk s (reqPart s r) true (u.dst - hostBase) (4 * n)) with
    | (false, s) => (.fault 0x9005 (unitAddr r.dst u.unit) 0, s)
    | (true, s) =>
      let s := postWrite (wrWord s (u.dst + 4 * j) (u.words.get 0 j)) (reqPart s r) u.id (reqThread r)
      (if n ≤ 1 then .done else .more { u with todo := u.todo.erase j, sent := true }, s)
  else
    let s := wrWords s u.dst ((unitWords u).take n)
    (.done, if epKind r.dst ≠ 0 then setFulls (writtenBank s u.dst n) u.dst true n
      else if n = 16 then wholeLine (writtenBank s u.dst 16) u.dst else s)

/-- One step of a unit: its read, its write, or both where the words leave their source at the read. A unit that cannot be written
does not empty its source (R218). -/
def stepUnit (s : State) (i : Nat) (r : CopyReq) (u : CopyUnit) : UnitEnd × State :=
  if u.left = [] then writeUnit s i r u
  else match readUnit s r u with
    | (.more u, v) =>
      if u.left = [] ∧ (r.consume ∨ (epKind r.dst = 3 ∧ u.src < hostBase)) then
        match writeUnit v i r u with
        | (.fault c a d, _) => (.fault c a d, s)
        | e => e
      else (.more u, v)
    | e => e

/-- A unit of request `j` has made a step. -/
def performUnit (s : State) (i j : Nat) (r : CopyReq) (u : CopyUnit) : State :=
  let rest := r.inFlight.filter (fun x => x.unit != u.unit)
  match stepUnit s i r u with
  | (.more v, s) => putReq s i j { r with inFlight := r.inFlight.map (fun x => if x.unit = u.unit then v else x) }
  | (.done, s) =>
    let r := { r with inFlight := rest, done := r.done + 1 }
    endReq (putReq s i j r) i j r
  | (.fault c a d, s) =>
    let r := { r with inFlight := rest, fault := r.fault <|> some (c, a, d, u.unit) }
    endReq (putReq s i j r) i j r

/-! ## What an engine does next -/

/-- What can move in an engine: the issue of the next unit, a unit in flight of request j, or the end of a request whose
remaining units cannot complete. -/
inductive CopyMove where
  | issue
  | unit (j : Nat) (u : CopyUnit)
  | finish (j : Nat)
  deriving DecidableEq, Repr

def ceInFlight (e : CopyEng) : Nat := ((e.run.toList ++ e.aside).map (fun r => r.inFlight.length)).sum

/-- A unit of the request being worked on may be issued: up to 64 are in flight, its thread does not stop, it waits for no
answer and its streams' contexts are active (R216, R264). -/
def mayIssueUnit (s : State) (e : CopyEng) (r : CopyReq) : Bool :=
  r.fault.isNone && r.stalled.isNone && decide (r.unit < r.len / 64) && decide (ceInFlight e < 64) && !reqInactive s r
    && (decide (0x1000 ≤ r.owner) || (threadAt s r.owner).stop.isNone)

/-- What request `j` of an engine can do. -/
def reqMoves (s : State) (i j : Nat) (r : CopyReq) : List CopyMove :=
  let us := r.inFlight.filter (unitReady s i r)
  us.map (.unit j) ++ (if us = [] ∧ r.fault.isSome ∨ r.inFlight = [] ∧ r.fault.isNone ∧ r.len / 64 ≤ r.unit then [.finish j] else [])

def ceMoves (s : State) (i : Nat) : List CopyMove :=
  let e := ceAt s i
  (match e.run with | some r => (if mayIssueUnit s e r then [.issue] else []) ++ reqMoves s i 0 r | none => [])
    ++ e.aside.zipIdx.flatMap (fun x => reqMoves s i (x.2 + 1) x.1)

/-- The request being worked on is set aside: its stream's context is not active, or it waits for the answer to a fault.
An engine holds eight aside (R216, R260). -/
def setAside (s : State) (i : Nat) (r : CopyReq) : State :=
  let (s, r) := unread s r
  let e := ceAt s i
  setCe s i { e with run := none, aside := e.aside ++ [r] }

/-- A move of engine `i`. -/
def doCopy (s : State) (i : Nat) : CopyMove → State
  | .issue => (match (ceAt s i).run with | some r => issueUnit s i r | none => s)
  | .unit j u => (match reqAt (ceAt s i) j with | some r => performUnit s i j r u | none => s)
  | .finish j =>
    (match reqAt (ceAt s i) j with
     | some r => let r := { r with inFlight := [] }; endReq (putReq s i j r) i j r
     | none => s)

/-- The request being worked on is to be set aside: it waits for the answer to a fault, or a stream end that it still has tokens
for belongs to a context that is not active (R216). -/
def toSetAside (s : State) (r : CopyReq) : Bool :=
  r.stalled.isSome || (decide (r.unit < r.len / 64) && epInactive s r r.src 0) || epInactive s r r.dst 1

/-- COPY_UNIT: the engine issues the next unit or performs a step of one in flight, in any order (R216, R236). -/
def execCopyUnit (die ce : Nat) (s : State) : Out :=
  let i := 8 * die + ce
  let e := ceAt s i
  match e.run with
  | some r =>
    if toSetAside s r ∧ r.fault.isNone ∧ e.aside.length < 8 then .next (setAside s i r)
    else .next (moveCopy i s)
  | none => .next (moveCopy i s)
where
  moveCopy (i : Nat) (s : State) : State :=
    let ms := ceMoves s i
    let (n, s) := pickOf s (List.range ms.length)
    match ms[n]? with
    | none => s
    | some m => doCopy s i m

/-- COPY_RESUME: a set-aside request whose stream endpoints' contexts are active, and whose fault has been answered, is
served again when the engine is idle (R216). -/
def execCopyResume (die ce : Nat) (s : State) : Out :=
  let i := 8 * die + ce
  let e := ceAt s i
  match e.run, e.aside.find? (fun r => r.fault.isNone && !toSetAside s r) with
  | none, some r => .next (setCe s i { e with run := some r, aside := e.aside.erase r })
  | _, _ => .next s

/-! ## Requests of a thread that halts, and answers to faults (R218, R259, R263, R264) -/

/-- A unit in flight of the thread's copies can still go on. -/
def copiesGoing (s : State) (t : Nat) : Bool :=
  s.ces.any (fun e => (e.2.run.toList ++ e.2.aside).any (fun r => r.owner == t && r.inFlight.any (unitReady s e.1 r)))

/-- A request that waits for the answer to the fault at unit `unit` of engine `i` with an address. -/
def stalledAt (owner unit addr : Nat) (r : CopyReq) : Bool := r.owner == owner && r.unit == unit && r.stalled == some addr

/-- The first such request of an engine, with its number. -/
def stalledReq (s : State) (i owner unit addr : Nat) : Option (Nat × CopyReq) :=
  let e := ceAt s i
  ((List.range (e.aside.length + 1)).filterMap (fun j => (reqAt e j).map (fun r => (j, r)))).find? (fun x => stalledAt owner unit addr x.2)

/-- The answer lets the request go on at its unit (R263). -/
def unstall (s : State) (i owner unit addr : Nat) : State :=
  match stalledReq s i owner unit addr with
  | some (j, r) => putReq s i j { r with stalled := none }
  | none => s

/-- Engine of the unit field of a record. -/
def ceOf (unit : Nat) : Nat := 8 * (unit / 64) + unit % 8

end Sys2Proof.Machine
end

