-- ==== Sys2Proof/Machine/Butterfly.lean ====
section
/-! DEFINITION. Factor lists and digit reversal (R208), the twiddle generator (R460) and the exact butterfly kernels
(R463), which the matrix engines and the address generators use. -/
namespace Sys2Proof.Machine

/-! ## Factor lists (R208) -/

/-- The codes f0 to f12 of two words. -/
def facCodes (w4 w5 : Nat) : List Nat :=
  (List.range 13).map (fun i => if i < 10 then w4 / 2 ^ (3 * i) % 8 else w5 / 2 ^ (3 * (i - 10)) % 8)

/-- The factors of a list of codes: codes 1 to 4 are radix 2 to 5, 0 ends the list and only zeros follow it. -/
def facOf : List Nat → Option (List Nat)
  | [] => some []
  | 0 :: t => if t.all (· == 0) then some [] else none
  | c :: t => if c ≤ 4 then (facOf t).map (fun l => (c + 1) :: l) else none

/-- The factor list of w4 and w5 with the checks of R208. -/
def facList (w4 w5 : Nat) : Option (List Nat) :=
  if w4 / 2 ^ 30 ≠ 0 ∨ w5 / 2 ^ 9 ≠ 0 then none
  else match facOf (facCodes w4 w5) with
    | some l => if l ≠ [] ∧ 2 ≤ l.prod ∧ l.prod ≤ 8192 then some l else none
    | none => none

/-- rev(k) of a factor list (R208). -/
def revIdx : List Nat → Nat → Nat
  | [], _ => 0
  | f :: t, k => k % f * t.prod + revIdx t (k / f)

/-! ## Twiddles (R460) -/

/-- ⌊2π·2^96⌋. -/
def twoPi96 : Nat := 497805226624462170461043889244

/-- Terms of the cosine and sine series of x (in units of 2^−96), term index `i` on, with x^(2i)/(2i)! = `t`. The
remainder after 20 terms and the truncations stay below 2^−80, while no value that R460 rounds for M ≤ 8,192 lies that
close to a rounding boundary. -/
def trigSum : Nat → Nat → Nat → Nat → Int × Int
  | 0, _, _, _ => (0, 0)
  | n + 1, i, t, x =>
    let (c, s) := trigSum n (i + 1) (t * (x * x / 2 ^ 96) / 2 ^ 96 / ((2 * i + 1) * (2 * i + 2))) x
    let ts : Nat := t * x / 2 ^ 96 / (2 * i + 1)
    if i % 2 = 0 then (c + (t : Int), s + (ts : Int)) else (c - (t : Int), s - (ts : Int))

/-- cos and sin of 2π·n/d for n/d ≤ 1/8, in units of 2^−96. -/
def trigOct (n d : Nat) : Int × Int := trigSum 20 0 (2 ^ 96) (twoPi96 * n / d)

/-- cos and sin of 2π·n/d for n/d < 1/4. -/
def trigQuad (n d : Nat) : Int × Int :=
  if 8 * n ≤ d then trigOct n d
  else let (c, s) := trigOct (d - 4 * n) (4 * d); (s, c)

/-- cos and sin of 2πk/M. -/
def trig (k m : Nat) : Int × Int :=
  let k := k % m
  let (c, s) := trigQuad (4 * k % m) (4 * m)
  match 4 * k / m with
  | 0 => (c, s)
  | 1 => (-s, c)
  | 2 => (-c, -s)
  | _ => (s, -c)

/-- The nearest integer to x·2^−k, ties to even. -/
def rneShift (x : Int) (k : Nat) : Int := FVal.toInt .rne 0 (decide (x < 0)) x.natAbs (-(k : Int))

/-- tw(k, M, inv) (R460). -/
def twiddle (k m : Nat) (inv : Bool) : Int × Int :=
  let (c, s) := trig k m
  let re := rneShift c 81
  let im := rneShift (if inv then s else -s) 81
  (if re = 32768 then 32767 else re, if im = 32768 then 32767 else im)

/-! ## Kernels (R463) -/

/-- Complex values in units of 2^−46. -/
abbrev Cx := Int × Int

def cAdd (x y : Cx) : Cx := (x.1 + y.1, x.2 + y.2)
def cSub (x y : Cx) : Cx := (x.1 - y.1, x.2 - y.2)
/-- z times n / d, exact where the kernels use it. -/
def cMul (n : Int) (d : Int) (z : Cx) : Cx := (n * z.1 / d, n * z.2 / d)
/-- σ·J(z), σ = −1 unless inverse. -/
def cJ (inv : Bool) (z : Cx) : Cx := if inv then (-z.2, z.1) else (z.2, -z.1)
def cAt (l : List Cx) (i : Nat) : Cx := l.getD i (0, 0)

def kern2 (y : List Cx) : List Cx := [cAdd (cAt y 0) (cAt y 1), cSub (cAt y 0) (cAt y 1)]

def kern4 (inv : Bool) (y : List Cx) : List Cx :=
  let a0 := cAdd (cAt y 0) (cAt y 2)
  let a1 := cSub (cAt y 0) (cAt y 2)
  let a2 := cAdd (cAt y 1) (cAt y 3)
  let a3 := cJ inv (cSub (cAt y 1) (cAt y 3))
  [cAdd a0 a2, cAdd a1 a3, cSub a0 a2, cSub a1 a3]

def kern3 (inv : Bool) (y : List Cx) : List Cx :=
  let t1 := cAdd (cAt y 1) (cAt y 2)
  let t2 := cSub (cAt y 1) (cAt y 2)
  let x0 := cAdd (cAt y 0) t1
  let s1 := cSub x0 (cMul 3 2 t1)
  let m2 := cJ inv (cMul 28378 (2 ^ 15) t2)
  [x0, cAdd s1 m2, cSub s1 m2]

def kern5 (inv : Bool) (y : List Cx) : List Cx :=
  let t1 := cAdd (cAt y 1) (cAt y 4)
  let t2 := cAdd (cAt y 2) (cAt y 3)
  let a := cSub (cAt y 1) (cAt y 4)
  let b := cSub (cAt y 2) (cAt y 3)
  let t5 := cAdd t1 t2
  let x0 := cAdd (cAt y 0) t5
  let s0 := cSub x0 (cMul 5 4 t5)
  let m2 := cMul 18318 (2 ^ 15) (cSub t1 t2)
  let s1 := cAdd s0 m2
  let s2 := cSub s0 m2
  let m3 := cJ inv (cMul 19261 (2 ^ 15) (cAdd a b))
  let m4 := cJ inv (cMul 11904 (2 ^ 15) a)
  let m5 := cJ inv (cMul (-50425) (2 ^ 15) b)
  let i1 := cAdd m3 m4
  let i2 := cAdd m3 m5
  [x0, cAdd s1 i1, cAdd s2 i2, cSub s2 i2, cSub s1 i1]

/-- The radix of a RAD code (R442). -/
def radixOf (rad : Nat) : Nat := rad % 4 + 2

def kernel (r : Nat) (inv : Bool) (y : List Cx) : List Cx :=
  match r with
  | 2 => kern2 y
  | 3 => kern3 inv y
  | 4 => kern4 inv y
  | _ => kern5 inv y

end Sys2Proof.Machine
end

