-- ==== Sys2Proof/Machine/EngineOps.lean ====
section
/-! DEFINITION. Matrix engines and butterfly mode (R436 to R471): each micro-operation as its next work row (R468), the
dispatch of a handler, and the performing of a tile copy. -/
namespace Sys2Proof.Machine

/-! ## Tiles (R445, R446) -/

/-- Physical tile of a context's tile t (R204). -/
def physTile (s : State) (isl slot t : Nat) : Nat :=
  if isl < 256 ∧ ownerOf s isl = 0 ∧ 4 ≤ slot then (t + 8) % 16 else t

/-- Index of a physical tile of an engine in `State.physT`. -/
def physIdx (isl e p : Nat) : Nat := 16 * (4 * isl + e) + p

/-- BEXP (8-bit pattern), SAT and the last thread (plus 1) that named a physical tile. -/
def tileSt (s : State) (i : Nat) : Nat × Bool × Nat := s.physT.get (0, false, 0) i
def setTileSt (s : State) (i : Nat) (v : Nat × Bool × Nat) : State := { s with physT := s.physT.set (0, false, 0) i v }

/-- The bytes of a physical tile become zeros. -/
def zeroTile (s : State) (i : Nat) : State :=
  { s with mem := s.mem.filter (fun e => !(decide (tileBase + 8192 * i ≤ e.1) && decide (e.1 < tileBase + 8192 * (i + 1)))) }

/-- Name a tile: it is set to zeros first unless a context of the same thread named it last (R446). -/
def claimTile (s : State) (isl slot e t : Nat) : State :=
  let i := physIdx isl e (physTile s isl slot t)
  let me := match (ctxAt s isl slot).thread with | some t => t + 1 | none => 0
  if (tileSt s i).2.2 = me then s else setTileSt (zeroTile s i) i (0, false, me)

def claimTiles (s : State) : List Nat → State
  | [] => s
  | t :: r => claimTiles (claimTile s s.cur.isl s.cur.slot s.cur.eng t) r

/-- Key of a word of a tile of the executing engine. -/
def tKey (s : State) (t row w : Nat) : Nat :=
  tileKey s.cur.isl s.cur.eng (physTile s s.cur.isl s.cur.slot t) row w

def tWord (s : State) (t row w : Nat) : Nat := (rdWord s (tKey s t row w)).toNat
def tRow (s : State) (t row : Nat) : List Nat := (rdWords s (tKey s t row 0) 32).map (fun w => w.toNat)
def setTWord (s : State) (t row w v : Nat) : State := wrWord s (tKey s t row w) (BitVec.ofNat 32 v)
def setTRow (s : State) (t row : Nat) (l : List Nat) : State := wrWords s (tKey s t row 0) (l.map (BitVec.ofNat 32))
def tBytes (s : State) (t off n : Nat) : List Nat := (rdBytes s (tKey s t 0 0 + off) n).map (fun b => b.toNat)
def tByte (s : State) (t off : Nat) : Nat := (rdByte s (tKey s t 0 0 + off)).toNat

def curTile (s : State) (t : Nat) : Nat := physIdx s.cur.isl s.cur.eng (physTile s s.cur.isl s.cur.slot t)

/-- A clamp sets the tile's SAT (R446). -/
def markSat (s : State) (t : Nat) (b : Bool) : State :=
  if b then (let v := tileSt s (curTile s t); setTileSt s (curTile s t) (v.1, true, v.2.2)) else s

/-- Add to BEXP, clamped at −128 or 127; a clamp sets SAT (R446). -/
def addBexp (s : State) (t : Nat) (d : Int) : State :=
  let v := tileSt s (curTile s t)
  let x := sextNat 8 v.1 + d
  let y := satTo ⟨8, true⟩ x
  setTileSt s (curTile s t) (modPow 8 y, v.2.1 || decide (x ≠ y), v.2.2)

def addBexps (s : State) (d : Int) : List Nat → State
  | [] => s
  | t :: r => addBexps (addBexp s t d) d r

/-- Point p of a chain: tile, row and word (R445). -/
def ptTile (t p : Nat) : Nat := t + p / 2048
def ptGet (s : State) (t p : Nat) : Nat := tWord s (ptTile t p) (p % 2048 / 32) (p % 32)
def ptSet (s : State) (t p v : Nat) : State := setTWord s (ptTile t p) (p % 2048 / 32) (p % 32) v

/-- Parts of a ci16 word and their packing (R301). -/
def ciRe (v : Nat) : Int := sextNat 16 v
def ciIm (v : Nat) : Int := sextNat 16 (v / 2 ^ 16)
def ciPack (re im : Int) : Nat := modPow 16 re + 2 ^ 16 * modPow 16 im

/-! ## Ports (R437) -/

/-- Tokens that stand at an input port. -/
def portView (s : State) (p : Nat) : List Tok := bufOf (curCtx s) (engKey s.cur.eng p)

def modEng (s : State) (f : EngCtx → EngCtx) : State :=
  modCtx s s.cur.isl s.cur.slot (fun c => { c with eng := c.eng.set {} s.cur.eng (f (engAt c s.cur.eng)) })

/-- Take `n` tokens from a port; what they derive from is noted. -/
def takePort (s : State) (p n : Nat) : State :=
  let k := engKey s.cur.eng p
  let l := portView s p
  let s := modEng s (fun g => { g with deps := liveDeps s s.cur.isl (mergeDeps g.deps (depsOf (l.take n))) })
  modCtx s s.cur.isl s.cur.slot (fun c => setBuf c k (l.drop n))

/-- The buffer that an output port of the engine feeds (R334, ENGOUT). -/
def outPort (s : State) (p : Nat) : Option (Nat × Nat × Nat) :=
  let c := curCtx s
  match c.block.routes.find? (fun r => rtKind r == 9 && bitsOf r.toNat 5 4 == s.cur.eng && bitsOf r.toNat 7 6 == p) with
  | none => none
  | some r =>
    match endDest s c s.cur.isl (rtEnd r) with
    | some (.buf i σ k) => some (i, σ, k)
    | _ => none

/-- `n` tokens may leave on an output port: their entries are reserved at the destination (R176); or one has an entry, and the
context may never hold `n` there, so that the rest follow it as entries free (log entry 72). -/
def outRoom (s : State) (p n : Nat) : Bool :=
  match outPort s p with
  | some (i, σ, k) => !heldBack s i σ k 512 && (mayEnter s i σ k n || (decide (mostRoom s i σ k < n) && mayEnter s i σ k 1))
  | none => true

def sendAll (s : State) (i σ k : Nat) : List Tok → State
  | [] => s
  | t :: r => sendAll (sendTo s i σ k (.buf i σ k) { t with src := 512, deps := (engAt (curCtx s) s.cur.eng).deps }) i σ k r

/-- Tokens leave on an output port. -/
def sendPort (s : State) (p : Nat) (l : List Tok) : State :=
  match outPort s p with
  | some (i, σ, k) =>
    let t := sendAll s i σ k l
    if mayEnter s i σ k l.length then t else { t with flights := holdBack s.flights.length k t.flights }
  | none => s

/-! ## Work rows (R468) -/

/-- What a work row does: it waits for a token or for room, faults, meets a stop where it needs a beat (with the state that
the beats before it leave, R454), is done with more rows to follow, keeps its own row number, or ends its micro-operation. -/
inductive MRes where
  | wait
  | fault (code addr : Nat)
  | broken (s : State)
  | more (s : State)
  | keep (s : State)
  | last (s : State)

/-- Mark under which a faulted engine of a block stays stopped (R470). -/
def engMark (blk e : Nat) : Nat := 2 ^ 20 + 4 * blk + e

/-- The engine may work: its context is active, or it has to reach its work-row boundary (R469) or to complete what a save waits
for (R266), and no fault has stopped it. -/
def engMay (s : State) : Bool :=
  let c := curCtx s
  (c.st == .active || mustWork s s.cur.isl s.cur.slot s.cur.eng) &&
    (match c.thread with
     | some t => !(threadAt s t).blocked.contains (engMark c.blkIdx s.cur.eng) && (threadAt s t).stop.isNone
     | none => true)

/-- A fault of an engine (R470): UNITKIND 3, slot 0xFF, detail 1 the tag, micro-operation and work row. -/
def raiseEngine (s : State) (code addr : Nat) : State :=
  let c := curCtx s
  let g := engAt c s.cur.eng
  match c.thread with
  | some t =>
    let s := threadFault s t { code := code, kind := 3, block := c.blkIdx, unit := s.cur.eng, addr := addr,
                               detail1 := g.tag + 16 * g.mop + 2 ^ 16 * g.row }
    modThread s t (fun th => { th with blocked := th.blocked ++ [engMark c.blkIdx s.cur.eng] })
  | none => s

/-- The micro-operation is complete: the next one, or the end of the handler (R439). -/
def endMicro (s : State) : State :=
  modEng s (fun g =>
    let n := match handlerOf (curCtx s) s.cur.eng g.tag with | some h => h.words.length | none => 0
    if g.mop + 1 < n then { g with mop := g.mop + 1, row := 0, pass2 := false, autoS := 0 }
    else { g with mop := 0, row := 0, pass2 := false, autoS := 0, busy := false, taken := false, work := g.work.drop 1 })

/-- One work row of the micro-operation being run, with the tiles that it names. -/
def runMicro (tiles : List Nat) (f : EngCtx → State → MRes) (s : State) : Out :=
  let g := engAt (curCtx s) s.cur.eng
  if !engMay s || !g.busy then .next s
  else match f g (claimTiles s tiles) with
    | .wait => .next s
    | .fault code addr => .next (raiseEngine s code addr)
    | .broken t => .next (raiseEngine t 0x9016 0)
    | .more t => .next (modEng t (fun g => { g with row := g.row + 1 }))
    | .keep t => .next t
    | .last t => .next (endMicro t)

/-- A form of `rows` work rows. -/
def rowForm (tiles : List Nat) (rows : Nat) (f : State → Nat → State) (s : State) : Out :=
  runMicro tiles (fun g t => if g.row + 1 < rows then .more (f t g.row) else .last (f t g.row)) s

/-- A count field n − 1. -/
def cnt {n : Nat} (x : BitVec n) : Nat := x.toNat + 1

def execMnop (s : State) : Out := runMicro [] (fun _ t => .last t) s
def execMswap (s : State) : Out :=
  runMicro [] (fun _ t => .last (modEng t (fun g => { g with act := g.shadow, shadow := g.act }))) s
def execMmask (nact : BitVec 5) (kact : BitVec 7) (s : State) : Out :=
  runMicro [] (fun _ t => .last (modEng t (fun g => { g with msk := BitVec.ofNat 32 (nact.toNat + 32 * kact.toNat) }))) s

/-! ## Row utilities (R455) -/

def execMzero (td : BitVec 4) (row nr : BitVec 6) (s : State) : Out :=
  rowForm [td.toNat] (cnt nr) (fun t i => setTRow t td.toNat (row.toNat + i) (List.replicate 32 0)) s

def execMfill (td : BitVec 4) (row nr : BitVec 6) (pidx : BitVec 3) (s : State) : Out :=
  rowForm [td.toNat] (cnt nr) (fun t i =>
    setTRow t td.toNat (row.toNat + i)
      (List.replicate 32 ((engAt (curCtx t) t.cur.eng).pw.get 0 pidx.toNat).toNat)) s

def execMcopy (ta td : BitVec 4) (row nr drow : BitVec 6) (s : State) : Out :=
  rowForm [ta.toNat, td.toNat] (cnt nr) (fun t i => setTRow t td.toNat (drow.toNat + i) (tRow t ta.toNat (row.toNat + i))) s

/-- Half `h` of a row. -/
def tHalf (s : State) (t row h : Nat) : Nat := tWord s t row (h / 2) / 2 ^ (16 * (h % 2)) % 2 ^ 16

def execMtrans (ta td : BitVec 4) (row drow : BitVec 6) (es : Bool) (s : State) : Out :=
  if es then
    rowForm [ta.toNat, td.toNat] 64 (fun t i =>
      setTRow t td.toNat i ((List.range 32).map (fun w => tHalf t ta.toNat (2 * w) i + 2 ^ 16 * tHalf t ta.toNat (2 * w + 1) i))) s
  else
    rowForm [ta.toNat, td.toNat] 32 (fun t i =>
      setTRow t td.toNat (drow.toNat + i) ((List.range 32).map (fun j => tWord t ta.toNat (row.toNat + j) i))) s

/-! ## Element-wise forms (R456) -/

/-- Apply a word operation with a saturation flag to two rows. -/
def elemRow (f : Nat → Nat → Nat × Bool) (t : State) (ta tb td row : Nat) : State :=
  let l := (List.range 32).map (fun w => f (tWord t ta row w) (tWord t tb row w))
  markSat (setTRow t td row (l.map (·.1))) td (l.any (·.2))

def i32F : IntF := ⟨32, true⟩

/-- A ci16 word from two exact parts (R456). -/
def ciSat (re im : Int) : Nat × Bool := (ciPack (sat16 re) (sat16 im), decide (sat16 re ≠ re) || decide (sat16 im ≠ im))

def maddWord (kd a b : Nat) : Nat × Bool :=
  match kd with
  | 0 => let x := i32F.read a + i32F.read b; (i32F.pat (satTo i32F x), satFlag i32F x)
  | 1 => (f32F.rnd .rne false 0 (FVal.sum .rne [f32F.dec a, f32F.dec b]), false)
  | _ => ciSat (ciRe a + ciRe b) (ciIm a + ciIm b)

def execMadd (ta tb td : BitVec 4) (row nr : BitVec 6) (kd : BitVec 2) (s : State) : Out :=
  rowForm [ta.toNat, tb.toNat, td.toNat] (cnt nr)
    (fun t i => elemRow (maddWord kd.toNat) t ta.toNat tb.toNat td.toNat (row.toNat + i)) s

def mcmulWord (cj : Bool) (a b : Nat) : Nat × Bool :=
  let bi := if cj then -ciIm b else ciIm b
  ciSat (rneShift (ciRe a * ciRe b - ciIm a * bi) 15) (rneShift (ciRe a * bi + ciIm a * ciRe b) 15)

def execMcmul (ta tb td : BitVec 4) (row nr : BitVec 6) (cj : Bool) (s : State) : Out :=
  rowForm [ta.toNat, tb.toNat, td.toNat] (cnt nr)
    (fun t i => elemRow (mcmulWord cj) t ta.toNat tb.toNat td.toNat (row.toNat + i)) s

def execMconj (ta td : BitVec 4) (row nr : BitVec 6) (s : State) : Out :=
  rowForm [ta.toNat, td.toNat] (cnt nr)
    (fun t i => elemRow (fun a _ => ciSat (ciRe a) (-ciIm a)) t ta.toNat ta.toNat td.toNat (row.toNat + i)) s

/-- MACT on a word; `c` is PW1 (R456). -/
def mactWord (fn : Nat) (ki : Bool) (c a : Nat) : Nat × Bool :=
  if ki then
    let x := i32F.read a
    if fn = 0 then (i32F.pat (max x 0), false)
    else
      let hi := i32F.read c
      let lo := satTo i32F (-hi)
      (i32F.pat (min (max x lo) hi), false)
  else
    let x := f32F.dec a
    if fn = 0 then
      (match x with
       | .nan => f32F.nan
       | _ => if x.isNeg then 0 else a, false)
    else
      let hi := f32F.dec c
      (f32F.rnd .rne false 0 ((FVal.maxT x hi.neg).minT hi), false)

def execMact (ta td : BitVec 4) (row nr : BitVec 6) (fn : BitVec 3) (ki : Bool) (s : State) : Out :=
  rowForm [ta.toNat, td.toNat] (cnt nr) (fun t i =>
    let c := ((engAt (curCtx t) t.cur.eng).pw.get 0 1).toNat
    elemRow (fun a _ => mactWord fn.toNat ki c a) t ta.toNat ta.toNat td.toNat (row.toNat + i)) s

/-! ## Weights (R447 to R449) -/

/-- g of R447. -/
def wkG (p : Nat) : Nat := if p ≤ 2 then 4 else if p ≤ 4 then 2 else 1

/-- K_eff and N of a weight kind with p planes (R447). -/
def wkShape (wk p : Nat) : Nat × Nat :=
  match wk with
  | 0 | 1 => (32, 32)
  | 2 => (32 * wkG p, 32)
  | 3 | 4 => (16, 16)
  | _ => (16, 32)

/-- Bytes of a weight set (R448). -/
def wkBytes (wk p : Nat) : Nat :=
  match wk with
  | 0 | 1 => 1024
  | 2 => 4 * wkG p * (64 + 32 * p)
  | _ => 512

/-- Stored pattern of weight (k, n) in a set that starts at byte `base` of a tile (R448, R303): for nb8 the byte with its
first p planes and zeros below them. -/
def wkStored (s : State) (t base wk p k n : Nat) : Nat :=
  let e := n * (wkShape wk p).1 + k
  match wk with
  | 2 =>
    let g := base + e / 256 * (64 + 32 * p)
    let x := e % 256
    ((List.range p).map (fun i => tByte s t (g + 64 + 32 * i + x / 8) / 2 ^ (x % 8) % 2 * 2 ^ (7 - i))).sum
  | 3 | 4 => tByte s t (base + 2 * e) + 256 * tByte s t (base + 2 * e + 1)
  | _ => tByte s t (base + e)

/-- Bit of plane j, cell (i, n) for a set in a tile (R449). -/
def planeBit (s : State) (t base wk p j i n : Nat) : Bool :=
  let q (k : Nat) := wkStored s t base wk p k n
  match wk with
  | 0 | 1 => (q i).testBit j
  | 2 =>
    let g := wkG p
    if g = 1 then (q i).testBit j
    else decide (j / p < g) && (q (g * i + j / p)).testBit (8 - p + j % p)
  | 3 | 4 => decide (n < 16) && (q (i / 2)).testBit (8 * (i % 2) + j)
  | _ => decide (i < 16) && (q i).testBit j

/-- All planes of a set (R448: every cell of every shadow plane is written). -/
def loadPlanes (s : State) (t base wk p : Nat) : Tab Bool :=
  (List.range 8192).filterMap (fun x =>
    if planeBit s t base wk p (x / 1024) (x / 32 % 32) (x % 32) then some (x, true) else none)

/-- Content beats and the stream index of a content beat: each group of an odd p is followed by a padding beat (R303). -/
def beatIdx (wk p b : Nat) : Nat := if wk = 2 ∧ p % 2 = 1 then b + b / (2 + p) else b

/-- The scale exponent that an input port's record names, as 8 bits (R448, R308): a register of its source cell. -/
def portScale (c : Ctx) (e p : Nat) : Nat :=
  match c.block.routes.find? (fun r => rtKind r == 8 && bitsOf r.toNat 5 4 == e && bitsOf r.toNat 7 6 == p) with
  | some r =>
    let f := bitsOf r.toNat 32 17
    if fmtSEN f then (scaleOf c (bitsOf r.toNat 11 8) (fmtSREG f)).toNat % 256 else 0
  | none => 0

/-- Write one content beat at a byte offset of a tile. -/
def setBeat (s : State) (t off v : Nat) : State := wrBytes s (tKey s t 0 0 + off) (leBytes 32 v)

/-- Write the content beats of a work row: (beat number, its token). -/
def setBeats (s : State) (t base : Nat) : List (Nat × Tok) → State
  | [] => s
  | (b, k) :: r => setBeats (setBeat s t (base + 32 * b) k.data.toNat) t base r

/-- The shadow descriptor (R448). -/
def wkDesc (wk pl : Nat) (mid : Bool) (ta row scx : Nat) : Nat :=
  wk + 8 * pl + 64 * flagNat mid + 128 * ta + 2 ^ 11 * row + 2 ^ 17 * scx + 2 ^ 25

/-- MLDW (R448): with SRC = 1 each work row takes its beats from the port; the last loads the planes. -/
def execMldw (ta : BitVec 4) (src : Bool) (port : BitVec 2) (row : BitVec 6) (wk pl : BitVec 3) (mid : Bool) (s : State) : Out :=
  let p := pl.toNat + 1
  let k := wk.toNat
  let total := wkBytes k p / 32
  let rows := (wkBytes k p + 127) / 128
  let base := 128 * row.toNat
  runMicro [ta.toNat] (fun g t =>
    let lo := 4 * g.row
    let hi := min (lo + 4) total
    let n := beatIdx k p hi - beatIdx k p lo
    let view := (portView t port.toNat).take n
    let fin (t : State) : MRes :=
      if g.row + 1 < rows then .more t
      else .last (modEng t (fun g => { g with shadow := { g.shadow with planes := loadPlanes t ta.toNat base k p } }))
    let desc (scx : Nat) (t : State) : State :=
      if g.row = 0 then
        modEng t (fun g => { g with shadow := { g.shadow with desc := BitVec.ofNat 32 (wkDesc k pl.toNat mid ta.toNat row.toNat scx) } })
      else t
    if !src then fin (desc 0 t)
    else if view.length < n && !view.any (fun x => x.stop ≠ 0) then .wait
    else
      let good := view.takeWhile (fun x => x.stop = 0)
      let t1 := desc (portScale (curCtx t) t.cur.eng port.toNat) t
      let beats := (List.range (hi - lo)).filterMap (fun i =>
        (good[beatIdx k p (lo + i) - beatIdx k p lo]?).map (fun x => (lo + i, x)))
      let t2 := setBeats (takePort t1 port.toNat good.length) ta.toNat base beats
      if good.length < n then .broken t2 else fin t2) s

/-! ## Multiplication (R452, R316) -/

/-- Weight (k, n) read back from the active planes (R449): a code, or for nb8 the p bits of qp. -/
def wkRead (w : WeightSet) (wk p k n : Nat) : Nat :=
  let b (j i : Nat) : Nat := flagNat (w.planes.get false (1024 * j + 32 * i + n))
  match wk with
  | 2 =>
    let g := wkG p
    if g = 1 then ((List.range p).map (fun x => b (8 - p + x) k * 2 ^ x)).sum
    else ((List.range p).map (fun x => b (k % g * p + x) (k / g) * 2 ^ x)).sum
  | 3 | 4 => ((List.range 16).map (fun x => b (x % 8) (2 * k + x / 8) * 2 ^ x)).sum
  | _ => ((List.range 8).map (fun x => b x k * 2 ^ x)).sum

/-- Float format of a weight kind. -/
def wkFloat (wk : Nat) : FloatF :=
  match wk with
  | 3 => f16F | 4 => bf16F | 5 => e4m3F | _ => e5m2F

/-- Integer activation k of a row (R442, AS). -/
def actInt (alt : Bool) (row : List Nat) (k : Nat) : Int :=
  let b := row.getD (k / 4) 0 / 2 ^ (8 * (k % 4)) % 256
  if alt then (b : Int) else sextNat 8 b

/-- Float activation k of a row. -/
def actFloat (wk : Nat) (alt : Bool) (row : List Nat) (k : Nat) : FVal :=
  if wk < 5 then (wkFloat wk).dec (row.getD (k / 2) 0 / 2 ^ (16 * (k % 2)) % 2 ^ 16)
  else (if alt then e5m2F else e4m3F).dec (row.getD (k / 4) 0 / 2 ^ (8 * (k % 4)) % 256)

/-- Fields of a weight descriptor (R448). -/
def dWk (d : Nat) : Nat := d % 8
def dP (d : Nat) : Nat := bitsOf d 5 3 + 1
def dMid (d : Nat) : Bool := d.testBit 6
def dTa (d : Nat) : Nat := bitsOf d 10 7
def dRow (d : Nat) : Nat := bitsOf d 16 11
def dScx (d : Nat) : Int := sextNat 8 (bitsOf d 24 17)
def dV (d : Nat) : Bool := d.testBit 25

/-- Terms of group j that are not masked. -/
def groupKs (gs kact j : Nat) : List Nat := (List.range gs).filterMap (fun i => if gs * j + i < kact then some (gs * j + i) else none)

/-- One group added to an f32 accumulator with one rounding (R316). -/
def addGroup (acc : Nat) (g : FVal) : Nat := f32F.rnd .rne false 0 (FVal.sum .rne [f32F.dec acc, g])

/-- Groups added one at a time, in increasing j. -/
def addGroups (grp : Nat → Option FVal) (n : Nat) : Nat → Nat → Nat
  | 0, acc => acc
  | f + 1, acc => addGroups grp n f (match grp (n - (f + 1)) with | some g => addGroup acc g | none => acc)

/-- pass(acc, a, W[·][n]) for k < kact (R316, R452). -/
def passWord (s : State) (w : WeightSet) (alt : Bool) (row : List Nat) (kact n acc : Nat) : Nat :=
  let d := w.desc.toNat
  let wk := dWk d
  let p := dP d
  let keff := (wkShape wk p).1
  match wk with
  | 0 | 1 =>
    let t : IntF := ⟨8, wk == 0⟩
    let x := i32F.read acc + ((List.range kact).map (fun k => t.read (wkRead w wk p k n) * actInt alt row k)).sum
    i32F.pat (satTo i32F x)
  | 2 =>
    let m : Int := if dMid d ∧ p < 8 then 2 ^ (7 - p) else 0
    let grp (j : Nat) : Option FVal :=
      let ks := groupKs 4 kact j
      if ks = [] then none
      else
        let e := n * keff + 4 * j
        let sc := tByte s (dTa d) (128 * dRow d + e / 256 * (64 + 32 * p) + e % 256 / 4)
        if sc = 255 then some .nan
        else
          let x := (ks.map (fun k => (sextNat p (wkRead w wk p k n) * 2 ^ (8 - p) + m) * actInt alt row k)).sum
          some ((FVal.ofInt x).scale ((sc : Int) - 127 + dScx d))
    addGroups grp (keff / 4) (keff / 4) acc
  | _ =>
    let gs := if wk < 5 then 4 else 8
    let grp (j : Nat) : Option FVal :=
      let ks := groupKs gs kact j
      if ks = [] then none
      else some ((FVal.sum .rne (ks.map (fun k => ((wkFloat wk).dec (wkRead w wk p k n)).mul (actFloat wk alt row k)))).scale (dScx d))
    addGroups grp (keff / gs) (keff / gs) acc

/-- One row of MMUL or MACC (R452). -/
def mulRow (macc : Bool) (ta td row : Nat) (z alt : Bool) (g : EngCtx) (s : State) : State :=
  let d := g.act.desc.toNat
  let (keff, nn) := wkShape (dWk d) (dP d)
  let nact := min (g.msk.toNat % 32 + 1) nn
  let kact := min (bitsOf g.msk.toNat 11 5 + 1) keff
  let a := tRow s ta row
  let old := tRow s td row
  setTRow s td row ((List.range 32).map (fun n =>
    if nact ≤ n then (if z then 0 else old.getD n 0)
    else passWord s g.act alt a kact n (if macc then old.getD n 0 else 0)))

/-- MMUL and MACC: FLT_STREAM_SPEC without an active set. Row i is read before it is written. -/
def mulForm (macc : Bool) (ta td : BitVec 4) (row nr : BitVec 6) (z alt : Bool) (s : State) : Out :=
  runMicro [ta.toNat, td.toNat] (fun g t =>
    if !dV g.act.desc.toNat then .fault 0x9014 0
    else
      let t := claimTiles t [dTa g.act.desc.toNat]
      let u := mulRow macc ta.toNat td.toNat (row.toNat + g.row) z alt g t
      if g.row + 1 < cnt nr then .more u else .last u) s

def execMmul (ta td : BitVec 4) (row nr : BitVec 6) (z alt : Bool) (s : State) : Out := mulForm false ta td row nr z alt s
def execMacc (ta td : BitVec 4) (row nr : BitVec 6) (z alt : Bool) (s : State) : Out := mulForm true ta td row nr z alt s

/-! ## Requantisation (R453) -/

/-- Destination formats of MCVT: the width, and the code and clamp of a value. -/
def dfWidth (df : Nat) : Nat := match df with | 0 | 1 | 6 | 7 => 8 | _ => 16

def dfConv (df : Nat) (md : RMode) (x : FVal) : Nat × Bool :=
  let int (t : IntF) : Nat × Bool :=
    match x with
    | .nan => (0, false)
    | .inf n => (t.pat (if n then t.minv else t.maxv), true)
    | .fin n m e => let v := FVal.toInt md 0 n m e; (t.pat (satTo t v), satFlag t v)
  let flt (f : FloatF) : Nat × Bool := (f.rnd md true 0 x, f.rnd md true 0 x != f.rnd md false 0 x)
  match df with
  | 0 => int ⟨8, true⟩
  | 1 => int ⟨8, false⟩
  | 2 => int ⟨16, true⟩
  | 3 => int ⟨16, false⟩
  | 4 => flt f16F
  | 5 => flt bf16F
  | 6 => flt e4m3F
  | _ => flt e5m2F

/-- MCVT: a work row is one row of the destination, made from 32/w source rows of 32 words. -/
def execMcvt (ta td : BitVec 4) (row : BitVec 6) (nr : BitVec 5) (sk : Bool) (df rm : BitVec 3) (s : State) : Out :=
  let w := dfWidth df.toNat
  let per := 32 / w
  runMicro [ta.toNat, td.toNat] (fun g t =>
    let e := sextNat 8 (g.pw.get 0 0).toNat
    let rows := (cnt nr + per - 1) / per
    let srcs := (List.range per).filter (fun i => decide (per * g.row + i < cnt nr))
    let l := srcs.flatMap (fun i => (tRow t ta.toNat (row.toNat + per * g.row + i)).map (fun x =>
      dfConv df.toNat (rmodeOf rm.toNat) (((if sk then f32F.dec x else FVal.ofInt (i32F.read x))).scale e)))
    let bytes := leBytes (l.length * w / 8) (packLanes w (l.map (·.1)))
    let u := markSat (wrBytes t (tKey t td.toNat (row.toNat + g.row) 0) bytes) td.toNat (l.any (·.2))
    if g.row + 1 < rows then .more u else .last u) s

/-! ## Beats in and out (R454) -/

/-- Planes of a port's nb8 groups whose odd number leaves a padding beat in each; 0 for any other port (R303). -/
def oddPlanes (c : Ctx) (e p : Nat) : Nat :=
  match c.block.routes.find? (fun r => rtKind r == 8 && bitsOf r.toNat 5 4 == e && bitsOf r.toNat 7 6 == p) with
  | some r =>
    let f := bitsOf r.toNat 32 17
    if fmtFMT f = 20 ∧ fmtPL f % 2 = 1 then fmtPL f else 0
  | none => 0

/-- MLDA: a work row takes four beats of content; the padding beats of nb8 groups are taken and discarded (R303). The first group
begins with the micro-operation (log entry 14). -/
def execMlda (td : BitVec 4) (port : BitVec 2) (row nr : BitVec 6) (s : State) : Out :=
  runMicro [td.toNat] (fun g t =>
    let p := oddPlanes (curCtx t) t.cur.eng port.toNat
    let at_ (b : Nat) : Nat := beatIdx (if p = 0 then 0 else 2) p (4 * g.row + b) - beatIdx (if p = 0 then 0 else 2) p (4 * g.row)
    let view := (portView t port.toNat).take (at_ 4)
    if view.length < at_ 4 && !view.any (fun x => x.stop ≠ 0) then .wait
    else
      let good := view.takeWhile (fun x => x.stop = 0)
      let beats := (List.range 4).filterMap (fun b => (good[at_ b]?).map (fun k => (b, k)))
      let u := setBeats (takePort t port.toNat good.length) td.toNat (128 * (row.toNat + g.row)) beats
      if good.length < at_ 4 then .broken u else if g.row + 1 < cnt nr then .more u else .last u) s

/-- Beats of a row. -/
def rowBeats (s : State) (t row : Nat) : List Tok :=
  (List.range 4).map (fun b => beatTok (leNat (rdBytes s (tKey s t row 0 + 32 * b) 32)) [])

/-- A cell of the engine's quad in the order of R169. -/
def quadCell (e q : Nat) : Nat := 8 * (e / 2) + 2 * (e % 2) + 4 * (q / 2) + q % 2

/-- Words that an engine writes to a bank: the words become full and any poison is cleared (R202, R285). -/
def wrBankFull (s : State) (key : Nat) (l : List Word) : State :=
  writtenBank (setFulls (wrWords s key l) key true l.length) key l.length

/-- MOUT to a bank: the words of the rows up to the current one that are not written are `left`; none of the current row's is if there
are none. One of them is written, or, while the context is active, the next row's join them: all words of a MOUT are written in any
order (R236). `key` is that of the first word, `rows` the number of rows. -/
def moutWords (s : State) (ta row key rows : Nat) (g : EngCtx) : MRes :=
  let words (r : Nat) : List Nat := (List.range 32).map (fun w => 32 * r + w)
  let left := if g.left = [] then words g.row else g.left
  let next := (curCtx s).st == .active && decide (g.row + 1 < rows)
  let (j, s) := pickOf s (left ++ (if next then [32 * rows] else []))
  if j = 32 * rows then .more (modEng s (fun g => { g with left := left ++ words (g.row + 1) }))
  else
    let s := wrBankFull s (key + 4 * j) [BitVec.ofNat 32 ((tRow s ta (row + j / 32)).getD (j % 32) 0)]
    let s := modEng s (fun g => { g with left := left.erase j })
    if 1 < left.length then .keep s else if g.row + 1 < rows then .more s else .last s

def execMout (ta : BitVec 4) (dst : Bool) (pq : BitVec 2) (pidx : BitVec 3) (fmt : BitVec 5) (row : BitVec 6) (nr : BitVec 5)
    (s : State) : Out :=
  runMicro [ta.toNat] (fun g t =>
    if dst then
      let c := curCtx t
      let cell := quadCell t.cur.eng pq.toNat
      let a := (g.pw.get 0 pidx.toNat).toNat % 2 ^ 14
      if a % 32 ≠ 0 then .fault 0x9010 a
      else if winLen c cell < a + 32 * cnt nr then .fault 0x9011 a
      else moutWords t ta.toNat row.toNat (winKey t t.cur.isl t.cur.slot c cell a) (cnt nr) g
    else if outRoom t pq.toNat 4 then
      let u := sendPort t pq.toNat (rowBeats t ta.toNat (row.toNat + g.row))
      if g.row + 1 < cnt nr then .more u else .last u
    else .wait) s

/-! ## The sparse accumulator (R457 to R459) -/

def spVal (s : State) (t c : Nat) : Nat := tWord s t (c / 32) (c % 32)
def spOcc (s : State) (t c : Nat) : Bool := (tWord s t (60 + c / 1024) (c / 32 % 32)).testBit (c % 32)

/-- The data step of R458. -/
def spAdd (s : State) (t c v : Nat) : State :=
  if spOcc s t c then
    setTWord s t (c / 32) (c % 32) (f32F.rnd .rne false 0 (FVal.sum .rne [f32F.dec (spVal s t c), f32F.dec v]))
  else
    let s := setTWord s t (c / 32) (c % 32) v
    let s := setTWord s t (60 + c / 1024) (c / 32 % 32) (tWord s t (60 + c / 1024) (c / 32 % 32) + 2 ^ (c % 32))
    setTWord s t 62 0 (tWord s t 62 0 + 1)

/-- Occupied columns in increasing order. -/
def spCols (s : State) (t : Nat) : List Nat := (List.range 1920).filter (spOcc s t)

def execSpacc (td : BitVec 4) (pc pv : BitVec 2) (l : BitVec 3) (s : State) : Out :=
  runMicro [td.toNat] (fun _ t =>
    match portView t pc.toNat, portView t pv.toNat with
    | c :: _, v :: _ =>
      if c.stop = 0 ∧ v.stop = 0 then
        if 1920 ≤ c.data.toNat % 2 ^ 32 then .fault 0x9014 0
        else .more (spAdd (takePort (takePort t pc.toNat 1) pv.toNat 1) td.toNat (c.data.toNat % 2 ^ 32) (v.data.toNat % 2 ^ 32))
      else if c.stop = v.stop then
        let u := takePort (takePort t pc.toNat 1) pv.toNat 1
        if l.toNat ≤ c.stop then .last u else .more u
      else .fault 0x9016 0
    | _, _ => .wait) s

/-- Rows 60 to 63 are cleared (R459). -/
def spClear (s : State) (t : Nat) : State := wrWords s (tKey s t 60 0) (List.replicate 128 0)

def execSpzero (td : BitVec 4) (s : State) : Out :=
  rowForm [td.toNat] 4 (fun t i => setTRow t td.toNat (60 + i) (List.replicate 32 0)) s

/-- Room for one token on each of two ports. -/
def outRoom2 (s : State) (p q : Nat) : Bool := if p = q then outRoom s p 2 else outRoom s p 1 && outRoom s q 1

def execSpout (ta : BitVec 4) (oc ov : BitVec 2) (l : BitVec 3) (clr : Bool) (s : State) : Out :=
  runMicro [ta.toNat] (fun g t =>
    match (spCols t ta.toNat)[g.row]? with
    | some c =>
      if outRoom2 t oc.toNat ov.toNat then
        .more (sendPort (sendPort t oc.toNat [scalarTok c []]) ov.toNat [scalarTok (spVal t ta.toNat c) []])
      else .wait
    | none =>
      let fin (u : State) : MRes := .last (if clr then spClear u ta.toNat else u)
      if l.toNat = 0 then fin t
      else if outRoom2 t oc.toNat ov.toNat then
        fin (sendPort (sendPort t oc.toNat [stopTok l.toNat []]) ov.toNat [stopTok l.toNat []])
      else .wait) s

def execSpmerge (ta td : BitVec 4) (s : State) : Out :=
  runMicro [ta.toNat, td.toNat] (fun g t =>
    match (spCols t ta.toNat)[g.row]? with
    | some c => .more (spAdd t td.toNat c (spVal t ta.toNat c))
    | none => .last t) s

/-! ## Butterfly mode (R460 to R465) -/

/-- Tiles of a chain. -/
def chain (t nt : Nat) : List Nat := (List.range nt).map (fun i => t + i)

/-- Set the points k, k + 1, ... below `hi`. -/
def setPts (s : State) (t : Nat) (f : Nat → Nat) : List Nat → State
  | [] => s
  | k :: r => setPts (ptSet s t k (f k)) t f r

/-- The points of work row i, below N. -/
def rowPts (n i : Nat) : List Nat := (List.range 32).filterMap (fun j => if 32 * i + j < n then some (32 * i + j) else none)

def execMtwid (td : BitVec 4) (nt : BitVec 2) (inv : Bool) (pidx : BitVec 3) (s : State) : Out :=
  runMicro (chain td.toNat (cnt nt)) (fun g t =>
    let n := (g.pw.get 0 pidx.toNat).toNat % 2 ^ 14
    if n = 0 ∨ 2048 * cnt nt < n then .fault 0x9014 0
    else
      let u := setPts t td.toNat (fun k => let w := twiddle k n inv; ciPack w.1 w.2) (rowPts n g.row)
      if 32 * (g.row + 1) < n then .more u else .last u) s

/-- Every destination tile of MBREV takes BEXP and SAT of the first source tile (R446). -/
def copyBexp (s : State) (ta : Nat) : List Nat → State
  | [] => s
  | t :: r =>
    let v := tileSt s (curTile s ta)
    copyBexp (setTileSt s (curTile s t) (v.1, v.2.1, (tileSt s (curTile s t)).2.2)) ta r

def execMbrev (ta td : BitVec 4) (nt : BitVec 2) (pidx : BitVec 3) (s : State) : Out :=
  runMicro (chain ta.toNat (cnt nt) ++ chain td.toNat (cnt nt)) (fun g t =>
    match facList (g.pw.get 0 pidx.toNat).toNat (g.pw.get 0 (pidx.toNat + 1)).toNat with
    | none => .fault 0x9014 0
    | some l =>
      if 2048 * cnt nt < l.prod then .fault 0x9014 0
      else
        let u := setPts t td.toNat (fun k => ptGet t ta.toNat (revIdx l k)) (rowPts l.prod g.row)
        if 32 * (g.row + 1) < l.prod then .more u
        else .last (copyBexp u ta.toNat (chain td.toNat (cnt nt)))) s

/-- The points of a group (b, q) of a stage, by its number j: b + q + L·t (R462). -/
def groupPt (l r j t : Nat) : Nat := j / l * (l * r) + j % l + l * t

/-- Input t of a group in units of 2^−46, times its twiddle (R462). -/
def groupIn (s : State) (ta l r j t : Nat) (inv : Bool) : Cx :=
  let v := ptGet s ta (groupPt l r j t)
  let m := l * r
  let k := j % l * t % m
  if k = 0 then (ciRe v * 2 ^ 31, ciIm v * 2 ^ 31)
  else
    let w := twiddle k m inv
    ((ciRe v * w.1 - ciIm v * w.2) * 2 ^ 16, (ciRe v * w.2 + ciIm v * w.1) * 2 ^ 16)

/-- V of a group (R462). -/
def groupOut (s : State) (ta l r j : Nat) (inv : Bool) : List Cx :=
  kernel r inv ((List.range r).map (fun t => groupIn s ta l r j t inv))

/-- A part with shift s: rne(u·2^(15 − s)) (R464). -/
def partAt (sh : Nat) (u : Int) : Int := rneShift u (31 + sh)
def partFits (sh : Nat) (u : Int) : Bool := decide (-32768 ≤ partAt sh u) && decide (partAt sh u ≤ 32767)

/-- The smallest shift in 0 to 3 that fits every part; 3 if none does. -/
def fitShift (l : List Cx) : Nat :=
  (([0, 1, 2].find? (fun sh => l.all (fun z => partFits sh z.1 && partFits sh z.2))).getD 3)

/-- Write a group's points back (R464). -/
def writeGroup (s : State) (ta l r j sh : Nat) : Nat → List Cx → State
  | _, [] => s
  | t, z :: rest =>
    let p := groupPt l r j t
    let re := partAt sh z.1
    let im := partAt sh z.2
    let (v, c) := ciSat re im
    writeGroup (markSat (ptSet s ta p v) (ptTile ta p) c) ta l r j sh (t + 1) rest

def writeGroups (s : State) (ta l r sh : Nat) (inv : Bool) : List Nat → State
  | [] => s
  | j :: t => writeGroups (writeGroup s ta l r j sh 0 (groupOut s ta l r j inv)) ta l r sh inv t

/-- The groups of work row i: those j with ⌊r·j/32⌋ = i (R468). -/
def rowGroups (n r i : Nat) : List Nat := (List.range (n / r)).filter (fun j => decide (r * j / 32 = i))

def execMbfly (ta : BitVec 4) (nt rad : BitVec 2) (sc : BitVec 3) (inv : Bool) (pidx : BitVec 3) (s : State) : Out :=
  let r := radixOf rad.toNat
  runMicro (chain ta.toNat (cnt nt)) (fun g t =>
    let w := (g.pw.get 0 pidx.toNat).toNat
    let n := w % 2 ^ 14
    let l := bitsOf w 26 14
    if w / 2 ^ 27 ≠ 0 ∨ n < 2 ∨ 2048 * cnt nt < n ∨ l = 0 ∨ n % (l * r) ≠ 0 then .fault 0x9014 0
    else
      let js := rowGroups n r g.row
      let lastRow := decide (r * (n / r - 1) / 32 ≤ g.row)
      if sc.toNat = 4 ∧ !g.pass2 then
        let sh := max g.autoS (fitShift (js.flatMap (fun j => groupOut t ta.toNat l r j inv)))
        .keep (modEng t (fun g => if lastRow then { g with autoS := sh, pass2 := true, row := 0 } else { g with autoS := sh, row := g.row + 1 }))
      else
        let sh := if sc.toNat = 4 then g.autoS else sc.toNat % 4
        let u := writeGroups t ta.toNat l r sh inv js
        if lastRow then .last (addBexps u sh (chain ta.toNat (cnt nt))) else .more u) s

/-- One part of MSCALE (R465). -/
def scalePart (sh : Int) (v : Int) : Int × Bool :=
  if 0 < sh then (rneShift v sh.toNat, false)
  else if sh < 0 then (let x := v * 2 ^ (-sh).toNat; (sat16 x, decide (sat16 x ≠ x)))
  else (v, false)

def execMscale (ta : BitVec 4) (row nr : BitVec 6) (sh : BitVec 4) (s : State) : Out :=
  let d := sextNat 4 sh.toNat
  runMicro [ta.toNat] (fun g t =>
    let u := elemRow (fun a _ =>
      let re := scalePart d (ciRe a)
      let im := scalePart d (ciIm a)
      (ciPack re.1 im.1, re.2 || im.2)) t ta.toNat ta.toNat ta.toNat (row.toNat + g.row)
    if g.row + 1 < cnt nr then .more u else .last (addBexp u ta.toNat d)) s

def execMbexpSet (ta : BitVec 4) (v : BitVec 8) (s : State) : Out :=
  runMicro [ta.toNat] (fun _ t =>
    let x := tileSt t (curTile t ta.toNat)
    .last (setTileSt t (curTile t ta.toNat) (v.toNat, x.2.1, x.2.2))) s

def execMbexpOut (ta : BitVec 4) (oport : BitVec 2) (s : State) : Out :=
  runMicro [ta.toNat] (fun _ t =>
    let x := tileSt t (curTile t ta.toNat)
    if outRoom t oport.toNat 1 then .last (sendPort t oport.toNat [scalarTok (x.1 + 256 * flagNat x.2.1) []]) else .wait) s

def execMsatclr (ta : BitVec 4) (s : State) : Out :=
  runMicro [ta.toNat] (fun _ t =>
    let x := tileSt t (curTile t ta.toNat)
    .last (setTileSt t (curTile t ta.toNat) (x.1, false, x.2.2))) s

/-- MSIG (R466): bank writes of earlier micro-operations are performed when those complete (R439). -/
def execMsig (oport : BitVec 2) (k : Bool) (iport : BitVec 2) (s : State) : Out :=
  runMicro [] (fun _ t =>
    if !k then (if outRoom t oport.toNat 1 then .last (sendPort t oport.toNat [scalarTok 0 []]) else .wait)
    else match portView t iport.toNat with
      | [] => .wait
      | x :: _ =>
        if x.stop = 0 then .fault 0x9016 0
        else if outRoom t oport.toNat 1 then .last (sendPort (takePort t iport.toNat 1) oport.toNat [stopTok x.stop []])
        else .wait) s

/-! ## Handler dispatch (R438) -/

/-- Bound output ports of an engine. -/
def boundOuts (c : Ctx) (e : Nat) : List Nat :=
  (List.range 4).filter (fun p =>
    c.block.routes.any (fun r => rtKind r == 9 && bitsOf r.toNat 5 4 == e && bitsOf r.toNat 7 6 == p))

def sendPorts (s : State) (k : Tok) : List Nat → State
  | [] => s
  | p :: t => sendPorts (sendPort s p [k]) k t

/-- The engine has all parameter words: the handler starts, or the thread stops where R438 says so. -/
def startHandler (s : State) : State :=
  let c := curCtx s
  let g := engAt c s.cur.eng
  if g.got < g.nparam then s
  else match handlerOf c s.cur.eng g.tag with
    | some _ => modEng s (fun g => { g with busy := true, mop := 0, row := 0 })
    | none => raiseEngine s 0x9014 0

/-- Take what the command port presents (R438): a header when the engine is idle for the context, then parameter words;
a stop in place of a header goes to every bound output port, a stop among the words is a mismatch. -/
def execEngineHandlerDispatch (isl e : Nat) (s : State) : Out :=
  match engSlot s isl e with
  | none => .next s
  | some σ =>
    let s := { s with cur := { isl := isl, slot := σ, eng := e } }
    let c := curCtx s
    let g := engAt c e
    if !engMay s || g.busy then .next s
    else match bufOf c (engKey e 0) with
      | [] => .next s
      | t :: _ =>
        if g.taken then
          if t.stop ≠ 0 then .next (raiseEngine s 0x9016 0)
          else .next (startHandler (modEng (takePort s 0 1) (fun g =>
            { g with pw := g.pw.set 0 g.got (BitVec.ofNat 32 t.data.toNat), got := g.got + 1 })))
        else if g.work.any (fun w => w != .handler) && g.work.head? != some .handler then .next s
        else if t.stop ≠ 0 then
          let ports := boundOuts c e
          if ports.all (fun p => outRoom s p 1) then
            .next (sendPorts (modEng (takePort s 0 1) (fun g => { g with work := g.work.drop 1 })) (stopTok t.stop []) ports)
          else .next s
        else
          let h := t.data.toNat % 2 ^ 32
          if h / 256 ≠ 0 ∨ 8 < bitsOf h 7 4 then .next (raiseEngine (modEng s (fun g => { g with tag := h % 16 })) 0x9014 0)
          else .next (startHandler (modEng (takePort s 0 1) (fun g =>
            { g with tag := h % 16, nparam := bitsOf h 7 4, got := 0, taken := true, pw := [],
                     work := if g.work = [] then [.handler] else g.work })))

/-! ## Tile copies (R431, R439) -/

/-- Rows r to r + nr − 1 of a tile to or from the bank words at `key`. A row that is read in stops at a poisoned word, whose
number among the words read is given, or at an uncorrectable one (R203, R285). -/
def copyRows (s : State) (out : Bool) (t key row : Nat) : Nat → Found × State
  | 0 => (.good, s)
  | n + 1 =>
    if out then copyRows (writtenBank (wrBankFull s key (rdWords s (tKey s t row 0) 32)) key 32) out t (key + 128) (row + 1) n
    else match readCheck s key 32 with
      | (.good, s) => copyRows (wrWords s (tKey s t row 0) (rdWords s key 32)) out t (key + 128) (row + 1) n
      | (.poisoned j, s) => (.poisoned (32 * row + j), s)
      | (.bad, s) => (.bad, s)

/-- A tile copy at the head of its engine's work is performed whole; its context must be active (R436). A poisoned word that it
reads stops the thread with the word's window address (R285); an uncorrectable one makes the firing fail, and the copy stays. -/
def performTile (s : State) (a : Acc) (out : Bool) (reg row nr : Nat) : Option (Found × State) :=
  let e := quadOf a.site.cell
  let s := { s with cur := { isl := a.site.isl, slot := a.site.slot, eng := e } }
  let g := engAt (curCtx s) e
  if engMay s ∧ !g.busy ∧ !g.taken ∧ g.work.head? = some (.tcpy a.id) then
    let s := claimTile s a.site.isl a.site.slot e reg
    match copyRows s out reg a.addr row nr with
    | (.good, s) => some (.good, modEng s (fun g => { g with work := g.work.drop 1 }))
    | (.poisoned j, s) => some (.poisoned (a.va + j - 32 * row), modEng s (fun g => { g with work := g.work.drop 1 }))
    | (.bad, s) => some (.bad, failFiring s a.site a.firing (unitsOf a.addr (32 * nr)))
  else none

end Sys2Proof.Machine
end

