-- ==== Sys2Proof/Machine/FaultOps.lean ====
section
/-! DEFINITION. Faults of threads after they are raised (R254 to R264): parking at a resumable fault, stopping at a
terminal one, the fault queue, and the answers to a fault. -/
namespace Sys2Proof.Machine

/-! ## Records (R254, R45) -/

/-- The record of a thread's fault. -/
def recordOf (s : State) (t : Nat) (r : StopRec) (map : Option (List Byte)) : FaultRec :=
  let th := threadAt s t
  { code := r.code, resumable := resumableCode r.code, atEntry := r.atEntry, save := r.save, kind := r.kind, others := r.others,
    owner := t, part := th.part, frameId := th.frameId, firing := r.firing, block := r.block, slot := r.slot, unit := r.unit,
    elem := r.elem, addr := r.addr, detail1 := r.detail1, detail2 := r.detail2, time := r.time, fseq := 0, map := map }

/-- The bytes of a record (R254). -/
def recordBytes (r : FaultRec) : List Byte :=
  leBytes 2 r.code ++ leBytes 1 (flagNat (!r.resumable) + 2 * flagNat r.atEntry + 4 * flagNat r.save + 8 * flagNat r.map.isSome + 16 * r.kind)
    ++ leBytes 1 r.others ++ leBytes 2 r.owner ++ leBytes 1 r.part ++ leBytes 1 0 ++ leBytes 4 r.frameId ++ leBytes 8 r.firing
    ++ leBytes 1 r.block ++ leBytes 1 r.slot ++ leBytes 2 r.unit ++ leBytes 8 r.elem ++ leBytes 8 r.addr ++ leBytes 4 r.detail1
    ++ leBytes 4 r.detail2 ++ leBytes 8 r.time ++ leBytes 4 r.fseq ++ leBytes 4 0 ++ r.map.getD []

/-- Code of an island in the completion map (R45): cut off from the launching die; not begun; quiescent; else running. An
island that has not fired in the executing frame, or whose context is not loaded yet, and has fired in an earlier frame of the point
is taken as running (log entry 64). -/
def mapCode (s : State) (t : Nat) (reach : List Nat) (i : Nat) : Nat :=
  if !reach.contains (posOf (i / 64)) then 3
  else match (threadAt s t).slots.find? (fun x => x.1 == i) with
    | none => if (threadAt s t).begun.contains i then 1 else 0
    | some x =>
      if !(ctxAt s x.1 x.2).begun then (if (threadAt s t).begun.contains i then 1 else 0)
      else if ctxQuiet s x then 2 else 1

def completionMap (s : State) (t : Nat) : List Byte :=
  let th := threadAt s t
  let reach := spread s 8 [posOf (th.ocol / 8)]
  let codes := (thRegion th).map (mapCode s t reach)
  (List.range 64).map (fun b => BitVec.ofNat 8 ((List.range 4).map (fun j => codes.getD (4 * b + j) 0 * 4 ^ j)).sum)

/-! ## Parking (R261, R262) -/

/-- The first of a thread's resumable faults that has no record yet gets one, if the queue has room. -/
def recordFirst (s : State) (t : Nat) : State :=
  let th := threadAt s t
  match th.resumable.findIdx? (fun r => !r.parked) with
  | none => s
  | some i =>
    if 1024 ≤ faultEntries s then s
    else
      let r := th.resumable.getD i { code := 0 }
      let n := s.faults.nextSeq
      modThread (pushRecord s (recordOf s t r none)) t
        (fun th => { th with resumable := th.resumable.set i { r with parked := true, fseq := n } })

/-- FAULT_PARK: the thread's islands halt, it enters PARKED, and its fault is recorded. -/
def execFaultPark (thread : Nat) (s : State) : Out :=
  let th := threadAt s thread
  if th.resumable = [] ∨ th.stop ≠ none ∨ replaying s th then .next s
  else
    let s := if th.st = .running ∨ th.st = .loading ∨ th.st = .preempted ∨ th.st = .held then haltThread s thread .parked else s
    .next (recordFirst s thread)

/-! ## Stopping (R264) -/

/-- A pending operation that a halted cell has sent: a memory access, a counter update or a group operation on its way. -/
def leftCell (s : State) (a : Acc) : Bool :=
  match a.phase with
  | .island | .die => true
  | .issued =>
    (match a.kind with
     | .load | .store | .clear | .storeFull | .ctrAdd | .ctrRead => true
     | .loadFull | .waitGe | .gwait => true
     | .group op => decide (op < 2) || a.deps.all (fun d => !s.accs.any (fun b => b.id == d % 2 ^ 40 && b.phase != .performed))
     | _ => false)
  | _ => false

/-- The units of a thread's stopped copies give their counters what they have done (R218). -/
def poisonCopies (s : State) (t : Nat) : List (Nat × CopyEng) → State
  | [] => s
  | (_, e) :: r =>
    poisonCopies ((e.pendingQ ++ e.run.toList ++ e.aside).foldl (fun s q =>
      if q.owner = t then copyCounter s q (64 * q.done) true else s) s) t r

/-- Owner updates of the thread that still have to be applied: words on their way to an update arc, or waiting on one
whose OWN slot has raised no fault. -/
def updatesDue (s : State) (t : Nat) : Bool :=
  (threadAt s t).slots.any (fun x =>
    let c := ctxAt s x.1 x.2
    (List.range 16).any (fun cell => (ownSlots c cell).any (fun k =>
      (vcsOf c cell k 2).any (fun e =>
        let key := vcKey cell (vcVc e)
        !(threadAt s t).blocked.contains (128 * c.blkIdx + 8 * cell + k)
          && (bufFull c cell key != [] || s.flights.any (fun f => f.dest == .buf x.1 x.2 key))))))

/-- Steps 1 and 2 of R264: the islands halt; what has not left its cell is dropped. -/
def stopHalt (s : State) (t : Nat) : State :=
  let s := haltAll s (threadAt s t).slots
  let map := completionMap s t
  let s := modThread s t (fun th => { th with
    stop := th.stop.map (fun r => { r with parked := true, map := if r.code = 0x9030 then some map else none }), saving := false })
  { s with accs := s.accs.filter (fun a => a.thread != t || decide (256 ≤ a.site.isl) || leftCell s a) }

/-- A terminal fault's event to the launching queue's ring (R258). -/
def stopEvent (s : State) (t code fseq : Nat) : State :=
  let th := threadAt s t
  postQueueEvent s th.queue code th.pos th.hdr (leBytes 2 t ++ leBytes 2 0 ++ leBytes 4 fseq) 0 false

/-- The strait queues of a stopped thread are kept, with their contents (R41). -/
def keepQueues (s : State) (t : Nat) : State :=
  { s with straits := { s.straits with queues := s.straits.queues.map (fun q => if q.thread = t then { q with kept := true } else q) } }

/-- Steps 4 and 5 of R264, with steps 2 to 4 of R135. -/
def stopEnd (s : State) (t : Nat) (r : StopRec) : State :=
  let th := threadAt s t
  let rec_ := recordOf s t r r.map
  let s := keepQueues (freeTiles (discardThread (poisonCopies s t s.ces) t) t) t
  let s := modThread (leaveAll s t) t (fun x => { x with st := .stopped, slots := [], resumable := [] })
  let s := threadCounter s t true
  let n := s.faults.nextSeq
  let s := stopEvent (if r.record then pushRecord s rec_ else s) t r.code (if r.record then n else r.fseq)
  let s := completePacket s th.queue th.packet true
  if r.record then s else { s with sched := { s.sched with threads := s.sched.threads.del t } }

/-- THREAD_STOP: the thread halts; when what has left its cells is performed, it stops and is reported. With no room in
the fault queue it stays halted (R257). -/
def execThreadStop (thread : Nat) (s : State) : Out :=
  let th := threadAt s thread
  match th.stop with
  | none => .next s
  | some r =>
    if th.st = .stopped ∨ th.st = .free then .next s
    else if !r.parked then .next (if replaying s th then s else stopHalt s thread)
    else if s.accs.any (fun a => a.thread == thread && decide (a.site.isl < 256)) ∨ updatesDue s thread ∨ copiesGoing s thread ∨ writesGoing s thread then .next s
    else if r.record ∧ 1024 < faultEntries s + (if r.code = 0x9030 then 2 else 1) then .next s
    else .next (settle (stopEnd s thread r))

/-! ## The fault queue (R257, R259, R263) -/

/-- A write of FLTPOP (R257): the oldest record is delivered; the descriptor of a stopped thread is freed with it (R135). -/
def fltpopWrite (s : State) (v : Nat) : State :=
  if !v.testBit 31 ∨ s.fw.paused ∨ s.fw.lr = .safe then s
  else match s.faults.queue with
    | [] => s
    | r :: q =>
      let s := journalOne s (.fault r.fseq r.code)
      let s := { s with faults := { s.faults with queue := q, delivered := if r.resumable then s.faults.delivered ++ [r] else s.faults.delivered } }
      if !r.resumable ∧ r.owner < 0x1000 ∧ (threadAt s r.owner).st = .stopped then
        { s with sched := { s.sched with threads := s.sched.threads.del r.owner } }
      else s

def execFltpop (l : Level) (v : Word) (s : State) : Out := if l = .t then .next s else .next (fltpopWrite (journalSys s l 0x206010 v) v.toNat)

def badResp (s : State) : State := { s with faults := { s.faults with badResp := true } }

/-- How a pending operation's translation is made again. -/
def accKind (a : Acc) : XKind :=
  match a.kind with
  | .store => .write
  | .ctrAdd => .rmw
  | _ => .read

/-- The held access of a cell is retried (R263): translated again, or its TRAP continues, or its argument block is read again. -/
def retryAcc (s : State) (a : Acc) : State :=
  let c := ctxAt s a.site.isl a.site.slot
  let put (s : State) (b : Acc) : State := { s with accs := s.accs.map (fun x => if x.id = a.id then b else x) }
  match a.kind with
  | .trap => put s { a with phase := .performed }
  | .hcall => put s { a with phase := .issued }
  | _ =>
    if 2 ^ 53 < a.va + 4 * a.n then raiseAt s a.site a.firing 0x9001 a.va (xDetail 0 (accKind a) false) 0
    else match translateCell s a.site.isl c a.va (accKind a) with
      | (.ok p host, s) => put s { a with addr := physKey p host, space := if host then .host else .hbm, phase := .issued }
      | (.fault code d, s) => raiseAt s a.site a.firing code a.va d 0

/-- The operation that a fault of a cell holds. -/
def heldBy (s : State) (t : Nat) (r : StopRec) : Option Acc :=
  s.accs.find? (fun a => a.thread == t && a.phase == .held && a.firing == r.firing && 8 * a.site.cell + a.site.k == r.slot
    && (ctxAt s a.site.isl a.site.slot).blkIdx == r.block)

/-- The faulting unit goes on (R263). -/
def resumeFault (s : State) (t : Nat) (r : StopRec) : State :=
  let s := modThread s t (fun th => { th with resumable := th.resumable.filter (fun x => x.fseq != r.fseq || !x.parked),
                                              blocked := th.blocked.erase (128 * r.block + r.slot) })
  if r.save then s
  else if r.atEntry then
    if (threadAt s t).st = .saved ∨ s.sched.loads.any (fun l => l.2.thread == some t && l.2.exec) then s
    else
      let th := threadAt s t
      let s := modThread (discardAll s th.slots) t (fun x => { x with slots := [] })
      threadLoad s t th.frame true false
  else match r.kind with
    | 1 => { s with gens := s.gens.map (fun g => if g.1 = r.unit ∧ g.2.thread = some t then (g.1, { g.2 with stalled := false }) else g) }
    | 2 => unstall s (ceOf r.unit) t r.elem r.addr
    | _ => match heldBy s t r with | some a => retryAcc s a | none => s

/-- The answer to a delivered record of a queue's copy: it goes on at its unit, or ends with the record's code when the units
in flight have completed. -/
def answerQueue (s : State) (f : FaultRec) (terminate : Bool) : State :=
  let i := ceOf f.unit
  match stalledReq s i f.owner f.elem f.addr with
  | none => badResp s
  | some (j, q) =>
    if terminate then
      if q.inFlight = [] then copyFail (dropReq s i j) q f.code f.fseq
      else putReq s i j { q with stalled := none, fault := some (f.code, f.addr, f.detail1, f.elem), answered := some f.fseq }
    else putReq s i j { q with stalled := none }

/-- A write of FLTRESP (R257, R259). -/
def fltrespWrite (s : State) (v : Nat) : State :=
  let s := { s with faults := { s.faults with respAct := v.testBit 0 } }
  if !v.testBit 31 then s
  else match s.faults.delivered.find? (fun f => f.fseq == s.faults.respSeq.toNat) with
    | none => badResp s
    | some f =>
      let s := { s with faults := { s.faults with delivered := s.faults.delivered.erase f } }
      if 0x1000 ≤ f.owner then answerQueue s f (v.testBit 0)
      else
        let th := threadAt s f.owner
        match th.resumable.find? (fun r => r.parked && r.fseq == f.fseq) with
        | none => badResp s
        | some r =>
          if th.stop ≠ none then badResp s
          else if v.testBit 0 then
            modThread s f.owner (fun th => { th with
              stop := some { (if r.save then { r with code := 0x9034, detail1 := r.code } else r) with record := r.save, parked := false },
              resumable := th.resumable.filter (fun x => x.fseq != r.fseq || !x.parked) })
          else resumeFault s f.owner r

def execFaultResume (l : Level) (v : Word) (s : State) : Out := if l = .t then .next s else .next (fltrespWrite (journalSys s l 0x206014 v) v.toNat)

def execFaultTerminate (l : Level) (v : Word) (s : State) : Out := if l = .t then .next s else .next (fltrespWrite (journalSys s l 0x206014 v) v.toNat)

end Sys2Proof.Machine
end

