-- ==== Sys2Proof/Machine/FhOps.lean ====
section
/-! DEFINITION. The fronthaul (R64 to R75): steering table, received frames, downlink records, delay measurement; and the
time and frequency units (R46, R76, R77). -/
namespace Sys2Proof.Machine

/-! ## The steering table (R68, R69) -/

/-- Word i of an entry as a number. -/
def ew (e : List Word) (i : Nat) : Nat := (e.getD i 0).toNat
def eV (e : List Word) : Bool := (ew e 0).testBit 0
def eDown (e : List Word) : Bool := (ew e 0).testBit 1
def ePlane (e : List Word) : Nat := bitsOf (ew e 0) 3 2
def eLport (e : List Word) : Nat := bitsOf (ew e 0) 7 4
def eCb16 (e : List Word) : Bool := (ew e 0).testBit 8
def eEaxc (e : List Word) : Nat := bitsOf (ew e 0) 31 16
def eMask (e : List Word) : Nat := bitsOf (ew e 1) 15 0
def eSecLo (e : List Word) : Nat := bitsOf (ew e 2) 11 0
def eSecHi (e : List Word) : Nat := bitsOf (ew e 2) 23 12
def eIqw (e : List Word) : Nat := bitsOf (ew e 2) 27 24
/-- Bits of a wire mantissa (R71). -/
def eW (e : List Word) : Nat := if eIqw e = 0 then 16 else eIqw e
def eBfp (e : List Word) : Bool := (ew e 2).testBit 28
def eLog2 (e : List Word) : Nat := bitsOf (ew e 3) 25 21
def eSymLo (e : List Word) : Nat := bitsOf (ew e 3) 29 26
def eSymHi (e : List Word) : Nat := bitsOf (ew e 4) 3 0
def eCtr (e : List Word) : Nat := ew e 5 + 2 ^ 32 * ew e 6
def ePart (e : List Word) : Nat := bitsOf (ew e 7) 3 0
def eAllPrb (e : List Word) : Nat := bitsOf (ew e 7) 12 4
/-- SBUF address of an entry's ring. -/
def eRing (e : List Word) : Nat := 2 ^ 25 * bitsOf (ew e 3) 1 0 + 64 * bitsOf (ew e 3) 20 2
/-- 64-byte units of the ring. -/
def eUnits (e : List Word) : Nat := 2 ^ eLog2 e / 64

def steerEntry (s : State) (i : Nat) : List Word := s.fh.table.get [] i
def steerRt (s : State) (i : Nat) : SteerRt := s.fh.rt.get {} i

/-- A write of an entry is refused (R69). -/
def steerRefused (s : State) (e : List Word) : Bool :=
  bitsOf (ew e 0) 15 9 != 0 || bitsOf (ew e 1) 31 28 != 0 || bitsOf (ew e 2) 31 29 != 0 || bitsOf (ew e 3) 31 30 != 0
    || bitsOf (ew e 4) 31 4 != 0 || bitsOf (ew e 7) 31 13 != 0 || (ctrBadWord (eCtr e)).isSome
    || decide (2 ≤ ePlane e) || (ePlane e == 1 && !eDown e)
    || (decide (1 ≤ eIqw e) && decide (eIqw e ≤ 7)) || decide (eLog2 e < 12) || decide (24 < eLog2 e)
    || decide (eSecHi e < eSecLo e) || decide (eSymHi e < eSymLo e) || decide (13 < eSymLo e) || decide (13 < eSymHi e)
    || !sbufAllowed s (ePart e) 0 (eRing e) (2 ^ eLog2 e) false
    || (!(eCtr e).testBit 63 && !sbufAllowed s (ePart e) 0 (eCtr e) 8 false)

/-- A steering entry is written: its position becomes 0 and its HITS stand (R69, log entry 76). -/
def setSteer (s : State) (i : Nat) (e : List Word) : State :=
  { s with fh := { s.fh with table := s.fh.table.set [] i e, rt := s.fh.rt.set {} i { steerRt s i with pos := 0 } } }

def readStw (s : State) : List Word := (List.range 8).map (fun i => s.fh.stw.get 0 i)

def writeStw (s : State) (e : List Word) : Nat → State
  | 0 => s
  | n + 1 => let s := writeStw s e n; { s with fh := { s.fh with stw := s.fh.stw.set 0 n (e.getD n 0) } }

/-- An entry with V cleared. -/
def invalidEntry (e : List Word) : List Word := if e = [] then [] else (e.headD 0 &&& 0xFFFFFFFE#32) :: e.drop 1

def setFhErr (s : State) (b : Bool) : State := { s with fh := { s.fh with err := b } }

/-- A write of FHSTCMD: INDEX and OP are stored, and GO performs OP (R69). The spec does not say what OP 3 does: it sets ERR and
does nothing else (log entry 70). -/
def fhstcmd (s : State) (v : Word) : State :=
  let i := v.toNat % 2 ^ 12
  let op := bitsOf v.toNat 13 12
  let s := { s with fh := { s.fh with index := i, op := op } }
  if !v.toNat.testBit 31 then s
  else if op = 0 then
    (if steerRefused s (readStw s) then setFhErr s true else setFhErr (setSteer s i (readStw s)) false)
  else if op = 1 then
    let s := writeStw s (steerEntry s i) 8
    setFhErr { s with fh := { s.fh with hits := (steerRt s i).hits, stpos := (steerRt s i).pos } } false
  else if op = 2 then setFhErr (setSteer s i (invalidEntry (steerEntry s i))) false
  else setFhErr s true

def execFhstcmdWrite (l : Level) (v : Word) (s : State) : Out := if l = .t then .next s else .next (fhstcmd (journalSys s l 0x20A020 v) v)
def execFhstcmdRead (l : Level) (v : Word) (s : State) : Out := if l = .t then .next s else .next (fhstcmd (journalSys s l 0x20A020 v) v)
def execFhstcmdInvalidate (l : Level) (v : Word) (s : State) : Out := if l = .t then .next s else .next (fhstcmd (journalSys s l 0x20A020 v) v)

/-- STEER: a steering write for a queue (R90). FHSTCMD and FHSTW0 to FHSTW7 stay as they are (log entry 76). -/
def execSteerPacket (p : Packet) (s : State) : Out :=
  let q := s.cur.q
  let x := queueAt s q
  let e := (p.ws.drop 1).take 8
  let i := pw p 0 % 2 ^ 12
  let own := x.level = 1 ∨ (ePart e = x.part ∧ ePart (steerEntry s i) = x.part)
  issueWith s p (some 9) (firstBad [(0, decide (2 ^ 12 ≤ pw p 0))]) (!decide own) false (fun s =>
    if steerRefused s e then .next (queueError s q 0x010E [])
    else .next (issueDone (setSteer s i e) q p))

/-! ## Ports and counters -/

def lport (s : State) (lp : Nat) : LPort := s.fh.ports.get {} lp
def modPort (s : State) (lp : Nat) (f : LPort → LPort) : State :=
  { s with fh := { s.fh with ports := s.fh.ports.set {} lp (f (lport s lp)) } }
def dropFrame (s : State) (lp : Nat) : State := modPort s lp (fun p => { p with drop := min 65535 (p.drop + 1) })

/-- A logical port exists in its port's mode and has a link (R64). -/
def portLive (s : State) (lp : Nat) : Bool :=
  decide (lp < 16) && (lport s lp).up && (decide (lp % 4 = 0) || (lport s (lp / 4 * 4)).split)

/-- Add to an entry's counter with release order (R73, R74). An unreachable GLOB counter takes no update. -/
def steerCount (s : State) (e : List Word) (n : Nat) : State :=
  match ctrAt s (ePart e) 1 (eCtr e) .rmw with
  | (.key k, s) => ctrAdd s k n false
  | (_, s) => s

/-- Memory key of unit u of an entry's ring, counted from its position. -/
def unitKey (e : List Word) (pos u : Nat) : Nat := sbufBase + eRing e + 64 * ((pos + u) % eUnits e)

/-! ## Uplink (R70 to R73) -/

/-- The lowest-numbered valid uplink entry that matches a section (R70). -/
def matches_ (f : FhFrame) (c : FhSection) (e : List Word) : Bool :=
  eV e && !eDown e && eLport e == f.lp && Nat.land (Nat.xor f.eaxc (eEaxc e)) (eMask e) == 0 && f.direction == 0
    && Nat.land (Nat.xor f.slotId (bitsOf (ew e 1) 21 16)) (bitsOf (ew e 1) 27 22) == 0
    && decide (eSymLo e ≤ f.symbolId) && decide (f.symbolId ≤ eSymHi e)
    && decide (eSecLo e ≤ c.sectionId) && decide (c.sectionId ≤ eSecHi e)

def steerMatch (s : State) (f : FhFrame) (c : FhSection) : Option (Nat × List Word) :=
  s.fh.table.find? (fun e => matches_ f c e.2)

/-- A mantissa to ci16 (R71): the value and whether it was clamped. -/
def ciOf (w : Nat) (bfp : Bool) (e v : Nat) : Int × Bool :=
  let x := sextNat w v * (if bfp then 2 ^ e else 2 ^ (16 - w))
  (sat16 x, sat16 x != x)

/-- Bytes of one PRB in a ring, and SAT (R71). -/
def prbBytes (e : List Word) (p : Nat × List Nat) : List Byte × Bool :=
  let w := eW e
  let l := p.2.take 24 ++ List.replicate (24 - p.2.length) 0
  if eCb16 e then
    let ec := if eBfp e then modPow 8 (127 + (p.1 : Int) - 16 + w) else 127
    ((l.map (fun v => leBytes 2 (modPow 16 (sextNat w v * 2 ^ (16 - w))))).flatten
      ++ List.replicate 3 (BitVec.ofNat 8 ec) ++ List.replicate 13 0, false)
  else
    let xs := l.map (ciOf w (eBfp e) p.1)
    ((xs.map (fun x => leBytes 2 (modPow 16 x.1))).flatten, xs.any (fun x => x.2))

/-- The header of a ring record (R72). -/
def recHeader (time : Nat) (f : FhFrame) (c : FhSection) (n len : Nat) (down cb sat : Bool) : List Byte :=
  leBytes 8 time ++ leBytes 2 f.eaxc ++ leBytes 1 f.frameId
    ++ leBytes 2 (f.subframeId % 16 + 16 * (f.slotId % 64) + 1024 * (f.symbolId % 64))
    ++ leBytes 1 ((if down then 2 else 0) + (if cb then 4 else 0) + (if sat then 8 else 0))
    ++ leBytes 2 (c.sectionId % 4096 + 4096 * (c.rb % 2) + 8192 * (c.symInc % 8)) ++ leBytes 2 (c.startPrbu % 1024)
    ++ leBytes 2 (n % 512) ++ leBytes 4 len ++ leBytes 1 f.seqId ++ leBytes 1 f.lp ++ List.replicate 38 0

/-- Write the 64-byte units of a record and set their words full. -/
def putUnits (s : State) (e : List Word) (pos u : Nat) : List (List Byte) → State
  | [] => s
  | b :: t =>
    let k := unitKey e pos u
    putUnits (setFulls (wrBytes s k b) k true 16) e pos (u + 1) t

def chunks64 : Nat → List Byte → List (List Byte)
  | 0, _ => []
  | n + 1, l => l.take 64 :: chunks64 n (l.drop 64)

/-- Write a record into its entry's ring, or drop it if any of its units is full (R73). One that is longer than its ring goes around
over its own units (log entry 76). -/
def putRecord (s : State) (i : Nat) (e : List Word) (r : List Byte) : State :=
  let n := (r.length + 63) / 64
  let r := r ++ List.replicate (64 * n - r.length) 0
  let rt := steerRt s i
  if (List.range n).any (fun u => isFull s (unitKey e rt.pos u)) then
    modPort s (eLport e) (fun p => { p with overrun := min 65535 (p.overrun + 1) })
  else
    let s := putUnits s e rt.pos 0 (chunks64 n r)
    let s := { s with fh := { s.fh with
      rt := s.fh.rt.set {} i { pos := (rt.pos + n) % eUnits e, hits := (rt.hits + 1) % 65536 } } }
    steerCount s e (64 * n)

/-- One section of a received U-plane packet. -/
def steerSection (s : State) (f : FhFrame) (c : FhSection) : State :=
  match steerMatch s f c with
  | none => modPort s f.lp (fun p => { p with noMatch := min 65535 (p.noMatch + 1) })
  | some (i, e) =>
    let n := if c.numPrbu = 0 then eAllPrb e else c.numPrbu
    if n = 0 then s
    else if c.prbs.length < n then dropFrame s f.lp
    else
      let ps := (c.prbs.take n).map (prbBytes e)
      let body := (ps.map (·.1)).flatten
      putRecord s i e (recHeader s.dtime f c n body.length false (eCb16 e) (ps.any (·.2)) ++ body)

def steerSections (s : State) (f : FhFrame) : List FhSection → State
  | [] => s
  | c :: t => steerSections (steerSection s f c) f t

/-! ## Frames that are sent (R64, R75) -/

def macOf (a b : Word) : List Byte := leBytes 4 a.toNat ++ leBytes 2 (b.toNat % 2 ^ 16)

/-- Head of a frame sent on a logical port to an address; its source and tag are those of the FHLP registers. -/
def fhHead (s : State) (lp ethertype : Nat) (dst : List Byte) : FhHead :=
  let p := lport s lp
  { lp := lp, dst := dst, src := macOf p.src0 p.src1, ethertype := ethertype,
    tag := if p.src1.toNat.testBit 31 then some (bitsOf p.src1.toNat 27 16 + 2 ^ 13 * bitsOf p.src1.toNat 30 28) else none }

/-- A frame leaves on a logical port for the port's peer. -/
def sendPeer (s : State) (lp ethertype : Nat) (b : FhBody) : State :=
  emitOut s (.fh (fhHead s lp ethertype (macOf (lport s lp).dst0 (lport s lp).dst1)) b)

/-! ## Time and frequency messages (R76) -/

/-- A time at the PHY: the latency that the IOD's repair record holds for the port is taken off a reception and added to a
transmission. -/
def phyLatency (s : State) (lp : Nat) : Nat := Config.phyLatency (s.flash.repair.get [] 8) lp

/-- A PTP message on a port whose PTP role is not disabled is timestamped and kept for the time unit. -/
def takePtp (s : State) (lp : Nat) (m : List Byte) : State :=
  if (lport s lp).cfg.toNat % 4 = 0 then s
  else { s with time := { s.time with ptp := s.time.ptp ++ [(lp, s.dtime - phyLatency s lp, m)] } }

/-- The quality level of an ESMC message. -/
def takeEsmc (s : State) (lp ql : Nat) : State := { s with fh := { s.fh with ql := s.fh.ql.set 0 lp ql } }

/-! ## Delay measurement (R66) -/

/-- A time as whole seconds, whole nanoseconds and the rest in 2^−16 ns; a device unit is 1/16 ns (R46, R66). -/
def splitTime (t : Nat) : Nat × Nat × Nat := (t / 16 / 10 ^ 9, t / 16 % 10 ^ 9, t % 16 * 2 ^ 12)

/-- A type-5 message leaves, under a common header of revision 1 with the concatenation bit 0 (R65), with the device time as its
timestamp. -/
def sendDelay (s : State) (lp action meas : Nat) : State :=
  let (a, b, c) := splitTime s.dtime
  sendPeer s lp 0xAEFE (.delay 1 false action meas a b c)

/-- Send a type-5 request on a port and keep its time. -/
def sendDelayReq (s : State) (lp meas : Nat) : State := sendDelay (modPort s lp (fun p => { p with measStamp := s.dtime })) lp 0 meas

/-- One-way delay in device units from a response: t2 less its compensation, less the request's time (eCPRI 2.0). -/
def delayOf (secs nanos : Nat) (comp : Int) (sent : Nat) : Nat :=
  modPow 28 ((((secs * 10 ^ 9 + nanos) * 2 ^ 16 : Nat) - comp) / 4096 - sent)

def delayMessage (s : State) (f : FhFrame) : State :=
  if f.action = 0 then sendDelay s f.lp 2 f.measId
  else if f.action = 2 then
    modPort s f.lp (fun p => { p with delay := delayOf f.secs f.nanos f.comp p.measStamp, newRes := true })
  else if f.action = 3 then sendDelayReq s f.lp f.measId
  else dropFrame s f.lp

/-- A received frame (R64, R65). -/
def execFhFrameReceive (f : FhFrame) (s : State) : Out :=
  if !portLive s f.lp then .next s
  else if 9000 < f.size then .next (dropFrame s f.lp)
  else if f.ethertype = 0xAEFE then
    if f.revision ≠ 1 ∨ f.concat ∨ (f.msgType ≠ 5 ∧ !f.eBit) then .next (dropFrame s f.lp)
    else if f.msgType = 0 then .next (steerSections s f f.sections)
    else if f.msgType = 2 then .next s
    else if f.msgType = 5 then .next (delayMessage s f)
    else .next (dropFrame s f.lp)
  else if f.ethertype = 0x88F7 then .next (takePtp s f.lp f.body)
  else if f.ethertype = 0x8809 ∧ f.subtype = 0x0A then .next (takeEsmc s f.lp (leNat (f.body.take 1)))
  else .next (dropFrame s f.lp)

/-- A request that FHDLYREQ asks for leaves when its port can send; GO reads 1 until then (R75). -/
def pendingDelay (s : State) : State :=
  let v := s.fh.dlyreq
  if v.toNat.testBit 31 ∧ portLive s (v.toNat % 16) then
    sendDelayReq { s with fh := { s.fh with dlyreq := v &&& 0x0000FF0F#32 } } (v.toNat % 16) (bitsOf v.toNat 15 8)
  else s

/-- A write of FHDLYREQ (R75). -/
def dlyreqWrite (s : State) (v : Word) : State := pendingDelay { s with fh := { s.fh with dlyreq := v &&& 0x8000FF0F#32 } }

def execFhdlyreqGo (l : Level) (v : Word) (s : State) : Out := if l = .t then .next s else .next (dlyreqWrite (journalSys s l 0x20A040 v) v)

/-! ## Downlink (R74) -/

/-- The header bytes [hi:lo] of a record as a number. -/
def hdrField (h : List Byte) (lo n : Nat) : Nat := leNat ((h.drop lo).take n)

/-- Bytes of `n` units of a ring from its position. -/
def readUnits (s : State) (e : List Word) (pos : Nat) : Nat → List Byte
  | 0 => []
  | n + 1 => readUnits s e pos n ++ rdBytes s (unitKey e pos n) 64

/-- The ci16 part i of a PRB of a record (R74). -/
def prbPart (e : List Word) (b : List Byte) (i : Nat) : Int :=
  let m := sextNat 16 (hdrField b (2 * i) 2)
  if eCb16 e then
    let x : Int := (hdrField b (48 + i / 8) 1 : Nat) - 127
    sat16 (FVal.toInt .rne 0 (decide (m < 0)) m.natAbs x)
  else m

def rneDown (x : Int) (k : Nat) : Int := rneShift x k

/-- The smallest exponent from `e` up, within `n` more, for which every part fits w bits (R74). -/
def dlExp (w : Nat) (xs : List Int) : Nat → Nat → Nat
  | 0, e => e
  | n + 1, e =>
    if xs.all (fun x => decide (-(2 ^ (w - 1) : Int) ≤ rneDown x e) && decide (rneDown x e ≤ 2 ^ (w - 1) - 1)) then e
    else dlExp w xs n (e + 1)

def clampW (w : Nat) (x : Int) : Int := max (-(2 ^ (w - 1) : Int)) (min (2 ^ (w - 1) - 1) x)

/-- One PRB on the wire: exponent and mantissas (R74). -/
def wirePrb (e : List Word) (b : List Byte) : Nat × List Nat :=
  let w := eW e
  let xs := (List.range 24).map (prbPart e b)
  let k := if eBfp e then dlExp w xs (16 - w) 0 else 16 - w
  (if eBfp e then k else 0, xs.map (fun x => modPow w (clampW w (rneDown x k))))

def wirePrbs (e : List Word) : Nat → List Byte → List (Nat × List Nat)
  | 0, _ => []
  | n + 1, b =>
    let sz := if eCb16 e then 64 else 48
    wirePrb e (b.take sz) :: wirePrbs e n (b.drop sz)

/-- Set the words of `n` units empty. -/
def emptyUnits (s : State) (e : List Word) (pos : Nat) : Nat → State
  | 0 => s
  | n + 1 => setFulls (emptyUnits s e pos n) (unitKey e pos n) false 16

/-- The record at the ring's position is left behind: its units are empty and its size is counted. -/
def leaveRecord (s : State) (i : Nat) (e : List Word) (n : Nat) (sent : Bool) : State :=
  let rt := steerRt s i
  let s := emptyUnits s e rt.pos n
  let s := { s with fh := { s.fh with
    rt := s.fh.rt.set {} i { pos := (rt.pos + n) % eUnits e, hits := if sent then (rt.hits + 1) % 65536 else rt.hits } } }
  steerCount s e (64 * n)

/-- Bytes of a PRB on the wire (R67). -/
def prbSize (e : List Word) : Nat := 3 * eW e + flagNat (eBfp e)

/-- PRBs that one frame can carry beside 16 bytes of headers, in its 9,000 bytes (R64, log entry 70). -/
def framePrbs (e : List Word) : Nat := (9000 - 16) / prbSize e

/-- Runs of `k` elements, with the index of the first of each. -/
def runsOf (k : Nat) : Nat → Nat → List (Nat × List Nat) → List (Nat × List (Nat × List Nat))
  | 0, _, _ => []
  | n + 1, i, l => if l = [] then [] else (i, l.take k) :: runsOf k n (i + k) (l.drop k)

/-- One eCPRI message of an eAxC ID with its next ecpriSeqId (R65). -/
def sendEcpri (s : State) (e : List Word) (msgType : Nat) (h : List Byte) (first : Nat) (prbs : List (Nat × List Nat))
    (raw : List Byte) : State :=
  let ax := hdrField h 8 2
  let sq := s.fh.seqIds.get 0 ax
  sendPeer { s with fh := { s.fh with seqIds := s.fh.seqIds.set 0 ax ((sq + 1) % 256) } } (eLport e) 0xAEFE
    (.data 1 false msgType ax sq true 0 h first prbs raw)

/-- Send a record on its logical port (R65, R74); PRBs that one frame cannot carry go in further frames. -/
def sendRecord (s : State) (e : List Word) (b : List Byte) : State :=
  let h := b.take 64
  let body := (b.drop 64).take (hdrField h 20 4)
  if ePlane e = 1 then sendEcpri s e 2 h 0 [] body
  else
    let n := hdrField h 18 2 % 512
    (runsOf (framePrbs e) n 0 (wirePrbs e n body)).foldl (fun s r => sendEcpri s e 0 h r.1 r.2 []) s

/-- Device units after its launch time at which a record is too late (R74). -/
def lateBy : Nat := 10 * usec

/-- What becomes of a downlink entry's next record now: it waits, is dropped, or is sent; with its units (R74). A C-plane payload
that no frame can carry is dropped (log entry 70). -/
inductive DownTurn where
  | wait
  | drop (units : Nat)
  | send (units : Nat)
  deriving DecidableEq, Repr

def downTurn (s : State) (entry : Nat) : DownTurn :=
  let e := steerEntry s entry
  let pos := (steerRt s entry).pos
  if !eV e ∨ !eDown e ∨ !allFull s (unitKey e pos 0) 16 then .wait
  else
    let h := rdBytes s (unitKey e pos 0) 64
    let n := 1 + (hdrField h 20 4 + 63) / 64
    if !(List.range n).all (fun u => allFull s (unitKey e pos u) 16) then .wait
    else
      let launch := hdrField h 0 8
      let sect := if hdrField h 20 4 < 6 then 0 else hdrField (rdBytes s (unitKey e pos 1) 64) 5 1
      if Nat.land (Nat.xor (hdrField h 8 2) (eEaxc e)) (eMask e) ≠ 0
          ∨ (ePlane e = 1 ∧ ((sect ≠ 1 ∧ sect ≠ 3) ∨ 9000 < hdrField h 20 4 + 8)) ∨ launch + lateBy < s.dtime then .drop n
      else if s.dtime < launch ∨ !portLive s (eLport e) then .wait
      else .send n

/-- No downlink entry with a record to send or drop comes before this one in the order of turns (R74). -/
def downFirst (s : State) (entry : Nat) : Bool :=
  s.fh.table.all (fun x => decide ((entry + 4096 - s.fh.turn) % 4096 ≤ (x.1 + 4096 - s.fh.turn) % 4096) || downTurn s x.1 == .wait)

def execDownlinkSend (entry : Nat) (s : State) : Out :=
  if !downFirst s entry then .next s
  else
    let e := steerEntry s entry
    let t := { s with fh := { s.fh with turn := (entry + 1) % 4096 } }
    match downTurn s entry with
    | .wait => .next s
    | .drop n => .next (leaveRecord t entry e n false)
    | .send n => .next (leaveRecord (sendRecord t e (readUnits s e (steerRt s entry).pos n)) entry e n true)

/-! ## Port configuration (R75) -/

/-- Another port has the role or the source flag that a write would give a second port. -/
def fhlpRefused (s : State) (lp : Nat) (v : Nat) : Bool :=
  (List.range 16).any (fun j => j != lp &&
    ((v % 4 == 1 && (lport s j).cfg.toNat % 4 == 1) || (v.testBit 2 && (lport s j).cfg.toNat.testBit 2)))

/-- A write of FHLPCFG. -/
def fhlpcfgWrite (s : State) (lp : Nat) (v : Word) : State :=
  if fhlpRefused s lp v.toNat then s
  else modPort s lp (fun p => { p with cfg := v &&& (if lp % 4 = 0 then 0xF#32 else 0x7#32) })

def execFhlpcfgWrite (l : Level) (lp : Nat) (v : Word) (s : State) : Out :=
  if l = .t ∨ 16 ≤ lp then .next s else .next (fhlpcfgWrite (journalSys s l (0x20A118 + 32 * lp) v) lp v)

/-- A port's link trains (and a change of SPLIT takes effect), or goes down. -/
def trainPort (port : Nat) (up : Bool) : Nat → State → State
  | 0, s => s
  | n + 1, s =>
    modPort (trainPort port up n s) (4 * port + n)
      (fun p => { p with up := up, split := if up ∧ n = 0 then p.cfg.toNat.testBit 3 else p.split })

def execFhLinkTraining (port : Nat) (up : Bool) (s : State) : Out :=
  if port < 4 then .next (pendingDelay (trainPort port up 4 s)) else .next s

def execPtpMessage (lp : Nat) (m : List Byte) (s : State) : Out := if portLive s lp then .next (takePtp s lp m) else .next s
def execEsmcMessage (lp ql : Nat) (s : State) : Out := if portLive s lp then .next (takeEsmc s lp ql) else .next s

/-- The multicast addresses of G.8275.1 (R76), and that of ESMC's slow protocol (log entry 70). -/
def ptpAddr (forwardable : Bool) : List Byte :=
  if forwardable then [0x01, 0x1B, 0x19, 0, 0, 0] else [0x01, 0x80, 0xC2, 0, 0, 0x0E]
def esmcAddr : List Byte := [0x01, 0x80, 0xC2, 0, 0, 0x02]

/-- A port in a PTP role may send a message: a master any but a Delay_Req, a slave only a Delay_Req (R76, log entry 70). -/
def ptpMaySend (s : State) (lp : Nat) (m : PtpSend) : Bool :=
  let role := (lport s lp).cfg.toNat % 4
  let req := (m.body.headD 0).toNat % 16 == 1
  portLive s lp && ((role == 2 && !req) || (role == 1 && req))

/-- The time unit sends a PTP message; an event message is timestamped as it passes the PHY (R76). -/
def execPtpMessageSend (lp : Nat) (m : PtpSend) (s : State) : Out :=
  if !ptpMaySend s lp m then .next s
  else
    let s := if (m.body.headD 0).toNat % 16 < 4 then
        { s with time := { s.time with sent := s.time.sent ++ [(lp, s.dtime + phyLatency s lp, m.body)] } } else s
    .next (emitOut s (.fh (fhHead s lp 0x88F7 (ptpAddr m.forwardable)) (.other m.body)))

def execEsmcMessageSend (lp ql : Nat) (s : State) : Out :=
  if portLive s lp then .next (emitOut s (.fh (fhHead s lp 0x8809 esmcAddr) (.other (0x0A :: leBytes 1 ql)))) else .next s

/-! ## Lock, holdover and slew (R46, R77) -/

/-- TIME_LOCKED with its kind and the offset (R102). -/
def postLocked (s : State) (relock : Bool) (off : Int) : State :=
  postDeviceEvent s 0x8051 (leBytes 4 (if relock then 1 else 0) ++ leBytes 8 (modPow 64 off))

/-- A message of a master has come in on the port whose PTP role is slave (R76). -/
def hearsMaster (s : State) : Bool :=
  (List.range 16).any (fun lp => portLive s lp && (lport s lp).cfg.toNat % 4 == 1 && s.time.ptp.any (fun m => m.1 == lp))

/-- The time unit locks to its master: with no message from one on the slave port there is nothing to lock to (R76, log
entry 74). -/
def execTimeLock (ptp : Nat) (s : State) : Out :=
  if s.time.locked ∨ !hearsMaster s then .next s
  else
    let off : Int := (ptp : Int) - s.dtime
    let first := !s.time.everLocked
    let s1 := { s with time := { s.time with everLocked := true, locked := true, holdover := false,
                                             relock := !first, offset := off } }
    if first ∧ s.dtime < ptp then
      .next (postLocked { s1 with dtime := ptp, time := { s1.time with slew := none } } false off)
    else if off = 0 then .next (postLocked { s1 with time := { s1.time with slew := none } } (!first) 0)
    else .next { s1 with time := { s1.time with slew := some s.dtime } }

/-- The PTP master or the SyncE reference is lost. -/
def execTimeHoldover (cause : Nat) (s : State) : Out :=
  if s.time.locked then
    .next (postDeviceEvent { s with time := { s.time with locked := false, holdover := true, slew := none } } 0x8050 (leBytes 1 cause))
  else .next s

/-- Device units that a slew of an offset takes at least, at 2^−10 of the rate (R77). -/
def slewTime (off : Int) : Nat := if 0 ≤ off then 1025 * off.natAbs else 1023 * off.natAbs

def execTimeSlewEnd (s : State) : Out :=
  match s.time.slew with
  | some t =>
    if t + slewTime s.time.offset ≤ s.dtime then
      .next (postLocked { s with time := { s.time with slew := none } } s.time.relock s.time.offset)
    else .next s
  | none => .next s

end Sys2Proof.Machine
end

