-- ==== Sys2Proof/Machine/FrameCheck.lean ====
section
/-! DEFINITION. A frame as it is fetched (R317 to R324), its structural checks (R333 to R337, R343, R443), and the checks
of windows (R200, R204) and of formats (R310, R313, R444) that the loader makes on it (R342, R344). -/
namespace Sys2Proof.Machine

/-! ## A frame as fetched -/

/-- A block as fetched: its two header double words and those after them. -/
structure RawBlock where
  off : Nat := 0
  h0 : Nat := 0
  h1 : Nat := 0
  body : List Nat := []
  deriving DecidableEq, Repr

/-- A frame as fetched: header and exit table (10 double words), directory words, blocks in directory order. -/
structure RawFrame where
  head : List Nat := []
  dir : List Nat := []
  blocks : List RawBlock := []
  deriving DecidableEq, Repr

/-- Fields of the frame header (R318). -/
def hdId (f : RawFrame) : Nat := bitsOf (f.head.getD 0 0) 31 0
def hdEx (f : RawFrame) : Nat := bitsOf (f.head.getD 0 0) 49 42
def hdLen (f : RawFrame) : Nat := bitsOf (f.head.getD 1 0) 31 0
def hdExit (f : RawFrame) (n : Nat) : Nat := f.head.getD (2 + n) 0

/-- First byte after the directory of a frame of `n` blocks (R317). -/
def dirEnd (n : Nat) : Nat := 80 + (4 * n + 7) / 8 * 8

/-- Fields of a block header (R321). -/
def nInst (b : RawBlock) : Nat := bitsOf b.h0 7 0
def nRoute (b : RawBlock) : Nat := bitsOf b.h0 15 8
def nVc (b : RawBlock) : Nat := bitsOf b.h0 25 16
def nHnd (b : RawBlock) : Nat := bitsOf b.h0 32 26
def nSpill (b : RawBlock) : Nat := bitsOf b.h0 37 33
def nCell (b : RawBlock) : Nat := bitsOf b.h0 42 38
def bLen (b : RawBlock) : Nat := bitsOf b.h1 47 32

/-- Double words of each section of a block, in order (R322). -/
def sectLens (b : RawBlock) : List Nat := [nInst b, nRoute b, (nVc b + 1) / 2, 5 * nHnd b, 2 * nSpill b, 9 * nCell b]

def sectOf (b : RawBlock) (n : Nat) : List Nat := (b.body.drop ((sectLens b).take n).sum).take ((sectLens b).getD n 0)

/-- Words of a list of double words, low word first. -/
def wordsOfD : List Nat → List Nat
  | [] => []
  | d :: t => d % 2 ^ 32 :: d / 2 ^ 32 :: wordsOfD t

/-- Records of `n` double words. -/
def chunks (n : Nat) : Nat → List Nat → List (List Nat)
  | 0, _ => []
  | k + 1, l => l.take n :: chunks n k (l.drop n)

def hndOf (l : List Nat) : HndCfg :=
  { eng := bitsOf (l.getD 0 0) 1 0, tag := bitsOf (l.getD 0 0) 5 2,
    words := ((wordsOfD (l.drop 1)).take (bitsOf (l.getD 0 0) 8 6 + 1)).map (BitVec.ofNat 32) }

def cellOf (l : List Nat) : CellCfg :=
  { cell := bitsOf (l.getD 0 0) 3 0, wbase := bitsOf (l.getD 0 0) 15 8, wlen := bitsOf (l.getD 0 0) 24 16,
    keeps := ((wordsOfD ((l.drop 1).take 4)).map (BitVec.ofNat 32)), scales := ((wordsOfD ((l.drop 5).take 4)).map (BitVec.ofNat 32)) }

def spillOf (l : List Nat) : DWord × DWord := (BitVec.ofNat 64 (l.getD 0 0), BitVec.ofNat 64 (l.getD 1 0))

/-- The configuration that a fetched block gives (R321 to R324). -/
def blockOf (b : RawBlock) : Block :=
  { insts := (sectOf b 0).map (BitVec.ofNat 64), routes := (sectOf b 1).map (BitVec.ofNat 64),
    vcs := ((wordsOfD (sectOf b 2)).take (nVc b)).map (BitVec.ofNat 32),
    hnds := (chunks 5 (nHnd b) (sectOf b 3)).map hndOf, spills := (chunks 2 (nSpill b) (sectOf b 4)).map spillOf,
    cells := (chunks 9 (nCell b) (sectOf b 5)).map cellOf, seed := BitVec.ofNat 32 (b.h1 % 2 ^ 32) }

/-- Location of an item for detail 1 (R344). -/
def locOf (sect idx block tgt : Nat) : Nat := block + 512 * (idx % 512) + 2 ^ 18 * tgt + 2 ^ 19 * sect

/-- The first of a numbered list whose check fails, with its index. -/
def firstBadIdx {α : Type} (l : List α) (bad : Nat → α → Bool) : Option Nat := l.zipIdx.findSome? (fun e => if bad e.2 e.1 then some e.2 else none)

/-! ## Frame header, exit table and directory (R317 to R319) -/

def headErr (h w : Nat) (f : RawFrame) : Option Nat :=
  let h0 := f.head.getD 0 0
  if bitsOf h0 63 54 != 0 || f.head.getD 1 0 / 2 ^ 32 != 0 || bitsOf h0 53 50 != 1 || bitsOf h0 35 32 != h
      || bitsOf h0 41 36 != w || hdLen f % 8 != 0 || decide (hdLen f < dirEnd (h * w)) then some (locOf 0 0 0x1FF 0)
  else none

def exitBad (f : RawFrame) (n e : Nat) : Bool :=
  bitsOf e 63 53 != 0 || (if n = 0 then e != 0 else if (hdEx f).testBit n then e == 0 || e % 8 != 0 else e != 0)

/-- A block lies as the directory wants it: aligned, after the directory, header and body inside the frame. -/
def blockLies (n flen : Nat) (b : RawBlock) : Bool :=
  b.off % 8 == 0 && decide (dirEnd n ≤ b.off) && decide (b.off + 16 ≤ flen) && decide (b.off + 8 * bLen b ≤ flen)

/-- A block can be read: it lies right, and its length holds its header (R322). -/
def blockFits (n flen : Nat) (b : RawBlock) : Bool := blockLies n flen b && decide (2 ≤ bLen b)

def overlaps (a b : RawBlock) : Bool := decide (a.off < b.off + 8 * bLen b) && decide (b.off < a.off + 8 * bLen a)

def dirBad (n : Nat) (f : RawFrame) (j : Nat) : Bool :=
  let b := f.blocks.getD j {}
  if j < n then !blockLies n (hdLen f) b || (f.blocks.take j).any (overlaps b) else f.dir.getD j 0 != 0

def frameErr (h w : Nat) (f : RawFrame) : Option Nat :=
  match headErr h w f with
  | some e => some e
  | none =>
    match firstBadIdx (f.head.drop 2) (exitBad f) with
    | some n => some (locOf 0 (1 + n) 0x1FF 0)
    | none => ((List.range f.dir.length).find? (dirBad (h * w) f)).map (fun j => locOf 0 (9 + j) 0x1FF 0)

/-! ## Instructions and their edges (R325 to R332, R336) -/

/-- A format-A word read field by field: a predicate, mismatch mode or target that holds no code counts as one given. -/
def laxA (v : Nat) (t : Target) : OpA :=
  ⟨tyOf (v / 2 ^ 49), (predOf (v / 2 ^ 47)).getD .ifNonzero, (mmOf (v / 2 ^ 45)).getD .trap,
    (targetOf (v / 2 ^ 34)).getD t, (targetOf (v / 2 ^ 23)).getD t, bit v 22, fld v 16 6, fld v 0 16⟩

/-- The form that a word has by its MAJ and SUB, whatever else is wrong with it: what other items of the frame see of the
instruction (R327, R336). -/
def laxOp (v : Nat) : Option Instr :=
  let maj := v / 2 ^ 56 % 256
  let sub := v / 2 ^ 52 % 16
  if maj = 8 then
    (wideOf sub).map (fun c => c ⟨tyOf (v / 2 ^ 49), (predOf (v / 2 ^ 47)).getD .ifNonzero, .trap, (targetOf (v / 2 ^ 34)).getD .none, 0⟩)
  else (opOf maj sub).map (fun c => c (laxA v .none))

def laxAt (b : Block) (n : Nat) : Option Instr :=
  let w := (b.insts.getD n 0).toNat
  if w = 0 then none else laxOp w

/-- The target (R344) to which the failure of a word that does not decode belongs: 1 where only its second is wrong. -/
def badTarget (v : Nat) : Nat :=
  match opOf (v / 2 ^ 56 % 256) (v / 2 ^ 52 % 16) with
  | some c =>
    let w := laxA v (.vc 0)
    (match (c w).form with
     | some (_, _, _, f) =>
       if (predOf (v / 2 ^ 47)).isSome ∧ (mmOf (v / 2 ^ 45)).isSome ∧ f.fieldsOk w ∧ (targetOf (v / 2 ^ 34)).isSome ∧ f.t0Rule w.t0 then 1 else 0
     | none => 0)
  | none => 0

def isOwn (i : Instr) : Bool := match i with | .own _ => true | _ => false

/-- An operand that an edge may feed: one the form uses, or the update arcs of OWN (R421). -/
def takesEdge (i : Instr) (pos : Nat) (byVc : Bool) : Bool := (usedPos i).contains pos || (byVc && isOwn i && pos == 2)

/-- Edges into an operand: slot-operand targets and VC entries. -/
def edgesInto (b : Block) (n pos : Nat) : Nat :=
  ((List.range b.insts.length).map (fun m =>
    match laxAt b m with
    | none => 0
    | some i => ((instTargets i).filter (fun t => match t with | .operand q k => k.toNat == n && q.code == pos | _ => false)).length)).sum
    + (b.vcs.filter (fun e => 8 * vcCell e + vcK e == n && vcPos e == pos)).length

def routesFrom (b : Block) (cell vc : Nat) : List DWord := b.routes.filter (fun r => rtSource r == some (cell, vc))

/-- Index of the block that an END names in a region W islands wide. -/
def endBlock (w e : Nat) : Nat := endRow e * w + endCol e
def endInside (h w e : Nat) : Bool := decide (endRow e < h) && decide (endCol e < w)

/-- The VC entry of an END. -/
def endEntry (bs : List Block) (w e : Nat) : Option (Word × Nat) := vcEntry (bs.getD (endBlock w e) {}) (endCell e) (endVc e)

/-- The END's entry is an update arc of OWN (R421, R422). -/
def ownEnd (bs : List Block) (w e : Nat) : Bool :=
  match endEntry bs w e with
  | some (v, _) =>
    vcPos v == 2 && (match laxAt (bs.getD (endBlock w e) {}) (8 * vcCell v + vcK v) with | some i => isOwn i | none => false)
  | none => false

/-- What a form asks of the route of its T0 (R416, R422). -/
def routeFor (bs : List Block) (w : Nat) (i : Instr) (r : DWord) : Bool :=
  match i.form with
  | some (68, 0, _, _) => rtKind r == 3 && bitsOf r.toNat 13 12 == 0
  | some (68, _, _, _) => rtKind r == 6
  | some (71, sub, _, _) => sub == 0 || (rtKind r == 1 && ownEnd bs w (rtEnd r))
  | _ => true

def targetErr (bs : List Block) (w j n ti : Nat) (i : Instr) (t : Target) : Option Nat :=
  let b := bs.getD j {}
  match t with
  | .operand q m =>
    (match laxAt b m.toNat with
     | some k => if takesEdge k q.code false then none else some (locOf 2 n j ti)
     | none => some (locOf 2 n j ti))
  | .vc v =>
    (match routesFrom b (n / 8) v.toNat with
     | r :: _ => if ti = 0 ∧ !routeFor bs w i r then some (locOf 2 n j 0) else none
     | [] => some (locOf 2 n j ti))
  | _ => none

/-- Edges into the operands of a form (R336, R424). -/
def operandsOk (b : Block) (n : Nat) (i : Instr) : Bool :=
  (usedPos i).all (fun p =>
    edgesInto b n p == (match i with | .join w => if p = 0 then w.imm.toNat else 1 | _ => 1))

/-- Descriptors whose QPUSH is slot `n` (R324, R420). -/
def pushDescs (b : Block) (n : Nat) : Nat :=
  (b.spills.filter (fun d =>
    match vcEntry b (bitsOf d.1.toNat 3 0) (bitsOf d.1.toNat 8 4) with
    | some (v, _) => 8 * vcCell v + vcK v == n && vcPos v == 0
    | none => false)).length

def isQpop (i : Option Instr) : Bool := match i with | some (.qpop _) => true | _ => false
def isQpush (i : Option Instr) : Bool := match i with | some (.qpush _) => true | _ => false

/-- Tile masks of a block's engines (R334). -/
def cfgMask (b : Block) (e : Nat) : Option Nat :=
  (b.routes.find? (fun r => rtKind r == 10 && bitsOf r.toNat 5 4 == e)).map (fun r => bitsOf r.toNat 21 6)

/-- What particular forms ask of their block (R420, R431). -/
def formOk (b : Block) (n : Nat) (i : Instr) : Bool :=
  match i with
  | .qpush _ => pushDescs b n == 1
  | .qpop _ => (popDescs b n).length == 1
  | .qcount w => isQpop (laxAt b (8 * (n / 8) + w.imm.toNat % 8))
  | .tcpyin w | .tcpyout w => (match cfgMask b (quadOf (n / 8)) with | some m => m.testBit (w.imm.toNat % 16) | none => false)
  | _ => true

def instErr (bs : List Block) (w j n : Nat) : Option Nat :=
  let b := bs.getD j {}
  if (b.insts.getD n 0).toNat = 0 then none
  else match instAt b n with
    | none => some (locOf 2 n j (badTarget (b.insts.getD n 0).toNat))
    | some i =>
      match (instTargets i).zipIdx.findSome? (fun t => targetErr bs w j n t.2 i t.1) with
      | some e => some e
      | none => if operandsOk b n i && formOk b n i then none else some (locOf 2 n j 0)

/-! ## Route words (R333 to R335) -/

/-- Bits of a route word that its kind does not define. -/
def rtReserved (r : DWord) : Bool :=
  match rtKind r with
  | 1 => bitsOf r.toNat 63 58 != 0
  | 3 => bitsOf r.toNat 63 51 != 0
  | 4 => bitsOf r.toNat 63 29 != 0
  | 5 => bitsOf r.toNat 63 40 != 0
  | 6 => bitsOf r.toNat 63 26 != 0
  | 7 => bitsOf r.toNat 63 46 != 0
  | 8 => bitsOf r.toNat 63 33 != 0
  | 9 => bitsOf r.toNat 63 25 != 0
  | 10 => bitsOf r.toNat 63 22 != 0
  | _ => true

/-- The field limits of a route word. -/
def rtLimits (r : DWord) : Bool :=
  let v := r.toNat
  match rtKind r with
  | 1 => bitsOf v 41 38 == 0 || (decide (4 ≤ bitsOf v 41 38) && decide (bitsOf v 41 38 ≤ 12))
  | 3 =>
    bitsOf v 13 12 != 3 && (bitsOf v 13 12 == 2 || !v.testBit 14)
      && (if bitsOf v 13 12 = 1 then bitsOf v 50 48 != 0 else bitsOf v 50 48 == 0)
  | 5 => decide (bitsOf v 18 12 ≤ 64) && decide (bitsOf v 25 19 ≤ 64) && decide (bitsOf v 32 26 ≤ 64) && decide (bitsOf v 39 33 ≤ 64)
  | 8 => quadOf (bitsOf v 11 8) == bitsOf v 5 4
  | _ => true

/-- The destination END of a route word; none where its END is a source, or it has none. -/
def rtDest (r : DWord) : Option Nat :=
  match rtKind r with
  | 1 | 4 | 9 => some (rtEnd r)
  | 3 => if bitsOf r.toNat 13 12 = 2 ∧ !r.toNat.testBit 14 then some (rtEnd r) else none
  | 7 => if r.toNat.testBit 12 then some (rtEnd r) else none
  | _ => none

/-- The source END of a route word, which lies on the block's own island. -/
def rtSrcEnd (r : DWord) : Option Nat :=
  match rtKind r with
  | 3 | 6 | 7 => if (rtDest r).isNone then some (rtEnd r) else none
  | _ => none

/-- What a word binds at most once: a port of a generator, a port of an engine, a tile mask. -/
def rtBinds (r : DWord) : Option (Nat × Nat) :=
  match rtKind r with
  | 3 => some (3, bitsOf r.toNat 13 4)
  | 4 => some (4, bitsOf r.toNat 11 4)
  | 8 => some (8, bitsOf r.toNat 7 4)
  | 9 => some (9, bitsOf r.toNat 7 4)
  | 10 => some (10, bitsOf r.toNat 5 4)
  | _ => none

/-- A word before this one binds the same: of the frame for a generator's port, else of the block. -/
def boundBefore (bs : List Block) (j i : Nat) (r : DWord) : Bool :=
  match rtBinds r with
  | none => false
  | some k =>
    let own := ((bs.getD j {}).routes.take i).any (fun x => rtBinds x == some k)
    if k.1 < 8 then own || (bs.take j).any (fun b => b.routes.any (fun x => rtBinds x == some k)) else own

/-- Some target of a source cell feeds a VC. -/
def fedVc (b : Block) (cell vc : Nat) : Bool :=
  eight.any (fun k =>
    match laxAt b (8 * cell + k) with
    | some i => (instTargets i).any (fun t => match t with | .vc v => v.toNat == vc | _ => false)
    | none => false)
where
  eight : List Nat := [0, 1, 2, 3, 4, 5, 6, 7]

/-- A write data port of a generator is bound in the frame (R335). -/
def writePort (bs : List Block) (da : Nat) : Bool :=
  bs.any (fun b => b.routes.any (fun x => rtKind x == 3 && bitsOf x.toNat 11 4 == da && bitsOf x.toNat 13 12 == 2 && x.toNat.testBit 14))

def routeBad (bs : List Block) (h w j i : Nat) (r : DWord) : Bool :=
  let b := bs.getD j {}
  rtReserved r || !rtLimits r || boundBefore bs j i r
    || (match rtDest r with
        | some e => !endInside h w e || (endEntry bs w e).isNone || (rtKind r == 9 && endBlock w e != j)
        | none => false)
    || (match rtSrcEnd r with | some e => !endInside h w e || endBlock w e != j | none => false)
    || (match rtSource r with
        | some x => (b.routes.take i).any (fun y => rtSource y == some x) || !fedVc b x.1 x.2
        | none => false)
    || (rtKind r == 4 && !writePort bs (bitsOf r.toNat 11 4))
    || ((rtKind r == 8 || rtKind r == 9) && (cfgMask b (bitsOf r.toNat 5 4)).isNone)

/-! ## VC entries, handlers, descriptors and cell records (R323, R324, R336, R337, R443) -/

def vcBad (b : Block) (i : Nat) (e : Word) : Bool :=
  bitsOf e.toNat 15 14 != 0 || (b.vcs.take i).any (fun x => vcCell x == vcCell e && vcVc x == vcVc e)
    || (match laxAt b (8 * vcCell e + vcK e) with | some k => !takesEdge k (vcPos e) true | none => true)

def chainTiles (t n : Nat) : List Nat := (List.range n).map (t + ·)

/-- Tiles that a micro-operation names (R443). -/
def microTiles : Instr → List Nat
  | .mldw ta _ _ _ _ _ _ => [ta.toNat]
  | .mmul ta td _ _ _ _ | .macc ta td _ _ _ _ => [ta.toNat, td.toNat]
  | .mzero td _ _ => [td.toNat]
  | .mout ta _ _ _ _ _ _ => [ta.toNat]
  | .mcvt ta td _ _ _ _ _ => [ta.toNat, td.toNat]
  | .mtrans ta td _ _ _ => [ta.toNat, td.toNat]
  | .mcopy ta td _ _ _ => [ta.toNat, td.toNat]
  | .mfill td _ _ _ => [td.toNat]
  | .madd ta tb td _ _ _ => [ta.toNat, tb.toNat, td.toNat]
  | .mlda td _ _ _ => [td.toNat]
  | .mact ta td _ _ _ _ => [ta.toNat, td.toNat]
  | .mbfly ta nt _ _ _ _ => chainTiles ta.toNat (nt.toNat + 1)
  | .mbrev ta td nt _ => chainTiles ta.toNat (nt.toNat + 1) ++ chainTiles td.toNat (nt.toNat + 1)
  | .mtwid td nt _ _ => chainTiles td.toNat (nt.toNat + 1)
  | .mscale ta _ _ _ => [ta.toNat]
  | .mbexpSet ta _ => [ta.toNat]
  | .mbexpOut ta _ => [ta.toNat]
  | .msatclr ta => [ta.toNat]
  | .mcmul ta tb td _ _ _ => [ta.toNat, tb.toNat, td.toNat]
  | .mconj ta td _ _ => [ta.toNat, td.toNat]
  | .spacc td _ _ _ => [td.toNat]
  | .spzero td => [td.toNat]
  | .spout ta _ _ _ _ => [ta.toNat]
  | .spmerge ta td => [ta.toNat, td.toNat]
  | _ => []

/-- Input ports, then output ports, that a micro-operation names. -/
def microIns : Instr → List Nat
  | .mldw _ src port _ _ _ _ => if src then [port.toNat] else []
  | .mlda _ port _ _ => [port.toNat]
  | .spacc _ pc pv _ => [pc.toNat, pv.toNat]
  | .msig _ k iport => if k then [iport.toNat] else []
  | _ => []

def microOuts : Instr → List Nat
  | .mout _ dst pq _ _ _ _ => if dst then [] else [pq.toNat]
  | .mbexpOut _ p => [p.toNat]
  | .spout _ oc ov _ _ => [oc.toNat, ov.toNat]
  | .msig p _ _ => [p.toNat]
  | _ => []

/-- The route word that binds a port of an engine: kind 8 an input, 9 an output. -/
def portRoute (b : Block) (kind e p : Nat) : Option DWord :=
  b.routes.find? (fun r => rtKind r == kind && bitsOf r.toNat 5 4 == e && bitsOf r.toNat 7 6 == p)

def microOk (b : Block) (e : Nat) (w : Word) : Bool :=
  match decodeMicro w.toNat with
  | .error _ => false
  | .ok i =>
    (microTiles i).all (fun t => decide (t < 16) && ((cfgMask b e).getD 0).testBit t)
      && (microIns i).all (fun p => p != 0 && (portRoute b 8 e p).isSome)
      && (microOuts i).all (fun p => (portRoute b 9 e p).isSome)
      && (match i with
          | .mldw _ _ _ row wk pl _ => decide (row.toNat + (wkBytes wk.toNat (pl.toNat + 1) + 127) / 128 ≤ 64)
          | _ => true)

/-- A handler record as fetched, and as configured. -/
def hndBad (b : Block) (i : Nat) (raw : List Nat) : Bool :=
  let h := hndOf raw
  raw.getD 0 0 / 2 ^ 9 != 0 || ((wordsOfD (raw.drop 1)).drop h.words.length).any (· != 0)
    || (b.hnds.take i).any (fun x => x.eng == h.eng && x.tag == h.tag)
    || (cfgMask b h.eng).isNone || (portRoute b 8 h.eng 0).isNone || !h.words.all (microOk b h.eng)

def spillBad (b : Block) (d : DWord × DWord) : Bool :=
  let v := d.1.toNat
  let c := bitsOf v 3 0
  bitsOf v 63 50 != 0 || decide (bitsOf v 19 15 < 6) || decide (20 < bitsOf v 19 15) || d.2.toNat / 2 ^ 27 != 0
    || d.2.toNat % 64 != 0
    || !isQpop (laxAt b (8 * c + bitsOf v 11 9))
    || (match vcEntry b c (bitsOf v 8 4) with
        | some (e, _) => vcPos e != 0 || !isQpush (laxAt b (8 * c + vcK e))
        | none => true)
    || decide (64 * ((b.cells.find? (fun x => x.cell == c)).map (·.wlen)).getD 0 < bitsOf v 33 20 + 32 * (bitsOf v 14 12 + 1))

def cellBad (b : Block) (i : Nat) (raw : List Nat) : Bool :=
  let v := raw.getD 0 0
  bitsOf v 7 4 != 0 || bitsOf v 31 25 != 0 || bitsOf v 63 32 != 0 || decide (256 < bitsOf v 24 16)
    || (b.cells.take i).any (fun x => x.cell == bitsOf v 3 0)

/-! ## Stage 2 -/

def headerBad (j : Nat) (b : RawBlock) : Bool :=
  bitsOf b.h0 47 43 != 0 || bitsOf b.h0 63 56 != 0 || b.h1 / 2 ^ 48 != 0 || bitsOf b.h0 55 48 != j
    || decide (128 < nInst b) || decide (512 < nVc b) || decide (64 < nHnd b) || decide (16 < nSpill b) || decide (16 < nCell b)
    || bLen b != 2 + (sectLens b).sum

/-- Structure of a block, in the order of R342. -/
def blockErr (bs : List Block) (h w j : Nat) (r : RawBlock) : Option Nat :=
  let b := bs.getD j {}
  let at_ (sect : Nat) (x : Option Nat) : Option Nat := x.map (fun n => locOf sect n j 0)
  if headerBad j r then some (locOf 1 0 j 0)
  else
    [(List.range b.insts.length).findSome? (instErr bs w j),
     at_ 3 (firstBadIdx b.routes (routeBad bs h w j)),
     at_ 4 (firstBadIdx b.vcs (vcBad b)),
     at_ 4 (if (wordsOfD (sectOf r 2)).drop (nVc r) = [] ∨ (wordsOfD (sectOf r 2)).drop (nVc r) = [0] then none else some (nVc r)),
     at_ 5 (firstBadIdx (chunks 5 (nHnd r) (sectOf r 3)) (hndBad b)),
     at_ 6 (firstBadIdx b.spills (fun _ d => spillBad b d)),
     at_ 7 (firstBadIdx (chunks 9 (nCell r) (sectOf r 5)) (cellBad b))].findSome? id

/-- Stage 2 of R342. -/
def structErr (h w : Nat) (f : RawFrame) : Option Nat :=
  match frameErr h w f with
  | some e => some e
  | none => f.blocks.zipIdx.findSome? (fun x => blockErr (f.blocks.map blockOf) h w x.2 x.1)

/-! ## Stage 3 (R200, R204, R403) -/

/-- Windows and tile masks of block `j` on an island of partition 0 or of a tenant: a code and a location. -/
def placeErr (p0 : Bool) (j : Nat) (b : Block) : Option (Nat × Nat) :=
  let win := firstBadIdx b.cells (fun _ c => decide ((if p0 then 8192 else 16384) < 64 * (c.wbase + c.wlen)))
  let plane := (List.range b.insts.length).find? (fun n =>
    match instAt b n with
    | some (.planesplit w) | some (.planejoin w) =>
      decide (64 * ((b.cells.find? (fun x => x.cell == n / 8)).map (·.wlen)).getD 0 < 16 * (w.imm.toNat / 32) + 64)
    | _ => false)
  let mask := if p0 then firstBadIdx b.routes (fun _ r => rtKind r == 10 && bitsOf r.toNat 21 14 != 0) else none
  [plane.map (fun n => (0x9011, locOf 2 n j 0)), win.map (fun n => (0x9011, locOf 7 n j 0)),
   mask.map (fun n => (0x9020, locOf 3 n j 0))].findSome? id

/-! ## Stage 4: formats (R310, R313, R444) -/

/-- A producer's format, where it is known, agrees with a record. -/
def agrees (p : Option Nat) (r : Nat) : Bool := match p with | some x => sameBase x r | none => true

/-- The consumer's entry at an END takes the producer's format. -/
def endTakes (bs : List Block) (ts : List (Tab Nat)) (w e : Nat) (p : Option Nat) : Bool :=
  match endEntry bs w e with
  | none => false
  | some (v, _) =>
    let b := bs.getD (endBlock w e) {}
    let n := 8 * vcCell v + vcK v
    fmtOk (vcFmt v) && agrees p (vcFmt v)
      && (match instAt b n with
          | some i => takesFmt i (vcPos v) (findFmt (ts.getD (endBlock w e) []) (opKey n 0)) (vcFmt v)
          | none => false)

/-- A VC edge from an operator agrees, by its route word (R313). -/
def routeTakes (bs : List Block) (ts : List (Tab Nat)) (w : Nat) (cross : Nat → Bool) (r : DWord) (p : Option Nat) : Bool :=
  match rtKind r with
  | 1 =>
    let q := bitsOf r.toNat 57 42
    endTakes bs ts w (rtEnd r) p && fmtOk q
      && (!cross (endBlock w (rtEnd r)) || (match endEntry bs w (rtEnd r) with | some (v, _) => sameBase q (vcFmt v) | none => true))
  | 3 =>
    fmtOk (rtRecord r) && agrees p (rtRecord r)
      && (match bitsOf r.toNat 13 12 with | 0 => fmtBase (rtRecord r) == 0 | 1 => fmtBase (rtRecord r) == 6 | _ => true)
  | 6 => agrees p 0
  | 7 | 8 => fmtOk (rtRecord r) && agrees p (rtRecord r)
  | _ => true

/-- Whether the edge from target `ti` of slot `n` of block `j` agrees. `cross` tells which blocks lie on another die. -/
def edgeOk (bs : List Block) (ts : List (Tab Nat)) (w j n ti : Nat) (cross : Nat → Bool) (t : Target) : Bool :=
  let b := bs.getD j {}
  let tab := ts.getD j []
  let p := slotOut b tab n ti
  match t with
  | .operand q m =>
    (match instAt b m.toNat, p with
     | some i, some r => takesFmt i q.code (findFmt tab (opKey m.toNat 0)) r
     | _, _ => true)
  | .vc v => (routesFrom b (n / 8) v.toNat).all (fun r => routeTakes bs ts w cross r p)
  | _ => true

def slotFmtErr (bs : List Block) (ts : List (Tab Nat)) (w j : Nat) (cross : Nat → Bool) (n : Nat) : Option Nat :=
  match instAt (bs.getD j {}) n with
  | none => none
  | some i => (instTargets i).zipIdx.findSome? (fun t => if edgeOk bs ts w j n t.2 cross t.1 then none else some (locOf 2 n j t.2))

/-- A VC entry of block `j`: its record, its operand, and the units that feed it by route words of the frame. -/
def vcFmtBad (bs : List Block) (ts : List (Tab Nat)) (w j : Nat) (_ : Nat) (e : Word) : Bool :=
  let b := bs.getD j {}
  let n := 8 * vcCell e + vcK e
  let here (x : Nat) : Bool := endBlock w x == j && endCell x == vcCell e && endVc x == vcVc e
  let feeds := bs.flatMap (fun b => b.routes.filter (fun r => rtKind r != 1 && rtKind r != 9 && (match rtDest r with | some x => here x | none => false)))
  let bySlot := bs.any (fun b => b.routes.any (fun r => rtKind r == 1 && here (rtEnd r)))
  (!bySlot && (!fmtOk (vcFmt e)
    || !(match instAt b n with | some i => takesFmt i (vcPos e) (findFmt (ts.getD j []) (opKey n 0)) (vcFmt e) | none => false)))
    || feeds.any (fun r => if rtKind r = 4 then fmtBase (vcFmt e) != 31 else !fmtOk (rtRecord r) || !sameBase (rtRecord r) (vcFmt e))

/-- What a micro-operation asks of an input port: MLDA any vector but CTL, MLDW and SPACC a record (R444). -/
inductive PortNeed where
  | vector
  | weights (r : Nat)
  | scalar (r : Nat)
  deriving DecidableEq, Repr

def wkRecord (wk pl : Nat) (mid : Bool) : Nat :=
  let f := [1, 4, 20, 9, 10, 11, 12].getD wk 0
  mkFmt (if wk = 2 then f + 32 * pl + (if mid then 2 ^ 9 else 0) else f) true

def microNeeds : Instr → List (Nat × PortNeed)
  | .mldw _ true port _ wk pl mid => [(port.toNat, .weights (wkRecord wk.toNat (pl.toNat + 1) mid))]
  | .mlda _ port _ _ => [(port.toNat, .vector)]
  | .spacc _ pc pv _ => [(pc.toNat, .scalar 6), (pv.toNat, .scalar 8)]
  | _ => []

def needOk (r : Nat) : PortNeed → Bool
  | .vector => fmtVEC r && !fmtSEN r && fmtFMT r != 31
  | .weights x => sameBase r x
  | .scalar x => sameBase r x && !fmtSEN r

/-- Formats that a micro-operation gives output ports (R444). -/
def microMakes : Instr → List (Nat × Nat)
  | .mout _ false pq _ fmt _ _ => [(pq.toNat, mkFmt fmt.toNat true)]
  | .mbexpOut _ p => [(p.toNat, 6)]
  | .spout _ oc ov _ _ => [(oc.toNat, 6), (ov.toNat, 8)]
  | .msig p false _ => [(p.toNat, 31)]
  | _ => []

/-- MOUT to a port in a format that no port of it may carry (R444). -/
def moutBad : Instr → Bool
  | .mout _ false _ _ fmt _ _ => fmt == 20 || fmt == 31
  | _ => false

def hndInsts (h : HndCfg) : List Instr := h.words.filterMap (fun w => match decodeMicro w.toNat with | .ok i => some i | .error _ => none)

/-- No two of a list of (port, requirement) ask different things of one port. -/
def needsAgree (l : List (Nat × PortNeed)) : Bool := l.all (fun a => l.all (fun b => a.1 != b.1 || a.2 == b.2))

/-- A handler record whose ports do not carry what its micro-operations ask and give (R444). -/
def hndFmtBad (bs : List Block) (ts : List (Tab Nat)) (w j i : Nat) (h : HndCfg) : Bool :=
  let b := bs.getD j {}
  let before := (b.hnds.take i).filter (fun x => x.eng == h.eng)
  let needs (x : HndCfg) := (hndInsts x).flatMap microNeeds
  let rec8 (p : Nat) : Nat := match portRoute b 8 h.eng p with | some r => rtRecord r | none => 0
  let cmd := rec8 0
  !(fmtIn cmd false [0, 6] && !fmtSEN cmd)
    || !needsAgree ((before ++ [h]).flatMap needs)
    || (needs h).any (fun n => !needOk (rec8 n.1) n.2)
    || (hndInsts h).any moutBad
    || ((hndInsts h).flatMap microMakes).any (fun m =>
        match portRoute b 9 h.eng m.1 with
        | some r => !fmtOk m.2 || !endTakes bs ts w (rtEnd r) (some m.2)
        | none => true)

/-- A descriptor whose record is ill-formed, carries vectors, or differs from its push edge (R313, R420). -/
def spillFmtBad (b : Block) (d : DWord × DWord) : Bool :=
  !fmtOk (spillFmt d) || fmtVEC (spillFmt d)
    || (match vcEntry b (bitsOf d.1.toNat 3 0) (bitsOf d.1.toNat 8 4) with
        | some (v, _) => !sameBase (vcFmt v) (spillFmt d)
        | none => false)

/-- The first edge of block `j` that does not agree, or record that is ill-formed. -/
def blockFmtErr (bs : List Block) (ts : List (Tab Nat)) (w : Nat) (die : Nat → Nat) (j : Nat) : Option Nat :=
  let b := bs.getD j {}
  let cross (k : Nat) : Bool := die k != die j
  let at_ (sect : Nat) (x : Option Nat) : Option Nat := x.map (fun n => locOf sect n j 0)
  [(List.range b.insts.length).findSome? (slotFmtErr bs ts w j cross),
   at_ 4 (firstBadIdx b.vcs (vcFmtBad bs ts w j)),
   at_ 5 (firstBadIdx b.hnds (hndFmtBad bs ts w j)),
   at_ 6 (firstBadIdx b.spills (fun _ d => spillFmtBad b d))].findSome? id

/-- Formats of a frame whose block k lies on die `die k`. -/
def formatErr (bs : List Block) (w : Nat) (die : Nat → Nat) : Option Nat :=
  (List.range bs.length).findSome? (blockFmtErr bs (bs.map blockFmts) w die)

end Sys2Proof.Machine
end

