-- ==== Sys2Proof/Machine/LoadOps.lean ====
section
/-! DEFINITION. The context loader (R153, R177, R195, R201, R204, R317 to R345): it fetches a frame, checks it, takes
context slots for it, and arms or poisons them; a demand load then enters the frame, and a restore brings back the
saved state (R266). -/
namespace Sys2Proof.Machine

/-! ## Fetching (R317, R320, stage 1 of R342) -/

def dwordsOf : Nat → List Byte → List Nat
  | 0, _ => []
  | n + 1, l => leNat (l.take 8) :: dwordsOf n (l.drop 8)

/-- Fault code of a fetch access: FLT_FETCH for a walk that finds no page or no permission. -/
def fetchCode (c : Nat) : Nat := if c = 0x9001 ∨ c = 0x9002 then 0x9007 else c

/-- Fetch `n` double words at a VA of space `p` through cache `i`. -/
def fetchD (s : State) (i p va n : Nat) : Except HeldFault (List Nat) × State :=
  match readVa s i p .fetch (pagesFor (8 * n)) va (8 * n) with
  | (.error (c, a, d), s) => (.error { code := fetchCode c, addr := a, detail := d }, s)
  | (.ok l, s) => (.ok (dwordsOf n l), s)

/-- The block at an offset: its header, and its body if the frame holds it. -/
def fetchBlock (s : State) (i p va n flen off : Nat) : Except HeldFault RawBlock × State :=
  if off % 8 ≠ 0 ∨ off < dirEnd n ∨ flen < off + 16 then (.ok { off := off }, s)
  else match fetchD s i p (va + off) 2 with
    | (.error e, s) => (.error e, s)
    | (.ok l, s) =>
      let b : RawBlock := { off := off, h0 := l.getD 0 0, h1 := l.getD 1 0 }
      if !blockFits n flen b then (.ok b, s)
      else match fetchD s i p (va + off + 16) (bLen b - 2) with
        | (.error e, s) => (.error e, s)
        | (.ok l, s) => (.ok { b with body := l }, s)

def fetchBlocks (i p va n flen : Nat) : List Nat → State → Except HeldFault (List RawBlock) × State
  | [], s => (.ok [], s)
  | off :: t, s =>
    match fetchBlock s i p va n flen off with
    | (.error e, s) => (.error e, s)
    | (.ok b, s) =>
      match fetchBlocks i p va n flen t s with
      | (.error e, s) => (.error e, s)
      | (.ok l, s) => (.ok (b :: l), s)

/-- A frame of `n` blocks at a VA: what was fetched of it, and the fault that ended the fetch. Its header and exit table come
first, so that the frame of a later fault is known (R195). -/
def fetchFrame (s : State) (i p va n : Nat) : RawFrame × Option HeldFault × State :=
  match fetchD s i p va 10 with
  | (.error e, s) => ({}, some e, s)
  | (.ok h, s) =>
    match fetchD s i p (va + 80) (dirEnd n / 8 - 10) with
    | (.error e, s) => ({ head := h }, some e, s)
    | (.ok l, s) =>
      let f : RawFrame := { head := h, dir := wordsOfD l }
      match fetchBlocks i p va n (hdLen f) (f.dir.take n) s with
      | (.error e, s) => (f, some e, s)
      | (.ok bs, s) => ({ f with blocks := bs }, none, s)

/-! ## Checks before placement (R342) -/

/-- Islands of a load: of the holm's frame, of a service image's, of a thread's or a PRELOAD's. -/
def loadIslands (l : Load) : List Nat :=
  if l.part = 16 then (if l.w = 1 then [260] else [256, 257, 258]) else regionOf l.h l.w l.orow l.ocol

/-- An island of the IOD has no matrix engines (R13): the first route word or handler record of a block that names one. -/
def engineErr (j : Nat) (b : Block) : Option Nat :=
  match firstBadIdx b.routes (fun _ r => [8, 9, 10].contains (rtKind r)) with
  | some n => some (locOf 3 n j 0)
  | none => if b.hnds = [] then none else some (locOf 5 0 j 0)

/-- Stages 2, 3 and the format part of stage 4. -/
def loadErr (s : State) (l : Load) (f : RawFrame) : Option HeldFault :=
  let isls := loadIslands l
  let bs := f.blocks.map blockOf
  match structErr l.h l.w f with
  | some d => some { code := 0x9020, detail := d }
  | none =>
    match bs.zipIdx.findSome? (fun x => placeErr (if l.part = 16 then l.w != 1 else ownerOf s (isls.getD x.2 0) == 0) x.2 x.1) with
    | some (c, d) => some { code := c, detail := d }
    | none =>
      match (if l.part = 16 then bs.zipIdx.findSome? (fun x => engineErr x.2 x.1) else none) with
      | some d => some { code := 0x9020, detail := d }
      | none => (formatErr bs l.w (fun j => isls.getD j 0 / 64)).map (fun d => { code := 0x9021, detail := d })

/-- The context of block `j` of a load, LOADING. -/
def loadCtx (s : State) (l : Load) (f : RawFrame) (held : Option HeldFault) (j : Nat) : Ctx :=
  let b := if held.isSome then {} else blockOf (f.blocks.getD j {})
  { st := .loading, thread := l.thread, cls := l.cls, part := l.part, frame := l.frame, frameId := hdId f, blkIdx := j, h := l.h, w := l.w,
    exen := hdEx f, exits := (List.range 8).map (hdExit f), block := b, held := held, keeps := entryKeeps b.cells,
    scales := entryScales b.cells, fmts := (blockFmts b).filter (fun e => e.2 != 0), since := s.cycle, lastUse := s.cycle }

/-! ## Slots (R177, R201, R204) -/

/-- The thread of a load or context is another one; contexts without a thread belong to their own frame only. -/
def otherOwner (l : Load) (c : Ctx) : Bool := c.thread != l.thread || (c.thread.isNone && (c.frame != l.frame || c.part != l.part))

def physMask (s : State) (isl σ m : Nat) : Nat := if isl < 256 ∧ ownerOf s isl = 0 ∧ 4 ≤ σ then m % 256 * 256 else m

/-- A context's windows and tiles, if it were in slot σ, are clear of those of a context in slot τ. -/
def clearOf (s : State) (isl σ : Nat) (c : Ctx) (τ : Nat) (d : Ctx) : Bool :=
  c.block.cells.all (fun x => d.block.cells.all (fun y =>
    x.cell != y.cell || decide (winBase s isl σ c x.cell + 64 * x.wlen ≤ winBase s isl τ d y.cell)
      || decide (winBase s isl τ d y.cell + 64 * y.wlen ≤ winBase s isl σ c x.cell) || x.wlen == 0 || y.wlen == 0))
    && [0, 1, 2, 3].all (fun e => physMask s isl σ (tileMask c e) &&& physMask s isl τ (tileMask d e) == 0)

/-- Context slot σ of an island may pass from FREE to LOADING for a load; an island with a lost cell takes no further work
(R284). -/
def slotTakes (s : State) (l : Load) (isl σ : Nat) (c : Ctx) : Bool :=
  slotFree s isl σ && loadFits s isl σ && !islLost s isl
    && eight.all (fun τ => let d := ctxAt s isl τ; d.st == .free || !otherOwner l d || clearOf s isl σ c τ d)

/-- A slot for a load on an island: the lowest free one that may take it, or, where none is free, that of a context which
is evicted, on that island alone (R152). -/
def slotFor (s : State) (l : Load) (isl : Nat) (c : Ctx) : Option (Nat × State) :=
  let us := if l.part ≠ 0 ∧ lending s isl then [] else usable s l.part isl
  match us.find? (fun σ => slotTakes s l isl σ c) with
  | some σ => some (σ, s)
  | none =>
    if us = [] ∨ us.any (slotFree s isl) then none
    else match evictable s l.part isl with
      | [] => none
      | σ :: _ =>
        let s := discardCtx s isl σ
        if slotTakes s l isl σ c then some (σ, s) else none

/-- Slots for the blocks of a load on its islands, in order; each becomes LOADING. -/
def claimSlots (l : Load) (f : RawFrame) (held : Option HeldFault) : List (Nat × Nat) → State → Option (List (Nat × Nat) × State)
  | [], s => some ([], s)
  | (isl, j) :: r, s =>
    let c := loadCtx s l f held j
    match slotFor s l isl c with
    | none => none
    | some (σ, s) =>
      match claimSlots l f held r (setCtx s isl σ c) with
      | none => none
      | some (t, s) => some ((isl, σ) :: t, s)

/-- The context loader of each further die of a load fetches through its own die's translation cache (R250). -/
def fetchRest (l : Load) : List Nat → State → Option HeldFault × State
  | [], s => (none, s)
  | i :: t, s =>
    match fetchFrame s i l.part l.frame (l.h * l.w) with
    | (_, some e, s) => (some e, s)
    | (_, none, s) => fetchRest l t s

/-- What is fetched of a load's frame, with the fault that it holds. The thread's partition is its space, and each die of
the region fetches through its own translation cache. -/
def fetchLoad (s : State) (l : Load) : RawFrame × Option HeldFault × State :=
  match ((loadIslands l).map tlbOf).eraseDups with
  | [] => ({}, none, s)
  | i :: rest =>
    match fetchFrame s i l.part l.frame (l.h * l.w) with
    | (f, some e, s) => (f, some e, s)
    | (f, none, s) =>
      match fetchRest l rest s with
      | (some e, s) => (f, some e, s)
      | (none, s) => (f, loadErr s l f, s)

/-- Islands where a load has no slot yet, with their block numbers. -/
def unplaced (l : Load) : List (Nat × Nat) := (loadIslands l).zipIdx.filter (fun x => !l.slots.any (fun y => y.1 == x.1))

/-- The load takes the slots that it still needs if it can; otherwise it waits. -/
def claimLoad (s : State) (n : Nat) (l : Load) : State :=
  let (f, held, t) := fetchLoad s l
  match claimSlots l f held (unplaced l) t with
  | none => s
  | some (more, s) =>
    let slots := (loadIslands l).filterMap (fun i => (l.slots ++ more).find? (fun x => x.1 == i))
    let s := modLoad s n (fun l => { l with slots := slots })
    match held with
    | none =>
      (match bindFrame s l.thread slots with
       | .ok s => s
       | .error (c, d) => slots.foldl (fun s x => modCtx s x.1 x.2 (fun c0 => { c0 with held := some { code := c, detail := d } })) s)
    | some _ => s

/-- The image's contexts on the service islands are filled in their slots (R121): a block on each of SI0 to SI2, and SI0's on
SI3. -/
def fillService (s : State) (l : Load) : State :=
  let (f, held, s) := fetchLoad s l
  l.slots.foldl (fun s x => setCtx s x.1 x.2 (loadCtx s l f held (if x.1 = 259 then 0 else x.1 - 256))) s

/-! ## The holm's own frame (R13, R112) -/

def rawBlock (b : List Byte) (n flen off : Nat) : RawBlock :=
  if off % 8 ≠ 0 ∨ off < dirEnd n ∨ flen < off + 16 then { off := off }
  else
    let h := dwordsOf 2 (takeBytes b off 16)
    let r : RawBlock := { off := off, h0 := h.getD 0 0, h1 := h.getD 1 0 }
    if !blockFits n flen r then r else { r with body := dwordsOf (bLen r - 2) (takeBytes b (off + 16) (8 * (bLen r - 2))) }

/-- A frame of `n` blocks held as bytes. -/
def rawFrame (b : List Byte) (n : Nat) : RawFrame :=
  let l := dwordsOf (dirEnd n / 8) b
  let f : RawFrame := { head := l.take 10, dir := wordsOfD (l.drop 10) }
  { f with blocks := (f.dir.take n).map (rawBlock b n (hdLen f)) }

/-- A block that serves the holm island holds at most 32 instruction words, and its targets name slots below 32 (R13). -/
def holmBlockOk (b : Block) : Bool :=
  (List.range b.insts.length).all (fun n =>
    match instAt b n with
    | none => true
    | some i => decide (n < 32) && (instTargets i).all (fun t => match t with | .operand _ k => decide (k.toNat < 32) | _ => true))

/-- The holm firmware starts (R13, R112 step 1): its body lies in the bank of cell C0 from word 0, and the frame at ENTRY runs in
slot 0 of the holm island (log entry 69). -/
def startHolm (s : State) (body : List Byte) (entry : Nat) : State :=
  let f := rawFrame (body.drop entry) 1
  let l : Load := { thread := none, part := 16, frame := entry, h := 1, w := 1, orow := 0, ocol := 0, slots := [(260, 0)],
                    packet := none, since := s.dtime, cls := 4 }
  let s := wrBytes s (bankKey 260 0 0) body
  let ok := (loadErr s l f).isNone && f.blocks.all (fun b => holmBlockOk (blockOf b))
  let c := loadCtx s l f (if ok then none else some { code := 0x9020, detail := 0 }) 0
  setCtx s 260 0 { enterCtx s c {} with st := if ok then .active else .poisoned }

/-! ## Arming (R153, R195, R211) -/

/-- Every context of the load is ARMED, or POISONED where the frame holds a fault. -/
def armAll (s : State) (slots : List (Nat × Nat)) : State :=
  let bad := slots.any (fun x => (ctxAt s x.1 x.2).held.isSome)
  slots.foldl (fun s x => modCtx s x.1 x.2 (fun c => { c with st := if bad then .poisoned else .armed })) s

/-- A load's contexts are armed, and granted the slot-table entries that they request, or they are poisoned (R195, R211). -/
def armLoad (s : State) (l : Load) : State :=
  let s := armAll s l.slots
  if l.slots.any (fun x => (ctxAt s x.1 x.2).st == .poisoned) then s else grantFrame s l.cls l.slots

/-- A thread that a restore brings back stops with FLT_SAVE, or a resumable fault of the reading is raised (R269). -/
def restoreFault (s : State) (t : Nat) (c a d : Nat) : State :=
  if resumableCode c then threadFault s t { code := c, save := true, addr := a, detail1 := d }
  else threadFault s t { code := 0x9034, addr := a, detail1 := c }

/-- The saved image of a thread, from its save area. -/
def readImage (s : State) (t : Nat) : Except (Nat × Nat × Nat) (List Byte) × State :=
  let th := threadAt s t
  let i := tlbOf (fabricIsl th.orow th.ocol)
  let va := svVa s th.part t
  match readVa s i th.part .read (pagesFor 256) va 256 with
  | (.error e, s) => (.error e, s)
  | (.ok h, s) =>
    if !imageOk h t then (.ok h, s)
    else readVa s i th.part .read (pagesFor (byteF h 12 4)) va (byteF h 12 4)

/-- The thread has its executing frame: it leaves LOADING, and the frame is entered. -/
def arrive (s : State) (t : Nat) : State := modThread s t (fun th => if th.st = .loading then { th with st := .running } else th)

/-- Contexts restored from an image take up their spill queues' state blocks (R266, R472). -/
def restoreSpills (s : State) (slots : List (Nat × Nat)) : State :=
  slots.foldl (fun s x => modCtx s x.1 x.2 (fun c => readSpills s c c.block.spills.length)) s

/-- Enter the frame whose contexts are in `slots` and put the image back before any operator fires (R266). -/
def restoreLoad (s : State) (t : Nat) (slots : List (Nat × Nat)) (img : List Byte) : State :=
  let run := (threadAt (arrive s t) t).st == .running
  let s := enterFrame (arrive s t) t slots false
  if (threadAt s t).stop ≠ none ∨ (threadAt s t).resumable ≠ [] then s
  else
    let s := restoreSpills (restoreImage s t img) slots
    if run then activateAll s slots else s

/-- The load is over: its packet completes, and the thread that waits for it goes on. -/
def finishLoad (s : State) (n : Nat) (l : Load) : State :=
  let s := armLoad s l
  let s := { s with sched := { s.sched with loads := s.sched.loads.del n } }
  let s := match l.packet with | some (q, p) => completePacket s q p false | none => s
  match l.thread with
  | none => s
  | some t =>
    if l.exec then
      let s := arrive s t
      settle (fetchAhead (enterFrame s t l.slots ((threadAt s t).st == .running)) t)
    else fetchAhead s t

/-- The end of a restore, whose image is read first; a fault of the reading leaves the load in place. -/
def finishRestore (s : State) (n : Nat) (l : Load) (t : Nat) : State :=
  match readImage s t with
  | (.error (c, a, d), s) => restoreFault s t c a d
  | (.ok img, s) =>
    if !imageOk img t then threadFault s t { code := 0x9034 }
    else
      let s := armLoad s l
      let s := { s with sched := { s.sched with loads := s.sched.loads.del n } }
      settle (fetchAhead (restoreLoad s t l.slots img) t)

/-- A restore whose frame holds a fault raises it and waits for the answer; a later load fetches the frame again. -/
def restoreHeld (s : State) (n : Nat) (l : Load) (t : Nat) : State :=
  match entryFault s l.slots with
  | none => s
  | some (f, b) =>
    let fid := match l.slots with | (i, σ) :: _ => (ctxAt s i σ).frameId | [] => 0
    let s := modLoad (modThread (discardAll s l.slots) t (fun th => { th with frameId := fid })) n (fun l => { l with slots := [] })
    threadFault s t { code := f.code, atEntry := true, block := b, addr := f.addr, detail1 := f.detail }

/-- The service image's contexts are in its bank: active in the active bank, armed in the other (R121, R125). -/
def finishService (s : State) (n : Nat) (l : Load) : State :=
  let s := armAll (fillService s l) l.slots
  let s := { s with sched := { s.sched with loads := s.sched.loads.del n } }
  let active (x : Nat × Nat) : Bool := x.1 == 259 || x.2 / 4 == s.fw.bank
  l.slots.foldl (fun s x =>
    let c := ctxAt s x.1 x.2
    if c.st ≠ .armed then s
    else
      let c := enterCtx s c {}
      setCtx s x.1 x.2 { c with st := if active x then .active else .armed }) s

def loadAt (s : State) (n : Nat) : Option Load := (s.sched.loads.find? (fun l => l.1 == n)).map (·.2)

/-- The thread of a load may go on with it: it has no fault that waits for an answer. -/
def loadGoes (s : State) (l : Load) : Bool :=
  match l.thread with
  | some t => (threadAt s t).stop.isNone && (!l.restore || (threadAt s t).resumable == [])
  | none => true

/-- The islands of a load can be reached from the IOD (R9), none is on a die in core reset (R22) and no cell of theirs is lost
(R284). -/
def loadReaches (s : State) (l : Load) : Bool :=
  (loadIslands l).all (fun i => decide (256 ≤ i) || (pathOpen s 8 (islPlace i) && islUp s i))

/-- A load that brings a thread's executing frame waits, as any switch, for the replays of cells on its islands (R280). -/
def loadSwitches (s : State) (l : Load) : Bool := l.exec && (loadIslands l).any (islFailing s)

def execContextLoadDone (load : Nat) (s : State) : Out :=
  match loadAt s load with
  | none => .next s
  | some l =>
    if !loadGoes s l ∨ !loadReaches s l ∨ loadSwitches s l then .next s
    else if l.part = 16 then .next (finishService s load l)
    else if unplaced l ≠ [] then .next (claimLoad s load l)
    else match l.restore, l.thread with
      | true, some t =>
        if l.slots.any (fun x => (ctxAt s x.1 x.2).held.isSome) then .next (restoreHeld s load l t)
        else .next (finishRestore s load l t)
      | _, _ => .next (finishLoad s load l)

/-! ## Waiting (R177, R201) -/

/-- A thread's contexts keep a load from an island: a slot is free there, and they hold the tokens that it lacks entries for,
or windows or tiles that overlap (R177, R201, R204). -/
def blocksLoad (s : State) (l : Load) (f : RawFrame) (held : Option HeldFault) (t : Nat) : Bool :=
  (unplaced l).any (fun x =>
    let c := loadCtx s l f held x.2
    (usable s l.part x.1).any (fun σ => slotFree s x.1 σ && eight.any (fun τ =>
      let d := ctxAt s x.1 τ
      d.st != .free && d.thread == some t
        && ((!loadFits s x.1 σ && (d.bufs != [] || s.flights.any (fun g => g.isl == x.1 && g.slot == τ))) || !clearOf s x.1 σ c τ d))))

/-- A load that has waited 10 µs: the PREEMPTED and PARKED threads that it waits for are saved, if they can be. -/
def execLoadWaitTimeout (load : Nat) (s : State) : Out :=
  match loadAt s load with
  | none => .next s
  | some l =>
    if unplaced l = [] ∨ s.dtime < l.since + 10 * usec then .next s
    else
      let (f, held, u) := fetchLoad s l
      if (claimSlots l f held (unplaced l) u).isSome then .next s
      else .next (s.sched.threads.foldl (fun s e =>
        let th := threadAt s e.1
        if some e.1 ≠ l.thread ∧ (th.st = .preempted ∨ th.st = .parked) ∧ !th.saving ∧ th.stop = none ∧ saveable s e.1
            ∧ blocksLoad s l f held e.1 then modThread s e.1 (fun x => { x with saving := true })
        else s) s)

end Sys2Proof.Machine
end

