-- ==== Sys2Proof/Machine/PkgOps.lean ====
section
/-! DEFINITION. The package (R9 to R28): package reset and boot (R21, R25, R112), die resets (R22 to R24), adaptive voltage
(R16), the power envelope (R17, R18) and thermal limits (R20). -/
namespace Sys2Proof.Machine

def dieAt (s : State) (d : Nat) : Die := s.pkg.dies.get {} d
def modDie (s : State) (d : Nat) (f : Die → Die) : State :=
  { s with pkg := { s.pkg with dies := s.pkg.dies.set {} d (f (dieAt s d)) } }

/-! ## Package reset and boot -/

/-- Everything is reset (R21, R25): what stays is the flash, host memory, and the model's own fields. -/
def wiped (s : State) : State :=
  { State.reset with agenda := s.agenda, freeCount := s.freeCount, out := s.out, flash := s.flash,
                     mem := s.mem.filter (fun e => decide (hostBase ≤ e.1)) }

def holmSlot (s : State) (n : Nat) : List Byte := if n = 0 then s.flash.holmA else s.flash.holmB

/-- Step 1 of R112: the first holm slot that verifies. -/
def pickHolm (s : State) : Option (List Byte) :=
  let a := holmSlot s s.flash.holmSel
  let b := holmSlot s (1 - s.flash.holmSel)
  if verifyImage s a 1 none = 0 then some a else if verifyImage s b 1 none = 0 then some b else none

def setBoot (s : State) (b : BootSt) : State := { s with pkg := { s.pkg with boot := b } }

/-- Step 3 of R112 with R27, from a list of dies: the record of each die extends M1; its stepping is that of the record. True if boot goes on. -/
def bootRecords (bad : List Nat) : List Nat → State → Bool × State
  | [], s => (true, s)
  | d :: t, s =>
    if !bad.contains d then
      let s := extend s 1 2 (Config.sha256 (s.flash.repair.get [] d))
      let s := modDie s d (fun x => { x with stepping := (Config.dieStepping (s.flash.repair.get [] d)).toNat })
      bootRecords bad t s
    else if d < 4 then
      bootRecords bad t (postDeviceEvent (modDie s d (fun x => { x with absent := true, inReset := true })) 0x8033 (leBytes 1 d))
    else (false, setBoot s (.restricted (if d = 8 then 3 else 2) d))

/-- Step 4 of R112: the straits train; each (strait, rail) whose lane training fails is marked failed (R34). -/
def bootStraits : List (Nat × Nat) → State → State
  | [], s => s
  | (n, k) :: t, s => bootStraits t (if n < 12 ∧ k < 5 then failRail s (endNo n false) k else s)

/-- Step 5 of R112. -/
def bootService (s : State) : State :=
  match pickSvc s with
  | some img => runImage img 0 0 false (extend s 2 3 (imgDigest img))
  | none => enterSafe s

/-- Step 6 of R112, and what follows it: MINSVN, and the report of a thermal trip (R20, R102). -/
def bootDone (s : State) : State :=
  let svn := imgSvn s.fw.holmImg
  let s := { setBoot s .booted with flash := { s.flash with minHolm := max s.flash.minHolm svn } }
  match s.flash.trip with
  | some d => postDeviceEvent { s with flash := { s.flash with trip := none } } 0x8034 (leBytes 1 d)
  | none => s

/-- The boot sequence (R112) up to the training of the straits. `pufOk`: the reading of the PUF array can be corrected with the helper data in flash; the seed
that it then gives is the device's own, the same at every boot (R28). -/
def boot (b : BootIn) (s : State) : State :=
  match pickHolm s with
  | none => setBoot s .halted
  | some img =>
    let s := extend { s with fw := { s.fw with holmImg := img } } 0 1 (imgDigest img)
    let s := startHolm s (imgBody img) (imgEntry img)
    let s := { s with flash := { s.flash with bootCount := s.flash.bootCount + 1 } }
    if !b.pufOk then setBoot s (.restricted 1 0xFF)
    else
      let seed := leBytes 32 (Config.pufSeed s.flash.helper).toNat
      let s := { s with pkg := { s.pkg with seed := seed, idKey := seed } }
      match bootRecords b.badRecords (List.range 9) s with
      | (false, s) => s
      | (true, s) => setBoot s (.training b.badRails)

/-- The training of the straits ends, and the boot goes on (R112 steps 4 to 6). -/
def straitsTrained (s : State) : State :=
  match s.pkg.boot with
  | .training bad => bootDone (bootService (bootStraits bad s))
  | _ => s

def execPackageReset (b : BootIn) (s : State) : Out := .next (boot b (wiped s))

/-- PKGRST.GO (R24): the reset of PACKAGE_RESET, which boot follows. -/
def execPkgrstGo (v : Word) (b : BootIn) (s : State) : Out :=
  if v.toNat.testBit 0 then .next (boot b (wiped s)) else .next s

/-! ## Die resets -/

/-- A thread has a region with some island of a fabric die; that of a saved thread stays at its origin (R138). -/
def placedOn (th : Thread) (d : Nat) : Bool :=
  (match th.st with
   | .loading | .held | .running | .preempted | .parked | .saved => true
   | _ => false) && (List.range th.w).any (fun i => (th.ocol + i) % 32 / 8 == d)

def stopPlaced (d : Nat) : List (Nat × Thread) → State → State
  | [], s => s
  | (t, th) :: r, s => stopPlaced d r (if placedOn th d then threadFault s t { code := 0x9031 } else s)

/-- Loads onto an island of a die are dropped, those that wait for their slots too; a PRELOAD among them is complete. -/
def dropLoads (d : Nat) : List (Nat × Load) → State → State
  | [], s => s
  | (n, l) :: r, s =>
    if l.part ≠ 16 ∧ (List.range l.w).any (fun i => (l.ocol + i) % 32 / 8 == d) then
      let s := { s with sched := { s.sched with loads := s.sched.loads.del n } }
      dropLoads d r (match l.packet with | some (q, p) => completePacket s q p false | none => s)
    else dropLoads d r s

def onDie (d k : Nat) : Bool := decide (k / 512 = d)

/-- Memory keys of the cell banks and tiles of a fabric die. -/
def dieKey (d k : Nat) : Bool :=
  (decide (cellBase + 65536 * 1056 * d ≤ k) && decide (k < cellBase + 65536 * 1056 * (d + 1)))
    || (decide (tileBase + 8192 * 4096 * d ≤ k) && decide (k < tileBase + 8192 * 4096 * (d + 1)))

/-- A leg belongs to a circuit that begins or ends on a die: the two legs of an edge have successive numbers. -/
def legTouches (s : State) (d n : Nat) (l : Leg) : Bool :=
  l.src == d || l.dst == d
    || (!l.direct && (if l.legB then (legAt s (n - 1)).src == d else (legAt s (n + 1)).dst == d))

/-- Circuits with a leg that ends on a die are severed (R43): both their legs go. -/
def severLegs (s : State) (d : Nat) : State :=
  (s.straits.legs.filter (fun l => legTouches s d l.1 l.2)).foldl (fun s l => dropLeg s l.1) s

/-- CELLREL of a cell after a core reset: a cell stays replaced, lost or retired until the package reset (R283, R284). -/
def relAfterReset (c : CellRel) : CellRel := if c.state = 0 then {} else { state := c.state, mapx := c.mapx }

def relsAfterReset (d : Nat) (l : Tab CellRel) : Tab CellRel :=
  (l.map (fun e => if e.1 / 1056 = d then (e.1, relAfterReset e.2) else e)).filter (fun e => e.2 ≠ {})

/-- The core of FDk is reset (R21, R22): its cells, engines and switchboxes lose their state, the circuits that end on it are
severed, and the threads that are placed on it stop with FLT_DIE_RESET. RELCFG and the recovery token of the die, of which the
spec does not say whether they belong to its core, keep their values (log entry 63). -/
def coreReset (s : State) (d : Nat) : State :=
  let s := severLegs (stopPlaced d s.sched.threads (dropLoads d s.sched.loads s)) d
  let s := dropKeys (dieKey d) (modDie s d (fun x => { x with inReset := true }))
  { s with
    pkg := { s.pkg with rstSince := s.dtime },
    ctxs := s.ctxs.filter (fun e => !onDie d e.1),
    flights := s.flights.filter (fun f => !(decide (f.isl < 256) && decide (f.isl / 64 = d))),
    physT := s.physT.filter (fun e => decide (e.1 / 4096 ≠ d)),
    chks := s.chks.filter (fun r => !(decide (r.isl < 256) && decide (r.isl / 64 = d))),
    rel := { s.rel with cells := relsAfterReset d s.rel.cells,
                        fails := s.rel.fails.filter (fun f => !(decide (f.isl < 256) && decide (f.isl / 64 = d))) } }

/-- A write of DIERST (R23, R24): DIE is stored; with GO, a core reset of that die begins or is queued. A write with GO
that names an absent die is ignored, and one that names a die in reset has no effect. A die whose reset is queued and has not
begun is not queued again (log entry 63). -/
def dierstWrite (s : State) (v : Nat) : State :=
  let d := v % 4
  let s1 := { s with pkg := { s.pkg with rstDie := d } }
  if !v.testBit 31 then s1
  else if (dieAt s d).absent ∨ (dieAt s d).inReset then s
  else if s.pkg.rstQueue.contains d then s1
  else
    let s2 := { s1 with pkg := { s1.pkg with rstQueue := s.pkg.rstQueue ++ [d] } }
    if s.pkg.rstQueue = [] then coreReset s2 d else s2

def execDierstGo (v : Word) (s : State) : Out := .next (dierstWrite s v.toNat)

def execDieResetDone (die : Nat) (s : State) : Out :=
  match s.pkg.rstQueue with
  | d :: t =>
    if d = die ∧ s.pkg.rstSince + 200 * usec ≤ s.dtime then
      let s := modDie { s with pkg := { s.pkg with rstQueue := t } } d (fun x => { x with inReset := false })
      match t with
      | e :: _ => .next (coreReset s e)
      | [] => .next s
    else .next s
  | [] => .next s

/-! ## Voltage, power and temperature -/

/-- AVS_CHECK: `margin` is the timing margin above its target, in mV. -/
def execAvsCheck (die : Nat) (margin : Int) (s : State) : Out :=
  let v := (dieAt s die).vddc
  if 8 ≤ die then .next s
  else if margin < 0 then
    if 680 ≤ v then .next (postDeviceEvent s 0x8030 (leBytes 2 die ++ leBytes 2 v))
    else .next (modDie s die (fun x => { x with vddc := v + 5 }))
  else if 15 ≤ margin ∧ 565 ≤ v then .next (modDie s die (fun x => { x with vddc := v - 5 }))
  else .next s

/-- Class and partition of the thread that an island runs. -/
def islandLoad (s : State) (e : Nat × Ctx) : Option (Nat × Nat) :=
  if e.2.st = .active then
    match e.2.thread with
    | some t => some ((threadAt s t).cls, (threadAt s t).part)
    | none => none
  else none

/-- Some island runs a context of a class of a partition. -/
def classRuns (s : State) (cls p : Nat) : Bool := s.ctxs.any (fun e => islandLoad s e == some (cls, p))

def anyHot (s : State) : Bool := s.pkg.dies.any (fun d => d.2.hot)

/-- The average of the samples exceeds the cap; limits also apply while a die is hot (R18, R20). -/
def overAvg (s : State) : Bool := decide (s.pkg.capw * s.pkg.samples.length < s.pkg.samples.sum)
def overCap (s : State) : Bool := overAvg s || anyHot s

/-- The next limiting step (R18): bulk before lent before firm, each class step by step down to one issue in eight, and in a
step the partitions from the highest number down. -/
def nextLimit (s : State) : Option Nat :=
  [3, 2, 1].findSome? (fun cls => (List.range 7).findSome? (fun step =>
    ((List.range 16).reverse.find? (fun p => classRuns s cls p && s.pkg.limits.get 0 (16 * cls + p) == step)).map (16 * cls + ·)))

/-- The last limiting step, which is lifted first. -/
def lastLimit (s : State) : Option Nat :=
  [1, 2, 3].findSome? (fun cls => [7, 6, 5, 4, 3, 2, 1].findSome? (fun step =>
    ((List.range 16).find? (fun p => s.pkg.limits.get 0 (16 * cls + p) == step)).map (16 * cls + ·)))

/-- POWER_SAMPLE. One limiting step is taken at each sample, every 10 µs, while the average is over the cap: the spec does not
say how fast the steps follow each other (log entry 63). -/
def execPowerSample (watts : Nat) (s : State) : Out :=
  let l := s.pkg.samples ++ [watts]
  let s := { s with pkg := { s.pkg with samples := l.drop (l.length - 10) } }
  if overCap s then
    match nextLimit s with
    | some k => .next { s with pkg := { s.pkg with limits := s.pkg.limits.set 0 k (s.pkg.limits.get 0 k + 1), overSince := none } }
    | none => .next { s with pkg := { s.pkg with overSince := if overAvg s then some (s.pkg.overSince.getD s.dtime) else none } }
  else .next { s with pkg := { s.pkg with overSince := none } }

/-- PWR_OVERCAP. While the condition lasts it is posted again after each further 1 ms; the spec does not say whether it is
(log entry 63). -/
def execPwrOvercap (s : State) : Out :=
  match s.pkg.overSince with
  | some t =>
    if t + msec ≤ s.dtime then
      .next (postDeviceEvent { s with pkg := { s.pkg with overSince := none } } 0x8031
        (leBytes 2 (s.pkg.samples.sum / max 1 s.pkg.samples.length) ++ leBytes 2 s.pkg.capw))
    else .next s
  | none => .next s

def execPowerLimitLift (s : State) : Out :=
  if 100 * s.pkg.samples.sum < 95 * s.pkg.capw * s.pkg.samples.length ∧ !anyHot s ∧ s.pkg.lifted + 100 * usec ≤ s.dtime then
    match lastLimit s with
    | some k => .next { s with pkg := { s.pkg with limits := s.pkg.limits.set 0 k (s.pkg.limits.get 0 k - 1), lifted := s.dtime } }
    | none => .next s
  else .next s

def pwrcapWrite (s : State) (v : Word) : State := { s with pkg := { s.pkg with capw := max 300 (min 600 (v.toNat % 1024)) } }

def execPwrcapWrite (l : Level) (v : Word) (s : State) : Out := if l = .t then .next s else .next (pwrcapWrite (journalSys s l 0x10 v) v)

/-- A thermal trip (R20): VDDC is removed from every die, the trip is recorded in flash, and the module is held in package
reset. -/
def thermTrip (s : State) (die : Nat) : State :=
  let s := wiped s
  setBoot { s with flash := { s.flash with trip := some die },
                   pkg := { s.pkg with dies := (List.range 8).map (fun d => (d, { vddc := 0 })) } } .tripped

/-- THERM_SAMPLE. THERM_WARN is posted when a die that was below 100 °C reports 100 °C or more, not at each later report; the
spec does not say which (log entry 63). -/
def execThermSample (die temp : Nat) (s : State) : Out :=
  if 9 ≤ die then .next s
  else if 110 ≤ temp then .next (thermTrip s die)
  else if 100 ≤ temp then
    let was := (dieAt s die).hot
    let s := modDie s die (fun x => { x with temp := temp, hot := true })
    .next (if was then s else postDeviceEvent s 0x8032 (leBytes 1 die ++ leBytes 1 temp))
  else .next (modDie s die (fun x => { x with temp := temp, hot := false }))

end Sys2Proof.Machine
end

