-- ==== Sys2Proof/Machine/Rings.lean ====
section
/-! DEFINITION. Event rings (R103 to R106, R130, R495) and the steps of the table that write packets' own small effects
are in Packets; here a record is written, held, retried, and a ring is enabled. -/
namespace Sys2Proof.Machine

/-- VA of the control block of a ring (R103). -/
def ringCtl (r : Ring) : Nat := r.base + 32 * 2 ^ r.sizeLog2

def toWords : Nat → List Byte → List Word
  | 0, _ => []
  | n + 1, l => BitVec.ofNat 32 (leNat (l.take 4)) :: toWords n (l.drop 4)

/-- Write one record (R104): its 32 bytes, WR + 1 to control word 1, then the vector. False if the ring is disabled, full
or cannot be reached (R495). -/
def writeRecord (s : State) (e : Nat) (ev : Event) : Bool × State :=
  let r := ringAt s e
  if !r.en then (false, s)
  else
    match feWords s r.part (ringCtl r) 1 with
    | (.error _, s) => (false, s)
    | (.ok l, s) =>
      if 2 ^ r.sizeLog2 ≤ (r.wr - l.headD 0).toNat then (false, s)
      else
        match feWrite s r.part (r.base + 32 * (r.wr.toNat % 2 ^ r.sizeLog2)) (toWords 8 (eventBytes ev)) with
        | (false, s) => (false, s)
        | (true, s) =>
          match feWrite s r.part (ringCtl r + 4) [r.wr + 1] with
          | (false, s) => (false, s)
          | (true, s) =>
            let s := modRing s e (fun r => { r with wr := r.wr + 1 })
            (true, if r.irq then raiseMsixOf s r.part r.vec else s)

def isFwEvent (ev : Event) : Bool := ev.code == 0x8001

/-- Missed count of an FW_REMEASURE event (R129): byte 25 of the record. -/
def withMissed (ev : Event) (n : Nat) : Event :=
  { ev with detail := ev.detail.take 5 ++ leBytes 1 (min 255 n) ++ ev.detail.drop 6 }

/-- Hold an event that cannot be written (R105, R106, R130, R495). -/
def holdEvent (s : State) (e : Nat) (ev : Event) : State :=
  let r := ringAt s e
  if ev.src < 64 then
    let s := setRing s e { r with overflow := r.overflow ++ [ev] }
    let s := modQueue s ev.src (fun x => { x with evPend := true })
    let due := match r.lastNote with | some t => decide (t + msec ≤ s.dtime) | none => true
    if due && !(noteTakers s ev).isEmpty then sendNote (modRing s e (fun r => { r with lastNote := some s.dtime })) ev else s
  else if isFwEvent ev ∧ r.heldFw ≠ none then
    setRing s e { r with heldFw := r.heldFw.map (fun h => (withMissed ev (h.2 + 1), min 255 (h.2 + 1))) }
  else if (r.overflow.filter (fun x => decide (64 ≤ x.src))).length < 16 then
    setRing s e { r with overflow := r.overflow ++ [ev] }
  else if isFwEvent ev then setRing s e { r with heldFw := some (ev, 0) }
  else setRing s e { r with lost := min 255 (r.lost + 1) }

/-- EVPEND of a queue falls when none of its events is held any more (R106). -/
def eventWritten (s : State) (e : Nat) (ev : Event) : State :=
  if ev.src < 64 ∧ !(ringAt s e).overflow.any (fun x => x.src == ev.src) then
    modQueue s ev.src (fun x => { x with evPend := false })
  else s

/-- The oldest event raised for a ring is written, or held if the ring has held events or cannot take it, once the cycle that
raised it is over (R104). -/
def execEventRecordWrite (e : Nat) (s : State) : Out :=
  let r := ringAt s e
  match r.waiting with
  | [] => .next s
  | ev :: t =>
    if ev.cycle = s.cycle ∧ ev.time = s.dtime then .next s
    else
    let s := setRing s e { r with waiting := t }
    if r.overflow ≠ [] ∨ r.heldFw ≠ none then .next (holdEvent s e ev)
    else
      match writeRecord s e ev with
      | (true, s) => .next s
      | (false, s) => .next (holdEvent s e ev)

/-- The event to write next: the held FW_REMEASURE comes before any other device event but an older FW_REMEASURE
(R130); else the oldest. The rest of the overflow comes back. -/
def nextHeld (r : Ring) : Option (Event × Ring) :=
  match r.heldFw, r.overflow with
  | none, [] => none
  | none, ev :: t => some (ev, { r with overflow := t })
  | some (h, _), [] => some (h, { r with heldFw := none })
  | some (h, _), ev :: t =>
    if ev.src < 64 then some (ev, { r with overflow := t })
    else
      match (ev :: t).find? isFwEvent with
      | some f => some (f, { r with overflow := (ev :: t).erase f })
      | none => some (h, { r with heldFw := none })

/-- Held events are written while there is room, at most `n` of them. -/
def retryRing (e : Nat) : Nat → State → State
  | 0, s => s
  | n + 1, s =>
    match nextHeld (ringAt s e) with
    | none => s
    | some (ev, r) =>
      match writeRecord s e ev with
      | (false, s) => s
      | (true, t) =>
        let w := (ringAt t e).wr
        retryRing e n (eventWritten (setRing t e { r with wr := w }) e ev)

def execEventRingRetry (e : Nat) (s : State) : Out :=
  .next (retryRing e ((ringAt s e).overflow.length + 1) s)

/-- Event `a` was raised before event `b`, or stands before it in the order of R104. -/
def raisedBefore (a b : Event) : Bool :=
  if sameCycle a b then decide (a.src ≤ b.src) else decide (a.time < b.time) || (a.time == b.time && decide (a.cycle < b.cycle))

/-- An event takes its place among held ones by the moment at which it was raised. -/
def placeHeld (ev : Event) (l : List Event) : List Event := l.takeWhile (raisedBefore · ev) ++ ev :: l.dropWhile (raisedBefore · ev)

/-- Device events that were held for want of a ring join a ring in the order in which all its events were raised (R104): among
those that it holds, or among those that wait to be written. -/
def takeHeld (r : Ring) : List Event → Ring
  | [] => r
  | ev :: t =>
    takeHeld (if r.overflow ≠ [] ∧ !r.waiting.any (raisedBefore · ev) then { r with overflow := placeHeld ev r.overflow }
      else { r with waiting := placeHeld ev r.waiting }) t

/-- A write of EVRCFG (R103); the first partition-0 ring to be enabled receives the held device events (R102). -/
def evrcfgWrite (s : State) (e : Nat) (v : Word) : State :=
  let r := ringAt s e
  let b := v.toNat
  let r1 := { r with en := b.testBit 0, sizeLog2 := max 2 (min 16 (bitsOf b 5 1)), part := bitsOf b 9 6,
                     irq := b.testBit 10, vec := bitsOf b 16 11, lost := Nat.land r.lost (255 - bitsOf b 31 24) }
  if !r.en ∧ r1.en ∧ r1.part = 0 then setRing { s with devOverflow := [] } e (takeHeld r1 s.devOverflow)
  else setRing s e r1

def execEventRingEnable (l : Level) (e : Nat) (v : Word) (s : State) : Out :=
  if l = .t ∨ 32 ≤ e then .next s else .next (evrcfgWrite (journalSys s l (0x201008 + 32 * e) v) e v)

end Sys2Proof.Machine
end

