-- ==== Sys2Proof/Machine/SysOps.lean ====
section
/-! DEFINITION. The SYS registers (R270, R271): reads and writes by offset under the access codes of R3, and the messages
REGRD and REGWR (R52). `h` says that the access is made at level H. -/
namespace Sys2Proof.Machine

/-- A W1C field after a write. -/
def w1c (old wr : Nat) : Nat := old - Nat.land old wr

/-- A value whose low word, or high word of `n` bits, is replaced. -/
def putLo (old v : Nat) : Nat := old / 2 ^ 32 * 2 ^ 32 + v % 2 ^ 32
def putHi (old v n : Nat) : Nat := old % 2 ^ 32 + 2 ^ 32 * (v % 2 ^ n)
def half (x i : Nat) : Nat := x / 2 ^ (32 * i) % 2 ^ 32

/-- Index of a word register in a block of `n` words at `base`. -/
def inBlock (off base n : Nat) : Option Nat :=
  if base ≤ off ∧ off < base + 4 * n ∧ off % 4 = 0 then some ((off - base) / 4) else none

/-- What is stored when a field of a record may only be changed by level H. -/
def whenH (h : Bool) (x : Nat) : Nat := if h then x else 0

/-! ## Every die -/

def dieInfo (s : State) (d : Nat) : Nat :=
  let x := dieAt s d
  d + 16 * (if d = 8 then 15 else posOf d) + 256 * flagNat (!x.absent) + 512 * flagNat x.inReset + 2 ^ 16 * (x.stepping % 256)

/-- The strait end that STRAITSTAT n of a die shows (R35). -/
def dieEnd (d n : Nat) : Option Nat :=
  if d < 4 then (match n with | 0 => some (endNo (2 * d) true) | 1 => some (endNo (2 * d + 1) false) | _ => none)
  else if d < 8 then
    (match n with
     | 0 => some (endNo ((2 * (d - 4) + 7) % 8) true)
     | 1 => some (endNo (2 * (d - 4)) false)
     | 2 => some (endNo (8 + (d - 4)) true)
     | _ => none)
  else if d = 8 ∧ n < 4 then some (endNo (8 + n) false) else none

/-- Circuits bound at the ends of a strait: the legs that cross it. -/
def circuitsOn (s : State) (n : Nat) : Nat := (s.straits.legs.filter (fun l => l.2.path.any (fun h => h / 2 == n))).length

/-- The straits are in training (R112 step 4). -/
def trainingNow (s : State) : Bool := match s.pkg.boot with | .training _ => true | _ => false

def straitStat (s : State) (e : Nat) : Nat :=
  let x := endAt s e
  x.railOk + 32 * (if trainingNow s then 3 else endState x) + 256 * (min 512 (circuitsOn s (endStrait e))) + 2 ^ 24 * x.badHdr

/-! ## Queues, rings, clocks -/

def qstateCode : QState → Nat
  | .disabled => 0 | .idle => 1 | .run => 2 | .wait => 3 | .fault => 4

def queueRead (s : State) (q r : Nat) : Nat :=
  let x := queueAt s q
  match r with
  | 0 => half x.base 0
  | 1 => half x.base 1
  | 2 => flagNat x.en + 2 * x.level + 4 * x.part + 64 * x.evr + 2 ^ 11 * x.sizeLog2 + 2 ^ 16 * x.plen
  | 3 => x.pi.toNat
  | 4 => x.ci.toNat
  | 5 => qstateCode x.st + 8 * flagNat x.evPend + 16 * (leaveBufs x.stack).length + 128 * flagNat x.cfgErr + 256 * (x.lastErr % 256)
      + 2 ^ 16 * x.stale
  | 6 => x.op
  | 7 => x.index + 2 ^ 10 * flagNat x.vok + 2 ^ 11 * x.verr
  | 8 => (Config.freeWord s.freeCount).toNat
  | 9 => x.mark.toNat
  | _ => 0

def queueWrite (s : State) (q r v : Nat) : State :=
  match r with
  | 0 => modQueue s q (fun x => { x with base := putLo x.base (v / 64 * 64) })
  | 1 => modQueue s q (fun x => { x with base := putHi x.base v 21 })
  | 2 => qcfgWrite s q (BitVec.ofNat 32 v)
  | 5 => modQueue s q (fun x => { x with cfgErr := x.cfgErr && !v.testBit 7, stale := w1c x.stale (bitsOf v 23 16) })
  | 6 => qctlWrite s q (BitVec.ofNat 32 v)
  | 7 => modQueue s q (fun x => qpctlWrite x (BitVec.ofNat 32 v))
  | 8 => modQueue s q (fun x => qpwinWrite x (BitVec.ofNat 32 v))
  | _ => s

def ringRead (s : State) (e r : Nat) : Nat :=
  let x := ringAt s e
  match r with
  | 0 => half x.base 0
  | 1 => half x.base 1
  | 2 => flagNat x.en + 2 * x.sizeLog2 + 64 * x.part + 2 ^ 10 * flagNat x.irq + 2 ^ 11 * x.vec + 2 ^ 24 * x.lost
  | 3 => x.wr.toNat
  | _ => 0

def ringWrite (s : State) (e r v : Nat) : State :=
  match r with
  | 0 => modRing s e (fun x => { x with base := putLo x.base (v / 64 * 64) })
  | 1 => modRing s e (fun x => { x with base := putHi x.base v 21 })
  | 2 => evrcfgWrite s e (BitVec.ofNat 32 v)
  | _ => s

def clockRead (s : State) (c r : Nat) : Nat :=
  let k := clockAt s c
  if r = 0 then half k.epoch 0
  else if r = 1 then half k.epoch 1
  else if r = 2 then k.len
  else if r = 3 then flagNat k.en + 2 * flagNat k.xcp + 4 * flagNat k.err
  else if r ≤ 16 then k.sym.get 0 (r - 3)
  else if r = 17 then scCur s c
  else if r = 18 then scCurSym s c
  else 0

/-- A write to a clock's block: while it runs, only EN changes (R143). -/
def clockPut (k : SlotClock) (r v : Nat) : SlotClock :=
  if r = 3 then sccfgWrite k v
  else if k.en then k
  else if r = 0 then { k with epoch := putLo k.epoch v }
  else if r = 1 then { k with epoch := putHi k.epoch v 32 }
  else if r = 2 then { k with len := v }
  else if 4 ≤ r ∧ r ≤ 16 then { k with sym := k.sym.set 0 (r - 3) v }
  else k

def clockWrite (s : State) (c r v : Nat) : State :=
  { s with sched := { s.sched with clocks := s.sched.clocks.set {} c (clockPut (clockAt s c) r v) } }

/-! ## Partitions, islands, threads -/

def ptcfgRead (s : State) (h : Bool) (p : Nat) : Nat :=
  let x := ptcfgAt s p
  whenH h (flagNat x.en) + 2 * x.sc + 8 * x.maxthr

def ptcfgWrite (s : State) (h : Bool) (p v : Nat) : State :=
  let x : PtCfg := { en := if h then v.testBit 0 else (ptcfgAt s p).en, sc := bitsOf v 2 1, maxthr := min 4096 (bitsOf v 15 3) }
  { s with sched := { s.sched with ptcfg := s.sched.ptcfg.set {} p x } }

/-- Eight fields of 4 bits, one for each of islands 8m to 8m + 7 (R141). -/
def packIslands (t : Tab Nat) (m : Nat) : Nat := ((List.range 8).map (fun j => t.get 0 (8 * m + j) % 16 * 16 ^ j)).sum

def putOwners (s : State) (m v : Nat) : Nat → State
  | 0 => s
  | n + 1 =>
    let s := putOwners s m v n
    { s with sched := { s.sched with owner := s.sched.owner.set 0 (8 * m + n) (v / 16 ^ n % 16) } }

def thStCode : ThSt → Nat
  | .free => 0 | .pending => 1 | .loading => 2 | .held => 3 | .running => 4 | .preempted => 5 | .parked => 6 | .saved => 7
  | .stopped => 8

/-- Register r of a thread descriptor (R136, R137). -/
def threadRead (s : State) (t r : Nat) : Nat :=
  let th := threadAt s t
  let dl := if 2 ≤ th.cls then 2 ^ 64 - 1 else th.dl
  match r with
  | 0 => thStCode th.st + 16 * th.cls + 2 ^ 7 * th.part + 2 ^ 11 * th.queue + 2 ^ 17 * flagNat th.missed
  | 1 => th.h + 16 * th.w + 2 ^ 10 * th.orow + 2 ^ 13 * th.ocol + 2 ^ 18 * th.nslot
  | 2 => half th.entry 0
  | 3 => half th.entry 1
  | 4 => th.ex
  | 5 => th.ey
  | 6 => th.ez
  | 7 => th.x
  | 8 => th.y
  | 9 => th.z
  | 10 => half dl 0
  | 11 => half dl 1
  | 12 => half th.seq 0
  | 13 => half th.seq 1
  | 14 => half th.arg 0
  | 15 => half th.arg 1
  | 16 => half th.ctr 0
  | 17 => half th.ctr 1
  | 18 => th.inc
  | 19 => th.frameId
  | _ => 0

def slotStCode : SlotSt → Nat
  | .free => 0 | .loading => 1 | .armed => 2 | .poisoned => 3 | .active => 4 | .halted => 5

/-- ISLCTX of an island (R179). -/
def islCtx (s : State) (isl : Nat) : Nat :=
  (match activeSlot s isl with | some σ => σ + 8 | none => 0)
    + ((List.range 8).map (fun σ => slotStCode (ctxAt s isl σ).st * 2 ^ (8 + 3 * σ))).sum

/-! ## Faults, translation, holm calls -/

def faultRead (s : State) (r : Nat) : Nat :=
  if r = 0 then s.faults.queue.length % 2048 + 2 ^ 11 * flagNat s.faults.badResp
  else if r = 5 then flagNat s.faults.respAct
  else if r = 6 then s.faults.respSeq.toNat
  else if 32 ≤ r ∧ r < 64 then
    (match s.faults.queue with
     | f :: _ => leNat (((recordBytes f).drop (4 * (r - 32))).take 4)
     | [] => 0)
  else 0

def faultWrite (s : State) (r v : Nat) : State :=
  if r = 0 then { s with faults := { s.faults with badResp := s.faults.badResp && !v.testBit 11 } }
  else if r = 4 then fltpopWrite s v
  else if r = 5 then fltrespWrite s v
  else if r = 6 then { s with faults := { s.faults with respSeq := BitVec.ofNat 32 v } }
  else s

/-- PTROOT and SVBASE of a space (R249, R265). -/
def rootRead (s : State) (h : Bool) (sp r : Nat) : Nat :=
  match r with
  | 0 => whenH h (half (ptRoot s sp) 0)
  | 1 => whenH h (half (ptRoot s sp) 1)
  | 2 => if sp < 16 then svLo s sp else 0
  | _ => if sp < 16 then svHi s sp else 0

def setRoot (s : State) (sp v : Nat) : State := { s with xl := { s.xl with ptroot := s.xl.ptroot.set 0 sp v } }

def rootWrite (s : State) (h : Bool) (sp r v : Nat) : State :=
  match r with
  | 0 => if h then setRoot s sp (putLo (ptRoot s sp) (v / 8192 * 8192 + v % 2)) else s
  | 1 => if h then setRoot s sp (putHi (ptRoot s sp) v 16) else s
  | 2 =>
    if 16 ≤ sp then s
    else { s with xl := { s.xl with svbase := s.xl.svbase.set 32 (2 * sp) (v / 8192 * 8192 + v % 128) } }
  | _ =>
    if 16 ≤ sp then s
    else { s with xl := { s.xl with svbase := s.xl.svbase.set 0 (2 * sp + 1) (v % 2 ^ 21) } }

/-- HCQSTAT, HCQREC0 to HCQREC16 and HCQPOP (R434). -/
def callRead (s : State) (r : Nat) : Nat :=
  if r = 0 then s.fw.calls.length % 128
  else match s.fw.calls with
    | [] => 0
    | c :: _ =>
      if r = 1 then c.ticket + 2 ^ 10 * (c.call % 256) + 2 ^ 18 * c.space
      else if r < 18 then (c.args.getD (r - 2) 0).toNat
      else 0

/-! ## Fronthaul -/

def portRead (s : State) (lp r : Nat) : Nat :=
  let p := lport s lp
  match r with
  | 0 => p.drop + 2 ^ 16 * p.noMatch
  | 1 => p.overrun
  | 2 => p.src0.toNat
  | 3 => p.src1.toNat
  | 4 => p.dst0.toNat
  | 5 => p.dst1.toNat
  | 6 => p.cfg.toNat
  | _ => p.delay % 2 ^ 28 + 2 ^ 31 * flagNat p.newRes

def portWrite (s : State) (lp r v : Nat) : State :=
  match r with
  | 0 => modPort s lp (fun p => { p with drop := w1c p.drop (v % 2 ^ 16), noMatch := w1c p.noMatch (v / 2 ^ 16) })
  | 1 => modPort s lp (fun p => { p with overrun := w1c p.overrun (v % 2 ^ 16) })
  | 2 => modPort s lp (fun p => { p with src0 := BitVec.ofNat 32 v })
  | 3 => modPort s lp (fun p => { p with src1 := BitVec.ofNat 32 v })
  | 4 => modPort s lp (fun p => { p with dst0 := BitVec.ofNat 32 v })
  | 5 => modPort s lp (fun p => { p with dst1 := BitVec.ofNat 32 (v % 2 ^ 16) })
  | 6 => fhlpcfgWrite s lp (BitVec.ofNat 32 v)
  | _ => modPort s lp (fun p => { p with newRes := p.newRes && !v.testBit 31 })

def fhRead (s : State) (r : Nat) : Nat :=
  if r < 8 then (s.fh.stw.get 0 r).toNat
  else if r = 8 then s.fh.index + 2 ^ 12 * s.fh.op + 2 ^ 14 * flagNat s.fh.err + 2 ^ 15 * (s.fh.hits % 2 ^ 16)
  else if r = 9 then s.fh.stpos % 2 ^ 18
  else if r = 16 then s.fh.dlyreq.toNat
  else 0

def fhWrite (s : State) (r v : Nat) : State :=
  if r < 8 then { s with fh := { s.fh with stw := s.fh.stw.set 0 r (BitVec.ofNat 32 v) } }
  else if r = 8 then fhstcmd s (BitVec.ofNat 32 v)
  else if r = 16 then dlyreqWrite s (BitVec.ofNat 32 v)
  else s

/-! ## The die registers at low offsets of the IOD -/

def iodLow (s : State) (h : Bool) (off : Nat) : Nat :=
  match off with
  | 0x10 => s.pkg.capw
  | 0x18 => whenH h (s.pkg.rstDie + 16 * ((List.range 4).map (fun k => 2 ^ k * flagNat (s.pkg.rstQueue.contains k))).sum)
  | 0x20 => s.fw.op + 8 * flagNat s.fw.align
  | 0x24 => fwstat s
  | 0x28 => s.fw.hb.toNat
  | 0x2C => s.fw.fwseq
  | 0x40 => s.link.sessions.length + 16 * flagNat s.link.up0 + 32 * flagNat s.link.up1 + 64 * s.link.notePort
      + 2 ^ 8 * s.link.replay + 2 ^ 20 * s.link.badTag
  | 0x44 => flagNat s.pcie.up + 2 * s.pcie.rate + 16 * s.pcie.width + 2 ^ 16 * s.pcie.badDb + 2 ^ 24 * flagNat s.pcie.pfFlr
  | 0x48 => s.straits.stqrel.toNat
  | 0x4C => s.straits.stqres.toNat
  | 0x50 => s.straits.stqpos.toNat
  | _ => 0

/-- A write of PKGRST with GO begins a package reset, which the boot of PACKAGE_RESET follows (R24). -/
def iodLowWrite (s : State) (w : Writer) (h : Bool) (off v : Nat) : State :=
  match off with
  | 0x10 => pwrcapWrite s (BitVec.ofNat 32 v)
  | 0x14 => if h ∧ v.testBit 0 then wiped s else s
  | 0x18 => if h then dierstWrite s v else s
  | 0x20 => fwctl s w (BitVec.ofNat 32 v)
  | 0x28 => fwhbWrite s w (BitVec.ofNat 32 v)
  | 0x40 => { s with link := { s.link with replay := w1c s.link.replay (bitsOf v 19 8), badTag := w1c s.link.badTag (v / 2 ^ 20) } }
  | 0x44 => { s with pcie := { s.pcie with badDb := w1c s.pcie.badDb (bitsOf v 23 16) } }
  | 0x48 => stqrelWrite s (BitVec.ofNat 32 v)
  | _ => s

/-! ## The map (R271) -/

/-- A register block of the IOD: offset, registers of one unit, units. -/
inductive IodBlock where
  | queue | ring | clock | ptcfg | owner | lent | fault | root | inv | sbwin | call | fh | port | thread
  deriving DecidableEq, Repr

def iodBlocks : List (IodBlock × Nat × Nat × Nat) :=
  [(.queue, 0x200000, 16, 64), (.ring, 0x201000, 8, 32), (.clock, 0x203000, 32, 4), (.ptcfg, 0x204000, 1, 16),
   (.owner, 0x205000, 1, 32), (.lent, 0x205080, 1, 32), (.fault, 0x206000, 64, 1), (.root, 0x207000, 4, 17),
   (.inv, 0x207200, 3, 1), (.sbwin, 0x208000, 1, 256), (.call, 0x209000, 19, 1), (.fh, 0x20A000, 17, 1),
   (.port, 0x20A100, 8, 16), (.thread, 0x220000, 32, 4096)]

/-- The block, the unit and the register in it that an IOD offset names. -/
def iodFind (off : Nat) : Option (IodBlock × Nat × Nat) :=
  match iodBlocks.find? (fun b => (inBlock off b.2.1 (b.2.2.1 * b.2.2.2)).isSome) with
  | some (b, base, n, _) => some (b, (off - base) / 4 / n, (off - base) / 4 % n)
  | none => none

/-- Registers all of whose fields are H-only (R3, R52). -/
def hOnlyAt (addr : Nat) : Bool :=
  let off := addr % 2 ^ 25
  if addr / 2 ^ 25 ≠ 8 then false
  else if off = 0x14 ∨ off = 0x18 then true
  else match iodFind off with
    | some (.owner, _, _) | some (.inv, _, _) | some (.sbwin, _, _) | some (.call, _, _) => true
    | some (.root, _, r) => decide (r < 2)
    | _ => false

def iodRead (s : State) (h : Bool) (off : Nat) : Nat :=
  match iodFind off with
  | none => iodLow s h off
  | some (.queue, q, r) => queueRead s q r
  | some (.ring, e, r) => ringRead s e r
  | some (.clock, c, r) => clockRead s c r
  | some (.ptcfg, p, _) => ptcfgRead s h p
  | some (.owner, m, _) => whenH h (packIslands s.sched.owner m)
  | some (.lent, m, _) => packIslands s.sched.lent m
  | some (.fault, _, r) => faultRead s r
  | some (.root, sp, r) => rootRead s h sp r
  | some (.inv, _, 0) => whenH h s.xl.inv.toNat
  | some (.inv, _, r) => whenH h (half s.xl.invVa (r - 1))
  | some (.sbwin, i, _) => whenH h (s.xl.sbwin.get 0 i).toNat
  | some (.call, _, r) => whenH h (callRead s r)
  | some (.fh, _, r) => fhRead s r
  | some (.port, lp, r) => portRead s lp r
  | some (.thread, t, r) => threadRead s t r

def iodWrite (s : State) (w : Writer) (h : Bool) (off v : Nat) : State :=
  match iodFind off with
  | none => iodLowWrite s w h off v
  | some (.queue, q, r) => queueWrite s q r v
  | some (.ring, e, r) => ringWrite s e r v
  | some (.clock, c, r) => clockWrite s c r v
  | some (.ptcfg, p, _) => ptcfgWrite s h p v
  | some (.owner, m, _) => if h then putOwners s m v 8 else s
  | some (.lent, _, _) => s
  | some (.fault, _, r) => faultWrite s r v
  | some (.root, sp, r) => rootWrite s h sp r v
  | some (.inv, _, 0) => if h then tlbInvGo s (BitVec.ofNat 32 v) else s
  | some (.inv, _, 1) => if h then { s with xl := { s.xl with invVa := putLo s.xl.invVa (v / 8192 * 8192) } } else s
  | some (.inv, _, _) => if h then { s with xl := { s.xl with invVa := putHi s.xl.invVa v 21 } } else s
  | some (.sbwin, i, _) => if h then { s with xl := { s.xl with sbwin := s.xl.sbwin.set 0 i (BitVec.ofNat 32 (v % 2 ^ 20)) } } else s
  | some (.call, _, r) => if h ∧ r = 18 then hcqpopWrite s v else s
  | some (.fh, _, r) => fhWrite s r v
  | some (.port, lp, r) => portWrite s lp r v
  | some (.thread, _, _) => s

/-! ## RELCFG and CELLREL (R286, R287) -/

/-- Every slot of every island of a fabric die is FREE. -/
def dieFree (s : State) (d : Nat) : Bool := s.ctxs.all (fun e => decide (e.1 / 512 ≠ d) || e.2.st == .free)

def relcfgRead (s : State) (d : Nat) : Nat :=
  let x := s.rel.cfg.get {} d
  flagNat x.shen + 2 * x.intLog2 + 64 * flagNat x.debug + 128 * flagNat x.dbgErr

def relcfgPut (s : State) (d v : Nat) : State :=
  let x := s.rel.cfg.get {} d
  let n := { x with shen := v.testBit 0, intLog2 := max 16 (min 24 (bitsOf v 5 1)) }
  let n := if v.testBit 6 = x.debug then n else if dieFree s d then { n with debug := v.testBit 6, dbgErr := false } else { n with dbgErr := true }
  { s with rel := { s.rel with cfg := s.rel.cfg.set {} d n } }

def execRelcfgWrite (l : Level) (die : Nat) (v : Word) (s : State) : Out :=
  if l = .t ∨ 4 ≤ die then .next s
  else .next (relcfgPut (if l = .s then journalOne s (.sysWrite (die * 2 ^ 25 + 0x310000) v) else s) die v.toNat)

def cellRelAt (s : State) (d y x : Nat) : CellRel := s.rel.cells.get {} (1056 * d + 33 * y + x)
def setCellRel (s : State) (d y x : Nat) (c : CellRel) : State :=
  { s with rel := { s.rel with cells := s.rel.cells.set {} (1056 * d + 33 * y + x) c } }

/-- CELLREL number i of a die; a skerry cell that would shadow is idle while SHEN = 0. -/
def cellRelRead (s : State) (d i : Nat) : Nat :=
  let c := s.rel.cells.get {} (1056 * d + i)
  let st := if i % 33 = 32 ∧ c.state = 0 ∧ !(s.rel.cfg.get {} d).shen then 3 else c.state
  c.cecnt + 2 ^ 8 * c.susp + 2 ^ 10 * st + 2 ^ 12 * (if i % 33 = 32 then c.mapx else 0) + 2 ^ 18 * c.replays

def cellRelWrite (s : State) (d i v : Nat) : State :=
  let c := s.rel.cells.get {} (1056 * d + i)
  let c := { c with cecnt := w1c c.cecnt (v % 256), replays := w1c c.replays (bitsOf v 25 18) }
  { s with rel := { s.rel with cells := s.rel.cells.set {} (1056 * d + i) c } }

def fabricRead (s : State) (d off : Nat) : Nat :=
  match inBlock off 0x300000 64, inBlock off 0x311000 1056 with
  | some j, _ => islCtx s (64 * d + j)
  | _, some i => cellRelRead s d i
  | _, _ => if off = 0x310000 then relcfgRead s d else 0

def fabricWrite (s : State) (d off v : Nat) : State :=
  match inBlock off 0x311000 1056 with
  | some i => cellRelWrite s d i v
  | none => if off = 0x310000 then relcfgPut s d v else s

/-! ## Reads and writes -/

/-- A read of the SYS space. An offset that names no register reads 0 (R204); what QPWIN reads is a free value. -/
def sysRead (s : State) (h : Bool) (addr : Nat) : Word :=
  let d := addr / 2 ^ 25
  let off := addr % 2 ^ 25
  BitVec.ofNat 32 (
    if 8 < d then 0
    else if off = 0 then dieInfo s d
    else match (inBlock off 0x100 4).bind (dieEnd d) with
      | some e => straitStat s e
      | none => if d = 8 then iodRead s h off else if d < 4 then fabricRead s d off else 0)

/-- A write of the SYS space at level S or H, on behalf of writer `w`. -/
def sysWrite (s : State) (w : Writer) (h : Bool) (addr : Nat) (v : Word) : State :=
  let d := addr / 2 ^ 25
  let off := addr % 2 ^ 25
  match (inBlock off 0x100 4).bind (dieEnd d) with
  | some e => modEnd s e (fun x => { x with badHdr := w1c x.badHdr (v.toNat / 2 ^ 24) })
  | none => if d = 8 then iodWrite s w h off v.toNat else if d < 4 then fabricWrite s d off v.toNat else s

def execSysRegisterWrite (l : Level) (addr : Nat) (v : Word) (s : State) : Out :=
  match l with
  | .t => .next s
  | .s =>
    let s := if activeWriter s = .new then journalOne s (.sysWrite addr v) else s
    .next (sysWrite s (activeWriter s) false addr v)
  | .h => .next (sysWrite s .holm true addr v)

/-! ## REGRD and REGWR (R52) -/

/-- The front end's request reaches the die of a register, and its answer comes back (R9, R34). -/
def regReach (s : State) (a : Nat) : Bool := decide (8 < a / 2 ^ 25) || pathOpen s 8 (posOf (a / 2 ^ 25))

/-- Die and address of a request: one byte, then four; the address counts from the die's base. -/
def regAddr (b : List Byte) : Nat := 2 ^ 25 * leNat (takeBytes b 0 1) + leNat (takeBytes b 1 4) % 2 ^ 25

def execRegrd (s : State) : Out :=
  match takeMsg s 0x11 with
  | none => .next s
  | some (m, t) =>
    let b := msgPayload m
    let a := regAddr b
    if b.length = 5 ∧ !hOnlyAt a ∧ !regReach s a then .next s
    else
    let s := journalOne t (.message 0x11 m.sess m.msgid)
    if b.length ≠ 5 then .next (sendNak s m 1)
    else if hOnlyAt a then .next (sendNak s m 2)
    else .next (sendKcp { s with freeCount := s.freeCount + 1 } m.port 0x13 m.sess m.msgid (leBytes 4 (sysRead s false a).toNat))

def execRegwr (s : State) : Out :=
  match takeMsg s 0x12 with
  | none => .next s
  | some (m, t) =>
    let b := msgPayload m
    let a := regAddr b
    if b.length = 9 ∧ !hOnlyAt a ∧ !regReach s a then .next s
    else
    let s := journalOne t (.message 0x12 m.sess m.msgid)
    if b.length ≠ 9 then .next (sendNak s m 1)
    else if hOnlyAt a then .next (sendNak s m 2)
    else
      let s := sysWrite s (activeWriter s) false a (BitVec.ofNat 32 (leNat (takeBytes b 5 4)))
      .next (sendKcp { s with freeCount := s.freeCount + 1 } m.port 0x13 m.sess m.msgid (leBytes 4 (sysRead s false a).toNat))

end Sys2Proof.Machine
end

