-- ==== Sys2Proof/Machine/MemUnits.lean ====
section
/-! DEFINITION. Accesses on their way and at their homes (R225 to R237): ACCESS_COMPLETE and the wakes. An access that a
firing issued passes its island's egress queue, its die's egress queue, and is performed at its home, one move each; an
access to CELL or SYS is performed in one move. Results leave a slot in the order of its firings (R488). -/
namespace Sys2Proof.Machine

/-! ## Locations and order -/

/-- The die whose egress queue an island's accesses pass: a service island and the holm island count as dies of their own
(R227). -/
def queueDie (isl : Nat) : Nat := if isl < 256 then isl / 64 else isl

/-- An earlier access of the port to the location has not passed the island's queue. -/
def portUnsent (s : State) (a : Acc) : Bool :=
  s.accs.any (fun b => decide (b.id < a.id) && samePort a b && sameLoc a b && (b.phase == .check || b.phase == .issued || b.phase == .held))

/-- The accesses that passed the last queue before this one did. -/
def aheadOf (s : State) (a : Acc) : List Acc := s.accs.takeWhile (fun b => b.id != a.id)

/-- An access to the location that passed the island's queue before waits for the die's queue. -/
def dieBehind (s : State) (a : Acc) : Bool :=
  (aheadOf s a).any (fun b => b.site.isl == a.site.isl && sameLoc a b && b.phase == .island)

/-- An access to the location that passed the die's queue before is on its way to the home. -/
def homeBehind (s : State) (a : Acc) : Bool :=
  (aheadOf s a).any (fun b => queueDie b.site.isl == queueDie a.site.isl && sameLoc a b && b.phase == .die)

/-- An LDSF of the die that passed the die's queue before waits at the home for the same word (R202, R227). -/
def fullBehind (s : State) (a : Acc) : Bool :=
  a.kind == .loadFull && a.space != .cell && (aheadOf s a).any (fun b =>
    queueDie b.site.isl == queueDie a.site.isl && sameLoc a b && b.kind == .loadFull && b.phase == .waiting)

/-- Replace an access in place, or behind the others. -/
def putAcc (s : State) (a : Acc) : State := { s with accs := s.accs.map (fun b => if b.id = a.id then a else b) }
def lastAcc (s : State) (a : Acc) : State := { s with accs := s.accs.filter (fun b => b.id != a.id) ++ [a] }
def dropAcc (s : State) (id : Nat) : State := { s with accs := s.accs.filter (fun b => b.id != id) }

/-! ## Results -/

/-- The results of an operation may leave: it is performed, or it is a store that is performed at island scope (R231). -/
def mayLeave (a : Acc) : Bool :=
  a.chk.isNone && (a.phase == .performed ||
    ((a.kind == .store || a.kind == .clear) && a.space != .cell && a.space != .sys && (a.phase == .island || a.phase == .die)))

/-- The first operation of a slot whose results have not left. -/
def firstDue (s : State) (x : Site) : Option Acc :=
  (s.accs.filter (fun a => a.site == x && !a.done1)).foldl
    (fun m a => match m with | some b => if a.id < b.id then some a else m | none => some a) none

/-- Results of a slot leave in the order of its firings (R488). -/
def flushSite (x : Site) : Nat → State → State
  | 0, s => s
  | n + 1, s =>
    match firstDue s x with
    | none => s
    | some a =>
      if mayLeave a then
        let deps := liveDeps s x.isl (mergeDeps a.deps [a.id])
        let s := if a.phase = .performed then dropAcc s a.id else putAcc s { a with done1 := true }
        flushSite x n (deliverAt s x a.t0 a.t1 deps (resultOuts s a))
      else s

def flushOf (s : State) (a : Acc) : State := flushSite a.site (s.accs.length + 1) s

/-- The words that a load returned stand in its firing's record of the input-latch history (R278). -/
def noteLoad (s : State) (a : Acc) (res : List Word) : State :=
  let l := (ctxAt s a.site.isl a.site.slot).hist.get [] a.site.cell
  if l.any (fun r => r.k == a.site.k && r.firing == a.firing) then
    let l := l.map (fun r => if r.k = a.site.k ∧ r.firing = a.firing then { r with loads := res } else r)
    modCtx s a.site.isl a.site.slot (fun c => { c with hist := c.hist.set [] a.site.cell l })
  else s

/-- The operation is performed with results `res`; its results leave when those before them have. -/
def performAcc (s : State) (a : Acc) (res : List Word) : State :=
  flushOf (let s := noteLoad s a res
    if a.done1 then dropAcc s a.id else putAcc s { a with phase := .performed, res := res }) a

/-- The operation's thread is stopping (R264). -/
def accStopping (s : State) (a : Acc) : Bool :=
  match (ctxAt s a.site.isl a.site.slot).thread with
  | some t => (threadAt s t).stop.isSome
  | none => false

/-- The operation waits at its home; that of a thread that stops is dropped. -/
def waitAcc (s : State) (a : Acc) : State := if accStopping s a then dropAcc s a.id else putAcc s { a with phase := .waiting }

/-- A terminal fault of an operation (R256). -/
def failAcc (s : State) (a : Acc) (code addr d1 : Nat) : State := dropAcc (raiseAt s a.site a.firing code addr d1 0) a.id

/-! ## Performing at the home -/

/-- How a try to perform ends: results, a fault, a wait at the home, or nothing yet. -/
inductive AccEnd where
  | done (res : List Word)
  | part (res : List Word)
  | fault (code addr d1 : Nat)
  | wait
  | later
  deriving DecidableEq, Repr

/-- The effect on the memory word or words at the access's key (R202, R217, R414, R419). -/
def touch (s : State) (a : Acc) : AccEnd × State :=
  let bank := a.space == .cell
  match a.kind with
  | .load => (.done (rdWords s a.addr a.n), s)
  | .loadFull =>
    if !allFull s a.addr a.n then (.wait, s)
    else (.done (rdWords s a.addr a.n), if a.cons then setFulls s a.addr false a.n else s)
  | .store => let s := wrWords s a.addr a.val; (.done [], if bank then clearPoison s a.addr a.n else s)
  | .storeFull => (.done [], setFulls (clearPoison (wrWords s a.addr a.val) a.addr a.n) a.addr true a.n)
  | .clear => (.done [], setFulls s a.addr false a.n)
  | .ctrAdd => (.done [], ctrAdd s a.addr (wordsNat a.val) false)
  | .ctrRead => (.done (rdWords s a.addr 2), s)
  | .waitGe =>
    let c := rdDword s a.addr
    if c.testBit 63 then (.done [1], s)
    else if wordsNat a.val ≤ c % 2 ^ 63 then (.done [0], s)
    else (.wait, s)
  | _ => (.later, s)

/-- An upset that shows at this read: 1 correctable, 2 uncorrectable. -/
def upsetNow (s : State) (k : Nat) : Ecc → State
  | .ok => s
  | .corrected => if softAt s k = 0 then setSoft s k 1 else s
  | .uncorrectable => if softAt s k < 2 then setSoft s k 2 else s

/-- A bank access: a read of a poisoned word stops its thread (R285); one that finds an uncorrectable word makes its firing
fail (R272), and stays to be read again (R279). -/
def tryCell (s : State) (a : Acc) (ecc : Ecc) : AccEnd × State :=
  if accReads a then
    match readCheck (upsetNow s a.addr ecc) a.addr a.n with
    | (.poisoned j, s) => (.fault 0x9033 (a.va + j) 1, s)
    | (.bad, s) => (.later, failFiring s a.site a.firing (unitsOf a.addr a.n))
    | (.good, s) => touch s a
  else
    let (e, s) := touch s a
    (e, if a.kind = .clear then s else writtenBank s a.addr a.n)

def tryHbm (s : State) (a : Acc) (ecc : Ecc) : AccEnd × State :=
  if !accReads a then
    let (e, s) := touch s a
    (e, if a.n = 16 then wholeLine (writtenBank s a.addr 16) a.addr else s)
  else match readCheck (upsetNow s (a.addr / 64 * 64) ecc) a.addr a.n with
    | (.good, s) => touch s a
    | (_, s) => (.fault 0x9006 a.va 0, s)

/-- The thread of an access of a fabric island. -/
def accThread (a : Acc) : Option Nat := if a.site.isl < 256 then some a.thread else none

/-- Host memory: a request that cannot be sent, or a completion that is an abort or poisoned, faults (R61); a vector goes word
by word (R225). -/
def tryHost (s : State) (a : Acc) (ecc : Ecc) : AccEnd × State :=
  let write := !accReads a
  let i := a.res.length
  let k := if a.n = 16 then a.addr + 4 * i else a.addr
  match hostAsk s a.part write (k - hostBase) (if a.n = 16 then 4 else 4 * a.n) with
  | (false, s) => (.fault 0x9005 a.va 0, s)
  | (true, s) =>
    if ecc = .uncorrectable ∧ !write then (.fault 0x9005 a.va 0, s)
    else if a.n = 16 then
      let (w, s) := match a.kind with
        | .store => let w := a.val.getD i 0; (w, wrWord s k w)
        | _ => (rdWord s k, s)
      (if i + 1 = 16 then .done (a.res ++ [w]) else .part (a.res ++ [w]), if write then postWrite s a.part a.id (accThread a) else s)
    else
      let (e, s) := touch s a
      (e, if write ∨ a.kind = .ctrAdd then postWrite s a.part a.id (accThread a) else s)

/-- Level H of an access: the holm island's. -/
def siteHolm (a : Acc) : Bool := decide (a.site.isl = 260)

/-- The image on whose behalf a site writes (R122). -/
def siteWriter (s : State) (a : Acc) : Writer :=
  if siteHolm a then .holm else if notActive s a.site.isl then .new else activeWriter s

/-- SYS: what an image that is not active writes is ignored, but for FWCTL (R122). -/
def trySys (s : State) (a : Acc) : AccEnd × State :=
  match a.kind with
  | .load => (.done [sysRead s (siteHolm a) a.addr], { s with freeCount := s.freeCount + 1 })
  | .store =>
    (.done [], if notActive s a.site.isl ∧ a.addr ≠ 8 * 2 ^ 25 + 0x20 then s
      else
        let v := a.val.getD 0 0
        let s := if siteWriter s a = .new then journalOne s (.sysWrite a.addr v) else s
        sysWrite s (siteWriter s a) (siteHolm a) a.addr v)
  | _ => (.later, s)

/-- What a release covers is performed (R234). -/
def depsPerformed (s : State) (a : Acc) : Bool := a.deps.all (fun d => !s.accs.any (fun b => b.id == d % 2 ^ 40 && b.phase != .performed))

/-- The reads that complete covered writes at the host (R234, R241): issued first, one for each function, then answered. -/
inductive HostSync where
  | none
  | issued (s : State)
  | failed (s : State)
  | done (s : State)
  deriving DecidableEq, Repr

def hostSync (s : State) (a : Acc) : HostSync :=
  match postedOf s (accThread a) a.deps with
  | [] => .none
  | fns =>
    match a.asked with
    | none => .issued { (fns.foldl (fun s f => emitOut s (.hostRead f)) s) with
        accs := s.accs.map (fun b => if b.id = a.id then { b with asked := some s.pcie.nextPost } else b) }
    | some n => match askAll n fns s with
      | some s => .done s
      | none => .failed s

def tryAcc (s : State) (a : Acc) (ecc : Ecc) : AccEnd × State :=
  let go (s : State) : AccEnd × State :=
    match a.space with
    | .cell => tryCell s a ecc
    | .sbuf => touch s a
    | .hbm => tryHbm s a ecc
    | .host => tryHost s a ecc
    | .sys => trySys s a
  if !a.rel then go s
  else if !depsPerformed s a then (.later, s)
  else match hostSync s a with
    | .none => go s
    | .issued s => (.later, s)
    | .failed s => (.fault 0x9005 a.va 0, s)
    | .done s => go s

/-- Place of an access's home (R227): its own die for a bank, the memory-port die of the SBUF or of the HBM4 stack, the die whose
register it names, or the IOD. -/
def homePlace (a : Acc) : Nat :=
  if a.space = .sys then posOf (a.addr / 2 ^ 25) else keyPlace a.addr

/-- The path between an access's island and a place is whole: the access, or the request, can travel (R9, R34). -/
def reaches (s : State) (a : Acc) (place : Nat) : Bool := pathOpen s (islPlace a.site.isl) place

/-- The access's firing has failed and is to be replayed (R278). -/
def hasFailed (s : State) (a : Acc) : Bool :=
  s.rel.fails.any (fun f => f.isl == a.site.isl && f.slot == a.site.slot && f.cell == a.site.cell && f.k == a.site.k && f.firing == a.firing)

/-- Perform an access at its home, if what must be performed before it is and the home can be reached. -/
def homeAcc (s : State) (a : Acc) (ecc : Ecc) : State :=
  if portBehind s a ∨ !reaches s a (homePlace a) ∨ hasFailed s a then s
  else match tryAcc s a ecc with
    | (.done res, s) => performAcc s a res
    | (.part res, s) => putAcc s { a with res := res }
    | (.fault code addr d1, s) => failAcc s a code addr d1
    | (.wait, s) => waitAcc s a
    | (.later, s) => s

/-- The next move of an access. -/
def moveAcc (s : State) (a : Acc) (ecc : Ecc) : State :=
  if a.space = .cell ∨ a.space = .sys then homeAcc s a ecc
  else match a.phase with
    | .issued => if portUnsent s a then s else flushOf (lastAcc s { a with phase := .island }) a
    | .island => if dieBehind s a then s else lastAcc s { a with phase := .die }
    | .die =>
      if homeBehind s a then s
      else if fullBehind s a && reaches s a (homePlace a) then waitAcc s a
      else homeAcc s a ecc
    | _ => s

/-! ## Time (R48, R428, R429) -/

/-- What a TIME read delivers before the monotonic rule: device time at the IOD, the half trips of the return path and the
die's own latency. -/
def timeValue (s : State) (isl : Nat) : Nat :=
  s.dtime + ((curPath s 8 (islPlace isl)).map (fun h => (endAt s (hopEnd h)).half)).sum + Config.dieLatency (dieOf isl)

/-- TIME of a thread never goes back (R48). -/
def timeRead (s : State) (a : Acc) : Nat × State :=
  let v := timeValue s a.site.isl
  match (ctxAt s a.site.isl a.site.slot).thread with
  | none => (v, s)
  | some t =>
    let v := max v (threadAt s t).lastTime
    (v, modThread s t (fun th => { th with lastTime := v }))

def timeAcc (s : State) (a : Acc) : State :=
  if a.addr = 0 then
    let (v, s) := timeRead s a
    performAcc s a (natWords 2 v)
  else performAcc s a [BitVec.ofNat 32 (scCur s (a.addr - 1)), BitVec.ofNat 32 (scCurSym s (a.addr - 1))]

/-! ## Groups and fences -/

/-- The group unit takes an operation of a thread now: within a cycle the threads come in increasing number (R164). -/
def groupTurn (s : State) (t : Nat) : Bool := !(s.sched.groupOp.1 == s.cycle && decide (t < s.sched.groupOp.2))

def tookGroup (s : State) (t : Nat) : State := { s with sched := { s.sched with groupOp := (s.cycle, t) } }

/-- A group operation is applied, an arrival once what it covers is performed, and complete at the host where it went there (R165,
R228); its faults are those of R163. -/
def groupAcc (s : State) (a : Acc) (op : Nat) : State :=
  let go (s : State) : State :=
    match (ctxAt s a.site.isl a.site.slot).thread with
    | none => failAcc s a 0x901A 0 0
    | some t =>
      if !groupTurn s t then s
      else match groupOp (tookGroup s t) t a.addr op with
        | .ok s => performAcc s a []
        | .error code => failAcc (tookGroup s t) a code 0 0
  if op < 2 then go s
  else if !depsPerformed s a then s
  else match hostSync s a with
    | .none => go s
    | .issued s => s
    | .failed s => failAcc s a 0x9005 0 0
    | .done s => go s

def gwaitAcc (s : State) (a : Acc) : State :=
  match (ctxAt s a.site.isl a.site.slot).thread with
  | none => failAcc s a 0x901C 0 0
  | some t =>
    let again := a.phase == .waiting
    if !again && !groupTurn s t then s
    else match groupWait (if again then s else tookGroup s t) t a.addr with
    | .ok (some (ph, s)) =>
      let res := [BitVec.ofNat 32 ph]
      if reaches s a 8 then performAcc s a res else putAcc s { a with phase := .die, res := res }
    | .ok none => waitAcc s a
    | .error code => failAcc s a code 0 0

/-- A load: it is performed at every scope when it is performed at its home (R228). -/
def isLoad (a : Acc) : Bool :=
  match a.kind with
  | .load | .loadFull | .ctrRead | .waitGe => true
  | _ => false

/-- An access is performed at the scope of a fence: 0 island, 1 die, 2 package, 3 system (R228). What is complete at the host is
in `Pcie.posted`. -/
def atScope (scope : Nat) (b : Acc) : Bool :=
  if isLoad b ∨ b.space = .cell ∨ b.space = .sys then b.phase == .performed
  else match b.phase with
    | .performed => true
    | .die => decide (scope ≤ 1)
    | .island => decide (scope = 0)
    | _ => false

/-- A word of an owner update of the thread that a restore has brought back waits for its owner: no operation stands for it. Every
fence of the thread covers it (R244). -/
def restoredUpdate (s : State) (t : Nat) : Bool :=
  let old (k : Tok) : Bool := !s.accs.any (fun a => a.kind == .update && k.deps.any (fun d => d % 2 ^ 40 == a.id))
  (threadAt s t).slots.any (fun x =>
    let c := ctxAt s x.1 x.2
    (List.range 16).any (fun cell => (ownSlots c cell).any (fun k => (vcsOf c cell k 2).any (fun e =>
      let key := vcKey cell (vcVc e)
      (bufFull c cell key).any old || s.flights.any (fun f => f.dest == .buf x.1 x.2 key && old f.tok)))))

/-- A fence ends when everything it covers is performed at its scope (R233). FENCE.S issues a read for each function that
carries a covered store, once, and waits for its completion (R241). -/
def fenceAcc (s : State) (a : Acc) (scope : Nat) : State :=
  let fin (s : State) : State := performAcc s { a with deps := a.deps.map (fun d => d % 2 ^ 40 + 2 ^ 40 * (scope + 1)) } []
  if s.accs.any (fun b => a.deps.any (fun d => d % 2 ^ 40 == b.id) && isAccess b && !atScope scope b)
      ∨ (a.site.isl < 256 ∧ restoredUpdate s a.thread) then s
  else if scope = 3 then
    match hostSync s a with
    | .none => fin s
    | .issued s => s
    | .failed s => failAcc s a 0x9005 0 0
    | .done s => fin s
  else fin s

def tileAcc (s : State) (a : Acc) (out : Bool) (reg row nr : Nat) : State :=
  if hasFailed s a then s
  else match performTile s a out reg row nr with
    | some (.good, s) => performAcc s a []
    | some (.poisoned w, s) => failAcc s a 0x9033 w 1
    | some (.bad, s) => s
    | none => s

/-- A call reads its argument block through its caller's translation and joins the holm's queue (R434). A resumable fault of the
read holds it. -/
def hcallAcc (s : State) (a : Acc) : State :=
  match hcallBlock s a.site.isl (ctxAt s a.site.isl a.site.slot) a.va with
  | (.error (code, addr, d), s) =>
    if resumableCode code then raiseAt (putAcc s { a with phase := .held }) a.site a.firing code addr d 0 else failAcc s a code addr d
  | (.ok ws, s) => joinCalls s a ws

/-! ## The moves -/

def stepAcc (s : State) (a : Acc) (ecc : Ecc) : State :=
  match a.phase with
  | .check | .held | .waiting => s
  | .performed => flushOf s a
  | _ =>
    match a.kind with
    | .time => if reaches s a 8 then timeAcc s a else s
    | .group op => if reaches s a 8 then groupAcc s a op else s
    | .gwait => if !reaches s a 8 then s else if a.phase = .die then performAcc s a a.res else gwaitAcc s a
    | .fence scope => fenceAcc s a scope
    | .tile out reg row nr => tileAcc s a out reg row nr
    | .hcall => if !reaches s a 8 then s else if a.phase = .die then performAcc s a a.res else hcallAcc s a
    | .emit _ | .late _ | .trap | .request | .update => s
    | _ => moveAcc s a ecc

def accAt (s : State) (id : Nat) : Option Acc := s.accs.find? (fun a => a.id == id)

def execAccessComplete (id : Nat) (ecc : Ecc) (s : State) : Out :=
  match accAt s id with
  | some a => .next (stepAcc s a ecc)
  | none => .next s

/-- A waiting access of a kind tests again. -/
def wake (s : State) (id : Nat) (ok : AccKind → Bool) (go : State → Acc → State) : Out :=
  match accAt s id with
  | some a => if a.phase = .waiting ∧ ok a.kind then .next (go s a) else .next s
  | none => .next s

def execFullEmptyWake (id : Nat) (s : State) : Out :=
  wake s id (· == .loadFull) (fun s a => if fullBehind s a then s else homeAcc s a .ok)
def execWaitgeWake (id : Nat) (s : State) : Out := wake s id (· == .waitGe) (fun s a => homeAcc s a .ok)
def execGwaitWake (id : Nat) (s : State) : Out := wake s id (· == .gwait) gwaitAcc

/-- A host request without a completion for 50 ms (R61). -/
def execHostRequestTimeout (acc : Nat) (s : State) : Out :=
  match accAt s acc with
  | some a =>
    if ((a.space = .host ∧ accReads a ∧ a.phase = .die) ∨ a.asked ≠ none) ∧ a.since + 50 * msec ≤ s.dtime then .next (failAcc s a 0x9005 a.va 0)
    else .next s
  | none => .next s

end Sys2Proof.Machine
end

