-- ==== Sys2Proof/Machine/Packets.lean ====
section
/-! DEFINITION. The packets whose effect the front end itself performs (R88 to R93): NOP, SIGNAL, WAITGE, CALL, RETURN,
FENCE, WAITTIME, MARK, and the timeout of WAITGE. -/
namespace Sys2Proof.Machine

/-- A VA whose high word is payload word `hi`: bits above the 53 of R246 are out of range. -/
def vaHighBad (p : Packet) (hi : Nat) : Bool := decide (2 ^ 21 ≤ pw p hi)

def execNopPacket (p : Packet) (s : State) : Out :=
  issueWith s p none none false false (fun s => .next (issueDone s s.cur.q p))

/-- What the front end does when a counter is not reached (R88): QE_BADPAYLOAD at the low word for an SBUF counter outside
the partition's windows, QE_FETCH with its address otherwise. -/
def counterError (s : State) (q : Nat) (c : CtrAt) : State :=
  match c with
  | .window => queueError s q 0x0103 (leBytes 1 0)
  | .fetch a => queueError s q 0x0107 (leBytes 8 a)
  | .key _ => s

/-- SIGNAL: the counter's update with release order, then the vector. -/
def execSignal (p : Packet) (s : State) : Out :=
  let q := s.cur.q
  let x := queueAt s q
  let bad := match ctrBadWord (pw64 p 0) with
    | some i => some i
    | none => firstBad [(3, (pw p 3).testBit 31), (4, decide (2 ^ 7 ≤ pw p 4))]
  issueWith s p (some 5) bad false false (fun s =>
    match ctrAt s x.part x.level (pw64 p 0) .rmw with
    | (.key k, s) =>
      let s := ctrAdd s k (pw64 p 2) false
      let s := if (pw p 4).testBit 0 then raiseMsixOf s x.part (bitsOf (pw p 4) 6 1) else s
      .next (issueDone s q p)
    | (c, s) => .next (counterError s q c))

/-- WAITGE: issued when the counter has reached its target (R89, R219). -/
def execWaitgePacket (p : Packet) (s : State) : Out :=
  let q := s.cur.q
  let x := queueAt s q
  let bad := match ctrBadWord (pw64 p 0) with
    | some i => some i
    | none => firstBad [(3, (pw p 3).testBit 31)]
  issueWith s p (some 5) bad false false (fun s =>
    match ctrAt s x.part x.level (pw64 p 0) .read with
    | (.key k, s) =>
      let c := rdDword s k
      if c.testBit 63 then .next (queueError s q 0x0108 (leBytes 8 c))
      else if pw64 p 2 ≤ c % 2 ^ 63 then .next (issueDone s q p)
      else .next (modQueue s q (fun y => { y with st := .wait, waitSince := some (x.waitSince.getD s.dtime) }))
    | (c, s) => .next (counterError s q c))

/-- The timeout of a waiting WAITGE passes (R89): QE_TIMEOUT with the counter's value. -/
def execWaitgePacketTimeout (q : Nat) (s : State) : Out :=
  let x := queueAt s q
  match x.st, x.pkt, x.waitSince with
  | .wait, some p, some t =>
    if x.evPend ∨ p.typ ≠ 5 ∨ pw p 4 = 0 ∨ s.dtime < t + pw p 4 * usec then .next s
    else
      match ctrAt s x.part x.level (pw64 p 0) .read with
      | (.key k, s) =>
        let c := rdDword s k
        if c.testBit 63 ∨ pw64 p 2 ≤ c % 2 ^ 63 then .next s
        else .next (queueError s q 0x0109 (leBytes 8 c))
      | (c, s) => .next (counterError s q c)
  | _, _, _ => .next s

/-- CALL: the return position is the word after it; parsing goes on in the buffer (R93). -/
def execCallPacket (p : Packet) (s : State) : Out :=
  let q := s.cur.q
  let bad := firstBad [(0, decide (pw p 0 % 4 ≠ 0)), (1, vaHighBad p 1), (2, decide (pw p 2 = 0) || decide (2 ^ 20 < pw p 2))]
  issueWith s p (some 3) bad false false (fun s =>
    if 4 ≤ (leaveBufs (queueAt s q).stack).length then .next (queueError s q 0x0104 [])
    else
      let s := issueDone s q p
      .next (modQueue s q (fun x =>
        { x with stack := { addr := pw64 p 0, len := pw p 2, pos := 0 } :: x.stack, st := .run })))

/-- RETURN: back to the caller; QE_DEPTH at depth 0 (R93). -/
def execReturnPacket (p : Packet) (s : State) : Out :=
  let q := s.cur.q
  issueWith s p (some 0) none false false (fun s =>
    if leaveBufs (queueAt s q).stack = [] then .next (queueError s q 0x0104 [])
    else
      let depth := (leaveBufs (queueAt s q).stack).length
      let s := issueDone s q p
      .next (modQueue s q (fun x =>
        let x := { x with stack := x.stack.drop (x.stack.length + 1 - depth) }
        { x with st := restState x })))

/-- The function of a partition that carries writes which may not be complete at the host (R241). -/
def hostBehind (s : State) (p : Nat) : Option Nat :=
  match fnOf s p with
  | some f => if s.pcie.posted.any (fun w => w.fn == f) then some f else none
  | none => none

/-- FENCE is issued when every earlier packet has completed (R87); the stores of completed packets are then visible
on the device, since a thread, a copy and an update complete only when theirs are (R90, R191, R218). At system scope, where its
partition's function has posted writes, the packet issues a read of the function and waits for its completion (R228, R241); a read
that fails is issued again (log entry 74). -/
def execFencePacket (p : Packet) (s : State) : Out :=
  let q := s.cur.q
  issueWith s p (some 1) (firstBad [(0, decide (4 ≤ pw p 0))]) false true (fun s =>
    match (if pw p 0 = 3 then hostBehind s (queueAt s q).part else none), (queueAt s q).asked with
    | none, _ => .next (issueDone s q p)
    | some f, none => .next (modQueue (emitOut s (.hostRead f)) q (fun x => { x with st := .wait, asked := some s.pcie.nextPost }))
    | some f, some n =>
      if s.pcie.abort.get false f then
        .next (modQueue { s with pcie := { s.pcie with abort := s.pcie.abort.set false f false } } q (fun x => { x with asked := none }))
      else .next (issueDone (readDone s f n) q p))

/-- WAITTIME: the time is resolved once, when the packet comes to be issued (R91). -/
def execWaittime (p : Packet) (s : State) : Out :=
  let q := s.cur.q
  let x := queueAt s q
  let mode := (pw p 2).testBit 0
  let t := if mode then resolveSym s (clockOf s x.part) (pw p 0) (pw p 1 % 16) 0 else some (pw64 p 0)
  let bad := firstBad [(1, mode && decide (14 ≤ pw p 1)), (2, decide (2 ≤ pw p 2))]
  issueWith s p (some 3) bad false false (fun s =>
    match x.waitTime, t with
    | none, none => .next (queueError s q 0x0103 (leBytes 1 1))
    | some t, _ | none, some t =>
      if t ≤ s.dtime then .next (issueDone s q p)
      else .next (modQueue s q (fun y => { y with st := .wait, waitTime := some t })))

/-- MARK sets QMARK and posts EV_MARK. -/
def execMark (p : Packet) (s : State) : Out :=
  let q := s.cur.q
  issueWith s p (some 1) none false false (fun s =>
    let s := queueEvent s q 0x0002 (leBytes 4 (pw p 0)) false
    .next (issueDone (modQueue s q (fun x => { x with mark := p.ws.getD 0 0 })) q p))

end Sys2Proof.Machine
end

