-- ==== Sys2Proof/Machine/QueueProg.lean ====
section
/-! DEFINITION. The queue interpreter (R94 to R97): one meaning per bytecode. -/
namespace Sys2Proof.Machine

/-- How a bytecode ends: on to the bytecode at `t`, with the packet and the state window it leaves, or the end of the
program. -/
inductive QRes where
  | go (r : QRun) (p : Packet) (win : Tab Word) (t : Nat)
  | pass
  | skip
  | fail (code detail : Nat)
  deriving DecidableEq, Repr

/-- The branch or fall to `t`: at the end of a LOOPN's body the pass ends (R96, R98). -/
def loopTo (r : QRun) (t : Nat) : QRun × Nat :=
  match r.loop with
  | some (i, e, n) =>
    if t = e + 1 then
      if n ≤ 1 then ({ r with loop := none, regs := r.regs.set 0 15 0 }, t)
      else ({ r with loop := some (i, e, n - 1), regs := r.regs.set 0 15 (r.regs.get 0 15 + 1) }, i + 1)
    else (r, t)
  | none => (r, t)

/-- The program ends and the packet goes on to step 3. -/
def progPass (s : State) (q : Nat) : State := prepend (modQueue s q (fun x => { x with run := none })) (.issue q)

/-- One bytecode: the step budget (R97), the bytecode, and where the program goes on. -/
def runBytecode (s : State) (f : QRun → Packet → Tab Word → QRes) : Out :=
  let q := s.cur.q
  let x := queueAt s q
  match x.run with
  | none => .next s
  | some r =>
    if 256 ≤ r.steps then .next (queueError s q 0x010A (leBytes 1 r.pc))
    else
      match f { r with steps := r.steps + 1 } (x.pkt.getD { hdr := 0, ws := [] }) x.win with
      | .pass => .next (progPass s q)
      | .skip => .next (setQueue s q (passPacket x (skipLen x)))
      | .fail c d => .next (queueError s q c (leBytes 1 d))
      | .go r1 p w t =>
        let (r2, pc) := loopTo r1 t
        let y := { x with pkt := x.pkt.map (fun _ => p), win := w, run := some { r2 with pc := pc } }
        if x.plen ≤ pc then .next (progPass (setQueue s q y) q)
        else .next (prepend (setQueue s q y) (.bytecode q))

def bReg (r : QRun) (a : BitVec 4) : Word := r.regs.get 0 a.toNat
def setB (r : QRun) (a : BitVec 4) (v : Word) : QRun := { r with regs := r.regs.set 0 a.toNat v }
def simm (i : BitVec 7) : Word := i.signExtend 32
def uimm (i : BitVec 7) : Word := i.setWidth 32

/-- A bytecode that writes bA. -/
def qpSet (s : State) (a : BitVec 4) (v : QRun → Word) : Out :=
  runBytecode s (fun r p w => .go (setB r a (v r)) p w (r.pc + 1))

/-- A bytecode that writes F. -/
def qpTest (s : State) (v : QRun → Bool) : Out := runBytecode s (fun r p w => .go { r with f := v r } p w (r.pc + 1))

/-- A forward branch. -/
def qpJump (s : State) (i : BitVec 7) (c : QRun → Bool) : Out :=
  runBytecode s (fun r p w => .go r p w (if c r then r.pc + 1 + i.toNat else r.pc + 1))

/-- Read packet word n into bA (R94, R97). -/
def qpLoad (s : State) (a : BitVec 4) (n : QRun → Nat) : Out :=
  runBytecode s (fun r p w =>
    if p.count < n r then .fail 0x010C r.pc
    else .go (setB r a (if n r = 0 then p.hdr else p.ws.getD (n r - 1) 0)) p w (r.pc + 1))

/-- Write bA to packet word n. -/
def qpStore (s : State) (a : BitVec 4) (n : QRun → Nat) : Out :=
  runBytecode s (fun r p w =>
    if p.count < n r ∨ n r = 0 then .fail 0x010C r.pc
    else .go r { p with ws := p.ws.set (n r - 1) (bReg r a) } w (r.pc + 1))

/-- Read state word n into bA. -/
def qpLoadQ (s : State) (a : BitVec 4) (n : QRun → Nat) : Out :=
  runBytecode s (fun r p w => if 63 < n r then .fail 0x010C r.pc else .go (setB r a (w.get 0 (n r))) p w (r.pc + 1))

/-- Write bA to state word n. -/
def qpStoreQ (s : State) (a : BitVec 4) (n : QRun → Nat) : Out :=
  runBytecode s (fun r p w => if 63 < n r then .fail 0x010C r.pc else .go r p (w.set 0 (n r) (bReg r a)) (r.pc + 1))

def execQpPass (a : BitVec 4) (i : BitVec 7) (s : State) : Out := runBytecode s (fun _ _ _ => .pass)
def execQpSkip (a : BitVec 4) (i : BitVec 7) (s : State) : Out := runBytecode s (fun _ _ _ => .skip)
def execQpFail (a : BitVec 4) (i : BitVec 7) (s : State) : Out := runBytecode s (fun _ _ _ => .fail 0x010B i.toNat)
def execQpLdi (a : BitVec 4) (i : BitVec 7) (s : State) : Out := qpSet s a (fun _ => simm i)
def execQpMov (a b : BitVec 4) (s : State) : Out := qpSet s a (fun r => bReg r b)
def execQpAdd (a b : BitVec 4) (s : State) : Out := qpSet s a (fun r => bReg r a + bReg r b)
def execQpSub (a b : BitVec 4) (s : State) : Out := qpSet s a (fun r => bReg r a - bReg r b)
def execQpAnd (a b : BitVec 4) (s : State) : Out := qpSet s a (fun r => bReg r a &&& bReg r b)
def execQpOr (a b : BitVec 4) (s : State) : Out := qpSet s a (fun r => bReg r a ||| bReg r b)
def execQpXor (a b : BitVec 4) (s : State) : Out := qpSet s a (fun r => bReg r a ^^^ bReg r b)
def execQpShl (a b : BitVec 4) (s : State) : Out := qpSet s a (fun r => bReg r a <<< ((bReg r b).toNat % 32))
def execQpShr (a b : BitVec 4) (s : State) : Out := qpSet s a (fun r => bReg r a >>> ((bReg r b).toNat % 32))
def execQpAddi (a : BitVec 4) (i : BitVec 7) (s : State) : Out := qpSet s a (fun r => bReg r a + simm i)
def execQpAndi (a : BitVec 4) (i : BitVec 7) (s : State) : Out := qpSet s a (fun r => bReg r a &&& uimm i)
def execQpOri (a : BitVec 4) (i : BitVec 7) (s : State) : Out := qpSet s a (fun r => bReg r a ||| uimm i)
def execQpShli (a : BitVec 4) (i : BitVec 5) (s : State) : Out := qpSet s a (fun r => bReg r a <<< i.toNat)
def execQpShri (a : BitVec 4) (i : BitVec 5) (s : State) : Out := qpSet s a (fun r => bReg r a >>> i.toNat)
def execQpLdp (a b : BitVec 4) (s : State) : Out := qpLoad s a (fun r => (bReg r b).toNat)
def execQpStp (a b : BitVec 4) (s : State) : Out := qpStore s a (fun r => (bReg r b).toNat)
def execQpLdpi (a : BitVec 4) (i : BitVec 7) (s : State) : Out := qpLoad s a (fun _ => i.toNat)
def execQpStpi (a : BitVec 4) (i : BitVec 7) (s : State) : Out := qpStore s a (fun _ => i.toNat)
def execQpLdq (a b : BitVec 4) (s : State) : Out := qpLoadQ s a (fun r => (bReg r b).toNat)
def execQpStq (a b : BitVec 4) (s : State) : Out := qpStoreQ s a (fun r => (bReg r b).toNat)
def execQpLdqi (a : BitVec 4) (i : BitVec 6) (s : State) : Out := qpLoadQ s a (fun _ => i.toNat)
def execQpStqi (a : BitVec 4) (i : BitVec 6) (s : State) : Out := qpStoreQ s a (fun _ => i.toNat)
def execQpTeq (a b : BitVec 4) (s : State) : Out := qpTest s (fun r => bReg r a == bReg r b)
def execQpTltu (a b : BitVec 4) (s : State) : Out := qpTest s (fun r => decide ((bReg r a).toNat < (bReg r b).toNat))
def execQpTeqi (a : BitVec 4) (i : BitVec 7) (s : State) : Out := qpTest s (fun r => bReg r a == uimm i)
def execQpBrt (i : BitVec 7) (s : State) : Out := qpJump s i (fun r => r.f)
def execQpBrf (i : BitVec 7) (s : State) : Out := qpJump s i (fun r => !r.f)
def execQpJmp (i : BitVec 7) (s : State) : Out := qpJump s i (fun _ => true)

/-- The next A + 1 bytecodes run n times, with b15 counting the passes. -/
def execQpLoopn (a : BitVec 4) (n : BitVec 7) (s : State) : Out :=
  runBytecode s (fun r p w =>
    .go { r with regs := r.regs.set 0 15 0, loop := some (r.pc, r.pc + a.toNat + 1, n.toNat) } p w (r.pc + 1))

end Sys2Proof.Machine
end

