-- ==== Sys2Proof/Machine/RelOps.lean ====
section
/-! DEFINITION. Reliability (R272 to R287): the roaming shadow and its compare, replay, migration to the skerry cell, lost cells.
A replay re-executes firings from the history and gives again what the model's firings gave (R278, R279): it releases the
outputs that the check stage holds; an access that found an uncorrectable word stays pending and is read again. -/
namespace Sys2Proof.Machine

/-! ## Events (R291) -/

/-- Partitions that hold a context on an island. -/
def ctxParts (s : State) (isl : Nat) : List Nat :=
  ((List.range 8).filterMap (fun σ => let c := ctxAt s isl σ; if c.st = .free then none else some c.part)).eraseDups

def postParts (s : State) (ev : Event) : List Nat → State
  | [] => s
  | p :: t => postParts (postPart s p ev (List.range 32)) ev t

/-- A reliability event of cell number `n`: to the rings of partition 0 and of the partitions on the island. While no
partition-0 ring is enabled it is held as R102 says. -/
def relEvent (s : State) (isl n code susp firing : Nat) : State :=
  let d := leBytes 1 (n / 1056) ++ leBytes 1 (n % 1056 / 33) ++ leBytes 1 (n % 33) ++ leBytes 1 susp ++ leBytes 8 firing
  let s := postDeviceEvent s code d
  postParts s (deviceEvent s code d) ((ctxParts s isl).filter (· != 0))

/-! ## The shadow (R274, R275) -/

/-- The next column after `x` whose cell is neither replaced nor lost, within `n` tries. -/
def nextColumn (s : State) (die row : Nat) : Nat → Nat → Nat
  | 0, x => x
  | n + 1, x =>
    let y := (x + 1) % 32
    if (cellRelAt s die row y).state = 0 then y else nextColumn s die row n y

/-- SHADOW_MOVE: every 2^INTLOG2 cycles, while the row's skerry cell shadows. -/
def execShadowMove (die row : Nat) (s : State) : Out :=
  let g := s.rel.cfg.get {} die
  let k := cellRelAt s die row 32
  if die < 4 ∧ row < 32 ∧ g.shen ∧ k.state = 0 ∧ k.moved + 2 ^ g.intLog2 ≤ s.cycle then
    .next (setCellRel s die row 32 { k with mapx := nextColumn s die row 32 k.mapx, moved := s.cycle })
  else .next s

/-! ## The shadow's compare (R274 to R276) -/

/-- The firing in the check stage of its cell. -/
def firingOf (s : State) (isl slot cell k firing : Nat) : Option ChkRec :=
  (unchecked s isl cell).find? (fun r => r.slot == slot && r.k == k && r.firing == firing)

/-- Bank writes and requests of a firing that its record holds: the entry that it pushes, the words of a PLANE form, and the status
of a holm call. -/
def recOutputs (r : ChkRec) : List (BitVec 256) :=
  (match r.push with | some (i, ws, lv) => [i, wordsNat ws, lv] | none => []).map (BitVec.ofNat 256)
    ++ r.area.flatMap (fun e => [BitVec.ofNat 256 e.1, BitVec.ofNat 256 (wordsNat e.2)])
    ++ (match r.ret with | some (t, v) => [BitVec.ofNat 256 t, BitVec.ofNat 256 v] | none => [])

/-- The outputs of a firing that the compare covers: its tokens with their sideband, and its bank writes and requests with
address and datum. -/
def outputsOf (s : State) (tag : Nat) : List (BitVec 256) :=
  (s.chks.filter (fun r => r.tag == tag)).flatMap recOutputs ++ (s.flights.filter (fun f => f.chk == some tag)).flatMap (fun f => [f.tok.data, BitVec.ofNat 256 (sideband f.slot f.tok)])
    ++ (s.accs.filter (fun a => a.chk == some tag)).flatMap (fun a => [BitVec.ofNat 256 a.addr, BitVec.ofNat 256 (wordsNat a.val)])

/-- The outputs as an upset makes them. -/
def upsetOuts (l : List (BitVec 256)) (e : BitVec 256) : List (BitVec 256) := l.map (fun x => x ^^^ e)

/-- The shadow is on the cell and compares: its row's skerry cell shadows that column, is not on its way to it, and has the
configuration of the active context (R274, R275). -/
def comparing (s : State) (isl slot n : Nat) : Bool :=
  let k := s.rel.cells.get {} (n / 33 * 33 + 32)
  (s.rel.cfg.get {} (n / 1056)).shen && k.state == 0 && k.mapx == n % 33 && decide (k.moved + 256 ≤ s.cycle ∨ k.moved = 0)
    && activeSlot s isl == some slot && decide ((ctxAt s isl slot).since + 64 ≤ s.cycle)

/-- The compare of a firing finds a mismatch. -/
def mismatch (s : State) (errCell errShadow : BitVec 256) (tag : Nat) : Bool :=
  let l := outputsOf s tag
  upsetOuts l errCell != upsetOuts l errShadow

/-- Which of the shadow (0), the original (1) or neither (2) the replayed outputs match (R276). -/
def replayMatch (s : State) (r : ReplayIn) (tag : Nat) : Nat :=
  let l := outputsOf s tag
  if l = upsetOuts l r.errShadow then 0 else if l = upsetOuts l r.errCell then 1 else 2

/-! ## Replay (R272, R276 to R279) -/

/-- SUSP and REPLAYS of a cell after a failure that is replayed. -/
def suspectCell (s : State) (n : Nat) : State :=
  modRel s n (fun c => { c with susp := min 3 (c.susp + 1), lastFail := s.cycle })

def countReplay (s : State) (n : Nat) : State := modRel s n (fun c => { c with replays := min 255 (c.replays + 1) })

/-- The skerry cell of cell n's row is suspect; at 2 it is retired (R276). -/
def suspectShadow (s : State) (isl n firing : Nat) : State :=
  let k := n / 33 * 33 + 32
  let s := suspectCell s k
  if (s.rel.cells.get {} k).susp < 2 then s
  else relEvent (modRel s k (fun c => { c with state := 2 })) isl k 0x8021 2 firing

/-- The failures of a cell are handled: the words that read as uncorrectable once read well again, and its outputs pass the
check stage (R278, R279). -/
def releaseCell (s : State) (isl cell : Nat) : State :=
  let lo := bankKey isl cell 0 / 4
  passCell { s with
    soft := s.soft.filter (fun e => !(e.2 == 2 && decide (lo ≤ e.1) && decide (e.1 < lo + 16384))),
    rel := { s.rel with fails := s.rel.fails.filter (fun f => f.isl != isl || f.cell != cell) } } isl cell

/-- A firing that an uncorrectable error made fail (R272). -/
def hasFail (s : State) (isl slot cell k firing : Nat) : Bool := decide (k < 8) && s.rel.fails.any (failOf isl slot cell k firing)

/-- The failing firing's read finds a word uncorrectable again: the failure is a second one (R279). -/
def stillBroken (s : State) (isl slot cell k firing : Nat) : Bool :=
  s.rel.fails.any (fun f => failOf isl slot cell k firing f && f.words.any (fun x => softAt s x == 3))

/-- The shadow on the cell with CELLREL number `n` reports a mismatch for a firing in the check stage (R276). -/
def shadowFail (s : State) (isl slot cell k firing n : Nat) (errCell errShadow : BitVec 256) : Bool :=
  match firingOf s isl slot cell k firing with
  | some c => comparing s isl slot n && mismatch s errCell errShadow c.tag
  | none => false

/-- CELL_REPLAY: the first failure of a cell of an island, or of the skerry cell that serves it: a firing that has consumed an
uncorrectable error, or whose outputs the shadow does not match. With SUSP at 1 or more the failure is a second one (R277). A
replay gives the firings' outputs again, and they are released. A cell of the IOD has no CELLREL and no shadow: its failures are
replayed (log entry 70). -/
def execCellReplay (cell : Nat) (r : ReplayIn) (s : State) : Out :=
  let w := cellIdx r.island cell
  let n := servingRel s w
  let tag := match firingOf s r.island r.slot cell r.unit r.firing with | some c => c.tag | none => 0
  let found := hasFail s r.island r.slot cell r.unit r.firing && !stillBroken s r.island r.slot cell r.unit r.firing
  if 16 ≤ cell then .next s
  else if 256 ≤ r.island then .next (if found ∧ !r.fromShadow then releaseCell s r.island cell else s)
  else if (s.rel.cells.get {} w).state = 2 ∨ (s.rel.cells.get {} n).susp ≠ 0
      ∨ !(if r.fromShadow then shadowFail s r.island r.slot cell r.unit r.firing n r.errCell r.errShadow else found) then .next s
  else
    let m := replayMatch s r tag
    let s := if r.fromShadow ∧ m = 1 then s else suspectCell s n
    let s := countReplay s n
    let s := if r.fromShadow ∧ m ≠ 0 then suspectShadow s r.island n r.firing else s
    .next (releaseCell (relEvent s r.island n 0x8020 (s.rel.cells.get {} n).susp r.firing) r.island cell)

/-! ## Migration and loss (R281 to R285) -/

/-- The bank words that were found uncorrectable carry the poison mark. -/
def poisonWords (isl cell : Nat) : List Nat → State → State
  | [], s => s
  | a :: t, s => poisonWords isl cell t { s with poison := s.poison.set false (bankKey isl cell (a % 16384) / 4) true }

/-- Threads with a context on an island. -/
def islThreads (s : State) (isl : Nat) : List Nat :=
  ((List.range 8).filterMap (fun σ => let c := ctxAt s isl σ; if c.st = .free then none else c.thread)).eraseDups

/-- Index of the block of a thread that is on an island: of its executing frame, or else of another that it has there. -/
def blockOn (s : State) (t isl : Nat) : Nat :=
  match (threadAt s t).slots.find? (fun x => x.1 == isl) with
  | some x => (ctxAt s x.1 x.2).blkIdx
  | none => ((List.range 8).findSome? (fun σ => let c := ctxAt s isl σ; if c.thread = some t then some c.blkIdx else none)).getD 0

/-- A lost cell stops its threads with FLT_CELL_LOST: slot and firing of f, or 0xFF and 0 (R281, R284). -/
def loseThreads (isl cell : Nat) (r : MigrateIn) : List Nat → State → State
  | [], s => s
  | t :: l, s =>
    let slot := match r.unit with | some k => 8 * cell + k | none => 255
    let firing := match r.unit with | some _ => r.firing | none => 0
    loseThreads isl cell r l (threadFault s t { code := 0x9033, firing := firing, block := blockOn s t isl, slot := slot })

/-- Window numbers of the bank words of a cell that read as uncorrectable (R285). -/
def brokenWords (s : State) (isl cell : Nat) : List Nat :=
  let lo := bankKey isl cell 0 / 4
  (s.soft.filter (fun e => decide (2 ≤ e.2) && decide (lo ≤ e.1) && decide (e.1 < lo + 16384))).map (fun e => e.1 - lo)

/-- Their upsets are gone with the copy, which carries the poison mark. -/
def clearBroken (s : State) (isl cell : Nat) : State :=
  let lo := bankKey isl cell 0 / 4
  { s with soft := s.soft.filter (fun e => !(decide (lo ≤ e.1) && decide (e.1 < lo + 16384))) }

/-- The cell is lost: the outputs of the failing firing and of later ones that its check stage holds never leave it (R273). -/
def dropOutputs (s : State) (isl cell tag : Nat) : State :=
  let tags := ((unchecked s isl cell).filter (fun r => decide (tag ≤ r.tag))).map (·.tag)
  let held (c : Option Nat) : Bool := match c with | some g => tags.contains g | none => false
  { s with
    chks := s.chks.filter (fun r => !tags.contains r.tag),
    flights := s.flights.filter (fun f => !held f.chk),
    accs := s.accs.filter (fun a => !held a.chk) }

/-- The number of the failing firing among those in its cell's check stage, or one beyond them all. -/
def failTag (s : State) (isl cell : Nat) (r : MigrateIn) : Nat :=
  match r.unit.bind (fun u => firingOf s isl r.slot cell u r.firing) with
  | some c => c.tag
  | none => s.nextChk

/-- The failure that an event names stands, and it is a second one: SUSP was 1 or more, the cell failed again during its replay, as it
does where the words that it reads are uncorrectable again, or a token failed its parity check twice (R277, R281). -/
def secondFail (s : State) (cell n : Nat) (r : MigrateIn) : Bool :=
  match r.unit with
  | none => s.rel.fails.any (fun f => f.isl == r.island && f.cell == cell && f.k == 255)
  | some u =>
    (if r.fromShadow then shadowFail s r.island r.slot cell u r.firing n r.errCell r.errShadow else hasFail s r.island r.slot cell u r.firing)
      && (decide ((s.rel.cells.get {} n).susp ≠ 0) || r.again || stillBroken s r.island r.slot cell u r.firing)

/-- SUSP after a second failure: a failure during the replay of a first one is one more. A skerry cell that serves another is retired
at 2 like any skerry cell (R276). -/
def suspectTwice (s : State) (w n : Nat) (r : MigrateIn) (firing : Nat) : State :=
  let s := if r.unit.isSome ∧ (s.rel.cells.get {} n).susp = 0 then suspectCell s n else s
  if n = w then suspectCell s n else suspectShadow s r.island n firing

/-- CELL_MIGRATION: a second failure. The row's skerry cell takes the cell over, with every token, word and register in its place;
with no spare the cell is lost. -/
def execCellMigration (cell : Nat) (r : MigrateIn) (s : State) : Out :=
  let w := cellIdx r.island cell
  let n := servingRel s w
  let k := w / 33 * 33 + 32
  let firing := match r.unit with | some _ => r.firing | none => 0
  if 256 ≤ r.island ∨ 16 ≤ cell ∨ (s.rel.cells.get {} w).state = 2 ∨ !secondFail s cell n r then .next s
  else
    let s := suspectTwice s w n r firing
    let susp := (s.rel.cells.get {} n).susp
    if n = w ∧ (s.rel.cells.get {} k).state = 0 then
      let s := modRel s w (fun c => { c with state := 1 })
      let s := modRel s k (fun c => { c with state := 1, mapx := w % 33 })
      let s := clearBroken (poisonWords r.island cell (brokenWords s r.island cell ++ r.poisoned) s) r.island cell
      .next (releaseCell (relEvent s r.island w 0x8022 susp firing) r.island cell)
    else
      let s := dropOutputs (modRel s w (fun c => { c with state := 2 })) r.island cell (failTag s r.island cell r)
      let s := { s with rel := { s.rel with fails := s.rel.fails.filter (fun f => f.isl != r.island || f.cell != cell) } }
      .next (relEvent (loseThreads r.island cell r (islThreads s r.island) s) r.island w 0x8023 susp firing)

/-- SUSP_DECAY: by 1 after 2^30 cycles with no failure. `cell` counts CELLREL registers over the fabric dies. -/
def execSuspDecay (cell : Nat) (s : State) : Out :=
  let c := s.rel.cells.get {} cell
  if c.susp ≠ 0 ∧ c.lastFail + 2 ^ 30 ≤ s.cycle then
    .next (modRel s cell (fun c => { c with susp := c.susp - 1, lastFail := s.cycle }))
  else .next s

end Sys2Proof.Machine
end

