-- ==== Sys2Proof/Machine/Dispatch.lean ====
section
/-! DEFINITION. One arm per constructor of Instr: a direct call of its meaning. -/
namespace Sys2Proof.Machine

def exec (i : Instr) (s : State) : Host.Outcome State Fault Refusal :=
  match i with
  | .hcall w => Sys2Proof.Machine.execHcall w s
  | .hret w => Sys2Proof.Machine.execHret w s
  | .add w => Sys2Proof.Machine.execAdd w s
  | .sub w => Sys2Proof.Machine.execSub w s
  | .adds w => Sys2Proof.Machine.execAdds w s
  | .neg w => Sys2Proof.Machine.execNeg w s
  | .abs w => Sys2Proof.Machine.execAbs w s
  | .minOp w => Sys2Proof.Machine.execMinOp w s
  | .maxOp w => Sys2Proof.Machine.execMaxOp w s
  | .mul w => Sys2Proof.Machine.execMul w s
  | .mulh w => Sys2Proof.Machine.execMulh w s
  | .mula w => Sys2Proof.Machine.execMula w s
  | .div w => Sys2Proof.Machine.execDiv w s
  | .rem w => Sys2Proof.Machine.execRem w s
  | .andOp w => Sys2Proof.Machine.execAndOp w s
  | .orOp w => Sys2Proof.Machine.execOrOp w s
  | .xorOp w => Sys2Proof.Machine.execXorOp w s
  | .notOp w => Sys2Proof.Machine.execNotOp w s
  | .andn w => Sys2Proof.Machine.execAndn w s
  | .orn w => Sys2Proof.Machine.execOrn w s
  | .shl w => Sys2Proof.Machine.execShl w s
  | .shr w => Sys2Proof.Machine.execShr w s
  | .sar w => Sys2Proof.Machine.execSar w s
  | .rol w => Sys2Proof.Machine.execRol w s
  | .ror w => Sys2Proof.Machine.execRor w s
  | .bfx w => Sys2Proof.Machine.execBfx w s
  | .bfi w => Sys2Proof.Machine.execBfi w s
  | .brev w => Sys2Proof.Machine.execBrev w s
  | .clz w => Sys2Proof.Machine.execClz w s
  | .ctz w => Sys2Proof.Machine.execCtz w s
  | .popc w => Sys2Proof.Machine.execPopc w s
  | .bswap w => Sys2Proof.Machine.execBswap w s
  | .cmpeq w => Sys2Proof.Machine.execCmpeq w s
  | .cmpne w => Sys2Proof.Machine.execCmpne w s
  | .cmplt w => Sys2Proof.Machine.execCmplt w s
  | .cmple w => Sys2Proof.Machine.execCmple w s
  | .cmpgt w => Sys2Proof.Machine.execCmpgt w s
  | .cmpge w => Sys2Proof.Machine.execCmpge w s
  | .sel w => Sys2Proof.Machine.execSel w s
  | .clamp w => Sys2Proof.Machine.execClamp w s
  | .movi w => Sys2Proof.Machine.execMovi w s
  | .addi w => Sys2Proof.Machine.execAddi w s
  | .andi w => Sys2Proof.Machine.execAndi w s
  | .ori w => Sys2Proof.Machine.execOri w s
  | .xori w => Sys2Proof.Machine.execXori w s
  | .cmplti w => Sys2Proof.Machine.execCmplti w s
  | .fan w => Sys2Proof.Machine.execFan w s
  | .steer w => Sys2Proof.Machine.execSteer w s
  | .gate w => Sys2Proof.Machine.execGate w s
  | .merge w => Sys2Proof.Machine.execMerge w s
  | .carry w => Sys2Proof.Machine.execCarry w s
  | .invar w => Sys2Proof.Machine.execInvar w s
  | .sort2 w => Sys2Proof.Machine.execSort2 w s
  | .sink w => Sys2Proof.Machine.execSink w s
  | .ctr w => Sys2Proof.Machine.execCtr w s
  | .iter w => Sys2Proof.Machine.execIter w s
  | .permit w => Sys2Proof.Machine.execPermit w s
  | .stopgen w => Sys2Proof.Machine.execStopgen w s
  | .cntstop w => Sys2Proof.Machine.execCntstop w s
  | .stoplvl w => Sys2Proof.Machine.execStoplvl w s
  | .acc w => Sys2Proof.Machine.execAcc w s
  | .accmin w => Sys2Proof.Machine.execAccmin w s
  | .accmax w => Sys2Proof.Machine.execAccmax w s
  | .acccnt w => Sys2Proof.Machine.execAcccnt w s
  | .exitOp w => Sys2Proof.Machine.execExitOp w s
  | .exitsel w => Sys2Proof.Machine.execExitsel w s
  | .fadd w => Sys2Proof.Machine.execFadd w s
  | .fsub w => Sys2Proof.Machine.execFsub w s
  | .fmul w => Sys2Proof.Machine.execFmul w s
  | .ffma w => Sys2Proof.Machine.execFfma w s
  | .ffms w => Sys2Proof.Machine.execFfms w s
  | .fmin w => Sys2Proof.Machine.execFmin w s
  | .fmax w => Sys2Proof.Machine.execFmax w s
  | .fabs w => Sys2Proof.Machine.execFabs w s
  | .fneg w => Sys2Proof.Machine.execFneg w s
  | .frcp w => Sys2Proof.Machine.execFrcp w s
  | .frsq w => Sys2Proof.Machine.execFrsq w s
  | .fsqrt w => Sys2Proof.Machine.execFsqrt w s
  | .fcmpeq w => Sys2Proof.Machine.execFcmpeq w s
  | .fcmpne w => Sys2Proof.Machine.execFcmpne w s
  | .fcmplt w => Sys2Proof.Machine.execFcmplt w s
  | .fcmple w => Sys2Proof.Machine.execFcmple w s
  | .fcmpun w => Sys2Proof.Machine.execFcmpun w s
  | .fclass w => Sys2Proof.Machine.execFclass w s
  | .fcvt w => Sys2Proof.Machine.execFcvt w s
  | .icvt w => Sys2Proof.Machine.execIcvt w s
  | .ftoi w => Sys2Proof.Machine.execFtoi w s
  | .frnd w => Sys2Proof.Machine.execFrnd w s
  | .vaddmin w => Sys2Proof.Machine.execVaddmin w s
  | .vminidx w => Sys2Proof.Machine.execVminidx w s
  | .vmaxidx w => Sys2Proof.Machine.execVmaxidx w s
  | .vlsh w => Sys2Proof.Machine.execVlsh w s
  | .vlsr w => Sys2Proof.Machine.execVlsr w s
  | .vperm w => Sys2Proof.Machine.execVperm w s
  | .vbcast w => Sys2Proof.Machine.execVbcast w s
  | .vextr w => Sys2Proof.Machine.execVextr w s
  | .vins w => Sys2Proof.Machine.execVins w s
  | .vpack w => Sys2Proof.Machine.execVpack w s
  | .vunpk w => Sys2Proof.Machine.execVunpk w s
  | .vred w => Sys2Proof.Machine.execVred w s
  | .vscan w => Sys2Proof.Machine.execVscan w s
  | .vdot4 w => Sys2Proof.Machine.execVdot4 w s
  | .cmul w => Sys2Proof.Machine.execCmul w s
  | .cmac w => Sys2Proof.Machine.execCmac w s
  | .cconj w => Sys2Proof.Machine.execCconj w s
  | .cmulj w => Sys2Proof.Machine.execCmulj w s
  | .cmag2 w => Sys2Proof.Machine.execCmag2 w s
  | .maxabs w => Sys2Proof.Machine.execMaxabs w s
  | .bfpenc w => Sys2Proof.Machine.execBfpenc w s
  | .bfpdec w => Sys2Proof.Machine.execBfpdec w s
  | .planesplit w => Sys2Proof.Machine.execPlanesplit w s
  | .planejoin w => Sys2Proof.Machine.execPlanejoin w s
  | .isect w => Sys2Proof.Machine.execIsect w s
  | .union w => Sys2Proof.Machine.execUnion w s
  | .ldc w => Sys2Proof.Machine.execLdc w s
  | .stc w => Sys2Proof.Machine.execStc w s
  | .stcr w => Sys2Proof.Machine.execStcr w s
  | .ldcf w => Sys2Proof.Machine.execLdcf w s
  | .clreCell w => Sys2Proof.Machine.execClreCell w s
  | .lds w => Sys2Proof.Machine.execLds w s
  | .sts w => Sys2Proof.Machine.execSts w s
  | .ldsf w => Sys2Proof.Machine.execLdsf w s
  | .clreSbuf w => Sys2Proof.Machine.execClreSbuf w s
  | .ldg w => Sys2Proof.Machine.execLdg w s
  | .stg w => Sys2Proof.Machine.execStg w s
  | .syrd w => Sys2Proof.Machine.execSyrd w s
  | .sywr w => Sys2Proof.Machine.execSywr w s
  | .stream w => Sys2Proof.Machine.execStream w s
  | .copy w => Sys2Proof.Machine.execCopy w s
  | .ctradd w => Sys2Proof.Machine.execCtradd w s
  | .waitge w => Sys2Proof.Machine.execWaitge w s
  | .ctrrd w => Sys2Proof.Machine.execCtrrd w s
  | .qpush w => Sys2Proof.Machine.execQpush w s
  | .qpop w => Sys2Proof.Machine.execQpop w s
  | .qcount w => Sys2Proof.Machine.execQcount w s
  | .own w => Sys2Proof.Machine.execOwn w s
  | .atadd w => Sys2Proof.Machine.execAtadd w s
  | .atmin w => Sys2Proof.Machine.execAtmin w s
  | .atmax w => Sys2Proof.Machine.execAtmax w s
  | .atand w => Sys2Proof.Machine.execAtand w s
  | .ator w => Sys2Proof.Machine.execAtor w s
  | .atxor w => Sys2Proof.Machine.execAtxor w s
  | .atxchg w => Sys2Proof.Machine.execAtxchg w s
  | .atcas w => Sys2Proof.Machine.execAtcas w s
  | .atfadd w => Sys2Proof.Machine.execAtfadd w s
  | .atfrd w => Sys2Proof.Machine.execAtfrd w s
  | .join w => Sys2Proof.Machine.execJoin w s
  | .gjoin w => Sys2Proof.Machine.execGjoin w s
  | .gleave w => Sys2Proof.Machine.execGleave w s
  | .garrive w => Sys2Proof.Machine.execGarrive w s
  | .gdrop w => Sys2Proof.Machine.execGdrop w s
  | .gwait w => Sys2Proof.Machine.execGwait w s
  | .fenceI w => Sys2Proof.Machine.execFenceI w s
  | .fenceD w => Sys2Proof.Machine.execFenceD w s
  | .fenceP w => Sys2Proof.Machine.execFenceP w s
  | .fenceS w => Sys2Proof.Machine.execFenceS w s
  | .time w => Sys2Proof.Machine.execTime w s
  | .slotrd w => Sys2Proof.Machine.execSlotrd w s
  | .trap w => Sys2Proof.Machine.execTrap w s
  | .tcpyin w => Sys2Proof.Machine.execTcpyin w s
  | .tcpyout w => Sys2Proof.Machine.execTcpyout w s
  | .xlate w => Sys2Proof.Machine.execXlate w s
  | .rdlvl w => Sys2Proof.Machine.execRdlvl w s
  | .qpPass a im => Sys2Proof.Machine.execQpPass a im s
  | .qpSkip a im => Sys2Proof.Machine.execQpSkip a im s
  | .qpFail a im => Sys2Proof.Machine.execQpFail a im s
  | .qpLdi a im => Sys2Proof.Machine.execQpLdi a im s
  | .qpMov a b => Sys2Proof.Machine.execQpMov a b s
  | .qpAdd a b => Sys2Proof.Machine.execQpAdd a b s
  | .qpSub a b => Sys2Proof.Machine.execQpSub a b s
  | .qpAnd a b => Sys2Proof.Machine.execQpAnd a b s
  | .qpOr a b => Sys2Proof.Machine.execQpOr a b s
  | .qpXor a b => Sys2Proof.Machine.execQpXor a b s
  | .qpShl a b => Sys2Proof.Machine.execQpShl a b s
  | .qpShr a b => Sys2Proof.Machine.execQpShr a b s
  | .qpAddi a im => Sys2Proof.Machine.execQpAddi a im s
  | .qpAndi a im => Sys2Proof.Machine.execQpAndi a im s
  | .qpOri a im => Sys2Proof.Machine.execQpOri a im s
  | .qpShli a im => Sys2Proof.Machine.execQpShli a im s
  | .qpShri a im => Sys2Proof.Machine.execQpShri a im s
  | .qpLdp a b => Sys2Proof.Machine.execQpLdp a b s
  | .qpStp a b => Sys2Proof.Machine.execQpStp a b s
  | .qpLdpi a im => Sys2Proof.Machine.execQpLdpi a im s
  | .qpStpi a im => Sys2Proof.Machine.execQpStpi a im s
  | .qpLdq a b => Sys2Proof.Machine.execQpLdq a b s
  | .qpStq a b => Sys2Proof.Machine.execQpStq a b s
  | .qpLdqi a im => Sys2Proof.Machine.execQpLdqi a im s
  | .qpStqi a im => Sys2Proof.Machine.execQpStqi a im s
  | .qpTeq a b => Sys2Proof.Machine.execQpTeq a b s
  | .qpTltu a b => Sys2Proof.Machine.execQpTltu a b s
  | .qpTeqi a im => Sys2Proof.Machine.execQpTeqi a im s
  | .qpBrt im => Sys2Proof.Machine.execQpBrt im s
  | .qpBrf im => Sys2Proof.Machine.execQpBrf im s
  | .qpJmp im => Sys2Proof.Machine.execQpJmp im s
  | .qpLoopn a n => Sys2Proof.Machine.execQpLoopn a n s
  | .mnop => Sys2Proof.Machine.execMnop s
  | .mldw ta src port row wk pl mid => Sys2Proof.Machine.execMldw ta src port row wk pl mid s
  | .mswap => Sys2Proof.Machine.execMswap s
  | .mmul ta td row nr z alt => Sys2Proof.Machine.execMmul ta td row nr z alt s
  | .macc ta td row nr z alt => Sys2Proof.Machine.execMacc ta td row nr z alt s
  | .mzero td row nr => Sys2Proof.Machine.execMzero td row nr s
  | .mout ta dst pq pidx fmt row nr => Sys2Proof.Machine.execMout ta dst pq pidx fmt row nr s
  | .mcvt ta td row nr sk df rm => Sys2Proof.Machine.execMcvt ta td row nr sk df rm s
  | .mtrans ta td row drow es => Sys2Proof.Machine.execMtrans ta td row drow es s
  | .mcopy ta td row nr drow => Sys2Proof.Machine.execMcopy ta td row nr drow s
  | .mfill td row nr pidx => Sys2Proof.Machine.execMfill td row nr pidx s
  | .madd ta tb td row nr kd => Sys2Proof.Machine.execMadd ta tb td row nr kd s
  | .mlda td port row nr => Sys2Proof.Machine.execMlda td port row nr s
  | .mmask nact kact => Sys2Proof.Machine.execMmask nact kact s
  | .mact ta td row nr fn ki => Sys2Proof.Machine.execMact ta td row nr fn ki s
  | .mbfly ta nt rad sc inv pidx => Sys2Proof.Machine.execMbfly ta nt rad sc inv pidx s
  | .mbrev ta td nt pidx => Sys2Proof.Machine.execMbrev ta td nt pidx s
  | .mtwid td nt inv pidx => Sys2Proof.Machine.execMtwid td nt inv pidx s
  | .mscale ta row nr sh => Sys2Proof.Machine.execMscale ta row nr sh s
  | .mbexpSet ta v => Sys2Proof.Machine.execMbexpSet ta v s
  | .mbexpOut ta oport => Sys2Proof.Machine.execMbexpOut ta oport s
  | .msatclr ta => Sys2Proof.Machine.execMsatclr ta s
  | .mcmul ta tb td row nr cj => Sys2Proof.Machine.execMcmul ta tb td row nr cj s
  | .mconj ta td row nr => Sys2Proof.Machine.execMconj ta td row nr s
  | .spacc td pc pv l => Sys2Proof.Machine.execSpacc td pc pv l s
  | .spzero td => Sys2Proof.Machine.execSpzero td s
  | .spout ta oc ov l clr => Sys2Proof.Machine.execSpout ta oc ov l clr s
  | .spmerge ta td => Sys2Proof.Machine.execSpmerge ta td s
  | .msig oport k iport => Sys2Proof.Machine.execMsig oport k iport s
  | .nopPacket p => Sys2Proof.Machine.execNopPacket p s
  | .launch p => Sys2Proof.Machine.execLaunch p s
  | .preload p => Sys2Proof.Machine.execPreload p s
  | .copyPacket p => Sys2Proof.Machine.execCopyPacket p s
  | .signal p => Sys2Proof.Machine.execSignal p s
  | .waitgePacket p => Sys2Proof.Machine.execWaitgePacket p s
  | .callPacket p => Sys2Proof.Machine.execCallPacket p s
  | .returnPacket p => Sys2Proof.Machine.execReturnPacket p s
  | .lend p => Sys2Proof.Machine.execLend p s
  | .reclaim p => Sys2Proof.Machine.execReclaim p s
  | .steerPacket p => Sys2Proof.Machine.execSteerPacket p s
  | .fencePacket p => Sys2Proof.Machine.execFencePacket p s
  | .waittime p => Sys2Proof.Machine.execWaittime p s
  | .mark p => Sys2Proof.Machine.execMark p s
  | .packageReset b => Sys2Proof.Machine.execPackageReset b s
  | .pkgrstGo v b => Sys2Proof.Machine.execPkgrstGo v b s
  | .dierstGo v => Sys2Proof.Machine.execDierstGo v s
  | .dieResetDone die => Sys2Proof.Machine.execDieResetDone die s
  | .avsCheck die margin => Sys2Proof.Machine.execAvsCheck die margin s
  | .powerSample watts => Sys2Proof.Machine.execPowerSample watts s
  | .pwrOvercap => Sys2Proof.Machine.execPwrOvercap s
  | .powerLimitLift => Sys2Proof.Machine.execPowerLimitLift s
  | .pwrcapWrite l v => Sys2Proof.Machine.execPwrcapWrite l v s
  | .thermSample die temp => Sys2Proof.Machine.execThermSample die temp s
  | .stripeSend leg => Sys2Proof.Machine.execStripeSend leg s
  | .stripeReceive hop err => Sys2Proof.Machine.execStripeReceive hop err s
  | .ackReceive leg => Sys2Proof.Machine.execAckReceive leg s
  | .ackTimer leg => Sys2Proof.Machine.execAckTimer leg s
  | .railRetrain fin rail ok => Sys2Proof.Machine.execRailRetrain fin rail ok s
  | .timeProbe fin => Sys2Proof.Machine.execTimeProbe fin s
  | .timeReply fin trip turn => Sys2Proof.Machine.execTimeReply fin trip turn s
  | .rerouteInstall what path => Sys2Proof.Machine.execRerouteInstall what path s
  | .linkSeveredTimeout leg => Sys2Proof.Machine.execLinkSeveredTimeout leg s
  | .stqrelLookup l v => Sys2Proof.Machine.execStqrelLookup l v s
  | .stqrelRelease l v => Sys2Proof.Machine.execStqrelRelease l v s
  | .cmdLinkChange port up => Sys2Proof.Machine.execCmdLinkChange port up s
  | .notePortSwitch => Sys2Proof.Machine.execNotePortSwitch s
  | .kcpFrameReceive f => Sys2Proof.Machine.execKcpFrameReceive f s
  | .kcpReassemblyTimeout sess msgid => Sys2Proof.Machine.execKcpReassemblyTimeout sess msgid s
  | .hello => Sys2Proof.Machine.execHello s
  | .confirm => Sys2Proof.Machine.execConfirm s
  | .close dev => Sys2Proof.Machine.execClose dev s
  | .sessionOpenTimeout sess => Sys2Proof.Machine.execSessionOpenTimeout sess s
  | .sessionTimeout sess => Sys2Proof.Machine.execSessionTimeout sess s
  | .kick => Sys2Proof.Machine.execKick s
  | .regrd => Sys2Proof.Machine.execRegrd s
  | .regwr => Sys2Proof.Machine.execRegwr s
  | .stage => Sys2Proof.Machine.execStage s
  | .attreq => Sys2Proof.Machine.execAttreq s
  | .doorbellWrite fn off size v => Sys2Proof.Machine.execDoorbellWrite fn off size v s
  | .pcieLinkChange up rate width => Sys2Proof.Machine.execPcieLinkChange up rate width s
  | .vfFlr vf => Sys2Proof.Machine.execVfFlr vf s
  | .pfFlr => Sys2Proof.Machine.execPfFlr s
  | .flrDone fn => Sys2Proof.Machine.execFlrDone fn s
  | .hostRequestTimeout acc => Sys2Proof.Machine.execHostRequestTimeout acc s
  | .fhFrameReceive f => Sys2Proof.Machine.execFhFrameReceive f s
  | .fhdlyreqGo l v => Sys2Proof.Machine.execFhdlyreqGo l v s
  | .downlinkSend entry => Sys2Proof.Machine.execDownlinkSend entry s
  | .fhstcmdWrite l v => Sys2Proof.Machine.execFhstcmdWrite l v s
  | .fhstcmdRead l v => Sys2Proof.Machine.execFhstcmdRead l v s
  | .fhstcmdInvalidate l v => Sys2Proof.Machine.execFhstcmdInvalidate l v s
  | .fhlpcfgWrite l lp v => Sys2Proof.Machine.execFhlpcfgWrite l lp v s
  | .ptpMessage lp m => Sys2Proof.Machine.execPtpMessage lp m s
  | .esmcMessage lp ql => Sys2Proof.Machine.execEsmcMessage lp ql s
  | .timeLock ptp => Sys2Proof.Machine.execTimeLock ptp s
  | .timeHoldover cause => Sys2Proof.Machine.execTimeHoldover cause s
  | .timeSlewEnd => Sys2Proof.Machine.execTimeSlewEnd s
  | .queueEnable l q v => Sys2Proof.Machine.execQueueEnable l q v s
  | .queueDisable l q v => Sys2Proof.Machine.execQueueDisable l q v s
  | .qctlRetry l q v => Sys2Proof.Machine.execQctlRetry l q v s
  | .qctlSkip l q v => Sys2Proof.Machine.execQctlSkip l q v s
  | .qctlReset l q v => Sys2Proof.Machine.execQctlReset l q v s
  | .qpwinWrite l q v => Sys2Proof.Machine.execQpwinWrite l q v s
  | .qpctlLoad l q v => Sys2Proof.Machine.execQpctlLoad l q v s
  | .packetParse q => Sys2Proof.Machine.execPacketParse q s
  | .waitgePacketTimeout q => Sys2Proof.Machine.execWaitgePacketTimeout q s
  | .eventRingEnable l e v => Sys2Proof.Machine.execEventRingEnable l e v s
  | .eventRecordWrite e => Sys2Proof.Machine.execEventRecordWrite e s
  | .eventRingRetry e => Sys2Proof.Machine.execEventRingRetry e s
  | .fwctlStart w v => Sys2Proof.Machine.execFwctlStart w v s
  | .fwctlAbort w v => Sys2Proof.Machine.execFwctlAbort w v s
  | .fwctlReady w v => Sys2Proof.Machine.execFwctlReady w v s
  | .fwctlSerialised w v => Sys2Proof.Machine.execFwctlSerialised w v s
  | .fwctlDeltaDone w v => Sys2Proof.Machine.execFwctlDeltaDone w v s
  | .fwctlTakenOver w v => Sys2Proof.Machine.execFwctlTakenOver w v s
  | .fwctlReplayed w v => Sys2Proof.Machine.execFwctlReplayed w v s
  | .handoverBegin => Sys2Proof.Machine.execHandoverBegin s
  | .startTimeout => Sys2Proof.Machine.execStartTimeout s
  | .serialTimeout => Sys2Proof.Machine.execSerialTimeout s
  | .handoverTimeout => Sys2Proof.Machine.execHandoverTimeout s
  | .fallbackTimeout => Sys2Proof.Machine.execFallbackTimeout s
  | .fwhbWrite w v => Sys2Proof.Machine.execFwhbWrite w v s
  | .heartbeatMiss => Sys2Proof.Machine.execHeartbeatMiss s
  | .commit => Sys2Proof.Machine.execCommit s
  | .hcqpop l v => Sys2Proof.Machine.execHcqpop l v s
  | .allot ticket => Sys2Proof.Machine.execAllot ticket s
  | .release ticket => Sys2Proof.Machine.execRelease ticket s
  | .ptmap ticket => Sys2Proof.Machine.execPtmap ticket s
  | .ptunmap ticket => Sys2Proof.Machine.execPtunmap ticket s
  | .pten ticket => Sys2Proof.Machine.execPten ticket s
  | .sbwin ticket => Sys2Proof.Machine.execSbwin ticket s
  | .islown ticket => Sys2Proof.Machine.execIslown ticket s
  | .parten ticket => Sys2Proof.Machine.execParten ticket s
  | .keyload ticket => Sys2Proof.Machine.execKeyload ticket s
  | .keyclr ticket => Sys2Proof.Machine.execKeyclr ticket s
  | .slotClockEnable l c v => Sys2Proof.Machine.execSlotClockEnable l c v s
  | .schedulerSelect => Sys2Proof.Machine.execSchedulerSelect s
  | .contextLoadDone load => Sys2Proof.Machine.execContextLoadDone load s
  | .contextSave thread => Sys2Proof.Machine.execContextSave thread s
  | .loadWaitTimeout load => Sys2Proof.Machine.execLoadWaitTimeout load s
  | .deadlinePass thread => Sys2Proof.Machine.execDeadlinePass thread s
  | .arbiterWindow isl cell => Sys2Proof.Machine.execArbiterWindow isl cell s
  | .tokenAccept n fails => Sys2Proof.Machine.execTokenAccept n fails s
  | .frameCommit thread => Sys2Proof.Machine.execFrameCommit thread s
  | .escapeVisit die => Sys2Proof.Machine.execEscapeVisit die s
  | .ctrBoundArrival isl slot unit => Sys2Proof.Machine.execCtrBoundArrival isl slot unit s
  | .permitReturn isl slot unit => Sys2Proof.Machine.execPermitReturn isl slot unit s
  | .ownerUpdateApply isl slot cell vc => Sys2Proof.Machine.execOwnerUpdateApply isl slot cell vc s
  | .spillRefill isl slot idx => Sys2Proof.Machine.execSpillRefill isl slot idx s
  | .streamElement die ag => Sys2Proof.Machine.execStreamElement die ag s
  | .copyUnit die ce => Sys2Proof.Machine.execCopyUnit die ce s
  | .copyResume die ce => Sys2Proof.Machine.execCopyResume die ce s
  | .accessComplete id ecc => Sys2Proof.Machine.execAccessComplete id ecc s
  | .fullEmptyWake id => Sys2Proof.Machine.execFullEmptyWake id s
  | .waitgeWake id => Sys2Proof.Machine.execWaitgeWake id s
  | .gwaitWake id => Sys2Proof.Machine.execGwaitWake id s
  | .tlbinvGo l v => Sys2Proof.Machine.execTlbinvGo l v s
  | .tlbinvComplete => Sys2Proof.Machine.execTlbinvComplete s
  | .faultPark thread => Sys2Proof.Machine.execFaultPark thread s
  | .threadStop thread => Sys2Proof.Machine.execThreadStop thread s
  | .fltpop l v => Sys2Proof.Machine.execFltpop l v s
  | .faultResume l v => Sys2Proof.Machine.execFaultResume l v s
  | .faultTerminate l v => Sys2Proof.Machine.execFaultTerminate l v s
  | .shadowMove die row => Sys2Proof.Machine.execShadowMove die row s
  | .cellReplay cell r => Sys2Proof.Machine.execCellReplay cell r s
  | .cellMigration cell r => Sys2Proof.Machine.execCellMigration cell r s
  | .suspDecay cell => Sys2Proof.Machine.execSuspDecay cell s
  | .relcfgWrite l die v => Sys2Proof.Machine.execRelcfgWrite l die v s
  | .sysRegisterWrite l addr v => Sys2Proof.Machine.execSysRegisterWrite l addr v s
  | .engineHandlerDispatch isl e => Sys2Proof.Machine.execEngineHandlerDispatch isl e s
  | .streamSpecAccept die ag => Sys2Proof.Machine.execStreamSpecAccept die ag s
  | .copyRequestStart die ce => Sys2Proof.Machine.execCopyRequestStart die ce s
  | .fhLinkTraining port up => Sys2Proof.Machine.execFhLinkTraining port up s
  | .functionBind part fn => Sys2Proof.Machine.execFunctionBind part fn s
  | .ptpMessageSend lp m => Sys2Proof.Machine.execPtpMessageSend lp m s
  | .esmcMessageSend lp ql => Sys2Proof.Machine.execEsmcMessageSend lp ql s

end Sys2Proof.Machine
end

