-- ==== Sys2Proof/Machine/Inputs.lean ====
section
/-! DEFINITION. Inputs from outside beside the unit events: upsets of storage, host writes and aborts, accesses to BAR0, the mask
of vectors and VF Enable. -/
namespace Sys2Proof.Machine

/-- An upset of a bank word or of a line of HBM4 shows at its next read (R203, R288). -/
def takeUpset (s : State) (key kind : Nat) : State :=
  if 3 < kind ∨ tileBase ≤ key ∨ (sbufBase ≤ key ∧ key < cellBase) then s
  else setSoft s (if key < sbufBase then key / 64 * 64 else key / 4 * 4) kind

/-- An uncorrectable error in the storage of a context poisons its slot with FLT_CTX_UNCORR (R195, R272). A context that is
loading or armed holds the fault for its frame's entry; in the executing frame its thread stops at once (log entry 67). -/
def takeCtxUpset (s : State) (isl slot : Nat) : State :=
  let c := ctxAt s isl slot
  match c.st with
  | .free | .poisoned => s
  | .loading => setCtx s isl slot { c with held := some (c.held.getD { code := 0x9023, detail := 0 }) }
  | .armed => setCtx s isl slot { c with st := .poisoned, held := some (c.held.getD { code := 0x9023, detail := 0 }) }
  | .active | .halted =>
    (match c.thread with
     | some t => threadFault s t { code := 0x9023, atEntry := true, block := c.blkIdx }
     | none => s)

/-- Offset 0x0100000 + o of the PF's BAR0 is the IOD register at o (R58). -/
def barReg (off : Nat) : Nat := 8 * 2 ^ 25 + (off - 0x100000)

/-- A read of BAR0 (R58, R59): a doorbell gives the queue's current producer index, the PF's window an IOD register at level S;
any other read, one of another size or of a function in reset gives 0. -/
def barRead (s : State) (fn off size : Nat) : Word :=
  if 16 < fn ∨ !fnLive s fn ∨ size ≠ 4 then 0
  else if off < 0x40000 then (if off % 4096 ≠ 0 then 0 else (queueAt s (off / 4096)).pi)
  else if fn ≠ 0 ∨ off < 0x100000 ∨ 0x2000000 ≤ off ∨ off % 4 ≠ 0 then 0
  else sysRead s false (barReg off)

/-- A write of BAR0 beyond the doorbells: the PF's window reaches the IOD registers at level S. -/
def barWrite (s : State) (fn off size v : Nat) : State :=
  if fn ≠ 0 ∨ !fnLive s fn ∨ size ≠ 4 ∨ off < 0x100000 ∨ 0x2000000 ≤ off ∨ off % 4 ≠ 0 then s
  else sysWrite s (activeWriter s) false (barReg off) (BitVec.ofNat 32 v)

/-- A firing whose outputs are in the check stage turns out to have consumed an uncorrectable error from an operand buffer or a
VC buffer (R272). -/
def takeFiringUpset (s : State) (isl slot cell k firing : Nat) : State :=
  if (firingOf s isl slot cell k firing).isSome then failFiring s { isl := isl, slot := slot, cell := cell, k := k } firing [] else s

def takeInput (s : State) (x : Input) : State :=
  match x with
  | .upset key kind => takeUpset s key kind
  | .upsetCtx isl slot => takeCtxUpset s isl slot
  | .upsetFiring isl slot cell k firing => takeFiringUpset s isl slot cell k firing
  | .hostWrite addr l => if s.pcie.up then wrBytes s (hostBase + addr) l else s
  | .hostAbort fn => { s with pcie := { s.pcie with abort := s.pcie.abort.set false fn true } }
  | .barRead fn off size => emitOut { s with freeCount := s.freeCount + 1 } (.barData fn off (barRead s fn off size))
  | .barWrite fn off size v =>
    if off < 0x40000 then (match execDoorbellWrite fn off size (BitVec.ofNat 32 v) s with | .next s => s | _ => s)
    else barWrite s fn off size v
  | .vectorMask fn vec on =>
    if vectorsOf fn ≤ vec then s else { s with pcie := { s.pcie with masked := s.pcie.masked.set false (64 * fn + vec) on } }
  | .vfEnable on => if s.pcie.pfFlr then s else { s with pcie := { s.pcie with vfEn := on } }
  | .straitsTrained => straitsTrained s

end Sys2Proof.Machine
end

