-- ==== Sys2Proof/Machine/Step.lean ====
section
/-! DEFINITION. One step of the machine: the move at the head of the agenda, or a free move when the agenda is empty;
and where an instruction is put so that the next step runs it. -/
namespace Sys2Proof.Machine

/-- Whether an operator of a slot would act now: its meaning changes the state (R182: it is ready). -/
def slotReady (s : State) (isl cell k : Nat) : Bool :=
  match fetchFire s isl cell k with
  | none => false
  | some (s1, w) =>
    match decodeOp w with
    | .error _ => true
    | .ok i =>
      match exec i s1 with
      | .next t => decide (t ≠ s1)
      | _ => true

/-- The ready slots of a cell. -/
def readySlots (s : State) (isl cell : Nat) : List Nat := eight.filter (slotReady s isl cell)

/-- An issue cycle of a cell in which slot K is to fire: it does if it is the arbiter's choice (R182, R183). -/
def stepFire (s : State) (isl cell k : Nat) : Host.Outcome State Fault Refusal :=
  match fetchFire s isl cell k with
  | none => .next s
  | some (s1, w) =>
    match decodeOp w with
    | .error _ => .fault .illegalWord
    | .ok i =>
      let rdy := readySlots s isl cell
      let c := curCtx s1
      if !issueCycle s isl ∨ !checkRoom s isl cell ∨ cellFailed s isl cell then .next s
      else if rdy = [] then .next (modCtx s isl s1.cur.slot (fun c => arbAfter c cell [] k eight))
      else if arbPick c cell rdy = some k then exec i (modCtx s1 isl s1.cur.slot (fun c => arbAfter c cell rdy k eight))
      else .next s

/-- One bytecode of a queue's program. -/
def stepBytecode (s : State) (q : Nat) : Host.Outcome State Fault Refusal :=
  match fetchBytecode s q with
  | none => .next s
  | some (s1, w) =>
    match decodeQp w with
    | .error _ => .fault .illegalWord
    | .ok i => exec i s1

/-- The parsed packet of a queue is checked and issued, or waits. -/
def stepIssue (s : State) (q : Nat) : Host.Outcome State Fault Refusal :=
  match (queueAt s q).pkt with
  | none => .next s
  | some p =>
    match decodePacket p with
    | .error _ => badType { s with cur := { q := q } } q
    | .ok i => exec i { s with cur := { q := q } }

/-- One work row of an engine's handler. -/
def stepMicro (s : State) (isl e : Nat) : Host.Outcome State Fault Refusal :=
  match fetchMicro s isl e with
  | none => .next s
  | some (s1, w) =>
    if issueLimited s isl then .next s
    else
    match decodeMicro w with
    | .error _ => .fault .illegalWord
    | .ok i => exec i s1

/-- What a move does. -/
def stepAct (s : State) (a : Action) : Host.Outcome State Fault Refusal :=
  match a with
  | .fire isl cell k => if heldInReset s then .next s else stepFire s isl cell k
  | .bytecode q => if heldInReset s then .next s else stepBytecode s q
  | .issue q => if heldInReset s then .next s else stepIssue s q
  | .check isl cell => if heldInReset s then .next s else .next (passOldest s isl cell)
  | .micro isl e => if heldInReset s then .next s else stepMicro s isl e
  | .input x => if heldInReset s then .next s else .next (takeInput s x)
  | .event i =>
    match i with
    | .packageReset _ => exec i s
    | _ => if heldInReset s then .next s else exec i s

/-- One step: the next move of the agenda after the time that passes before it. With an empty agenda the next move is
a free value. -/
def step (s : State) : Host.Outcome State Fault Refusal :=
  match s.agenda with
  | [] => .next { s with agenda := [Config.freeMove s.freeCount], freeCount := s.freeCount + 1 }
  | m :: rest => stepAct (passTime { s with agenda := rest } m.cycles m.dt) m.act

/-- `s` with the instruction whose bits are `w` where the next step runs it: a bytecode in queue 0's program, a
micro-operation in a handler record of engine 0 of island 0, an operator in slot c0.0 of island 0's slot 0. -/
def State.withFetchWord (s : State) (nbits w : Nat) : State :=
  if nbits = 16 then
    let s := setQueue s 0 { queueAt s 0 with prog := [(0, BitVec.ofNat 32 w)], run := some {} }
    { s with agenda := [{ cycles := 0, dt := 0, act := .bytecode 0 }] }
  else if nbits = 32 then
    let c := ctxAt s 0 0
    let h : HndCfg := { eng := 0, tag := 0, words := [BitVec.ofNat 32 w] }
    let g : EngCtx := { engAt c 0 with busy := true, mop := 0, tag := 0, work := [.handler] }
    let s := setCtx s 0 0 { c with st := .active, block := { c.block with hnds := [h] }, eng := [(0, g)] }
    { s with agenda := [{ cycles := 0, dt := 0, act := .micro 0 0 }] }
  else
    let c := ctxAt s 0 0
    let s := setCtx s 0 0 { c with st := .active, block := { c.block with insts := [BitVec.ofNat 64 w] } }
    { s with agenda := [{ cycles := 0, dt := 0, act := .fire 0 0 0 }] }

end Sys2Proof.Machine
end

