-- ==== Sys2Proof/Safety.lean ====
section
/-! DEFINITION. What counts as a safe run, the invariants, and the terms in which the claims about the machine are
stated. -/
namespace Sys2Proof.Machine

/-! ## Safe runs -/

/-- A step that does not stop. -/
def Proceeds (s : State) : Prop := ∃ t, step s = .next t

/-- A run of `n` steps that never stops. -/
def SafeFor : Nat → State → Prop
  | 0, _ => True
  | n + 1, s => ∃ t, step s = .next t ∧ SafeFor n t

/-- Every table that stands for byte-addressed storage or a mark on it is in canonical form. -/
def Inv (s : State) : Prop :=
  Memory.wf s.mem = true ∧ Tab.wf false s.full = true ∧ Tab.wf false s.poison = true ∧ Tab.wf false s.uncorr = true ∧
  Tab.wf 0 s.soft = true

/-! ## Firings -/

/-- The instruction, at the executing slot, completes as the firing `f`: it fires whenever its context is active, no
fault has stopped the slot and its outputs have room (R182). -/
def FiresAs (i : Instr) (s : State) (t0 t1 : Target) (f : Fire) : Prop :=
  mayFire s = true → room s t0 t1 f.outs = true → exec i s = .next (commit s t0 t1 f)

/-- The predicate lets a firing that consumes data on a perform (R328). -/
def predOn (w : OpA) (ins : Ins) : Prop := w.pred = .always ∨ ∃ v, ins.p = .data v ∧ predHolds w.pred ins.fp v = true

/-- The predicate's condition is false. -/
def predOff (w : OpA) (ins : Ins) : Prop := w.pred ≠ .always ∧ ∃ v, ins.p = .data v ∧ predHolds w.pred ins.fp v = false

/-- The stop on p that goes with a stop of level l on a (R328). -/
def predStop (w : OpA) (ins : Ins) (l : Nat) : Prop := w.pred = .always ∨ ins.p = .stop l

/-- p is consumed by a predicated firing. -/
def withP (m : PredMode) (l : List Pos) : List Pos := if m = .always then l else l ++ [.p]

/-- Operand b presents `y`, or the immediate stands for it (R186). -/
def dataB (w : OpA) (ins : Ins) (y : Nat) : Prop := w.ib = false → ins.b = .data y
def stopB (w : OpA) (ins : Ins) (l : Nat) : Prop := w.ib = false → ins.b = .stop l

def eatAB (w : OpA) : List Pos := if w.ib then [.a] else [.a, .b]

/-- Integer lanes of B (R186, R311), float lanes of B. -/
def bInts (w : OpA) (ins : Ins) (y : Nat) : List Nat :=
  if w.ib then lanesImm w.ty w.imm.toNat else intLanes w.ty ins.fb y
def bFloats (w : OpA) (ins : Ins) (y : Nat) : List Nat :=
  if w.ib then lanesImm w.ty w.imm.toNat else floatLanes w.ty ins.fb ins.hb y

/-- Three lists lane by lane. -/
def zipLanes {α : Type} (f : Nat → Nat → Nat → α) (a b c : List Nat) : List α :=
  List.zipWith (fun (g : Nat → α) z => g z) (List.zipWith f a b) c

/-- What a firing leaves alone outside its own context, its thread and the tokens in flight: memory with its marks, the
queues, rings, straits, host interfaces, firmware, package and translation state, and time. -/
def SameMachine (s t : State) : Prop :=
  t.mem = s.mem ∧ t.full = s.full ∧ t.poison = s.poison ∧ t.uncorr = s.uncorr ∧ t.soft = s.soft ∧ t.turn = s.turn ∧ t.physT = s.physT ∧ t.gens = s.gens ∧
  t.ces = s.ces ∧ t.sports = s.sports ∧ t.queues = s.queues ∧ t.rings = s.rings ∧ t.devOverflow = s.devOverflow ∧
  t.straits = s.straits ∧ t.link = s.link ∧ t.pcie = s.pcie ∧ t.fh = s.fh ∧ t.time = s.time ∧ t.fw = s.fw ∧
  t.flash = s.flash ∧ t.pkg = s.pkg ∧ t.xl = s.xl ∧ t.faults = s.faults ∧ t.rel = s.rel ∧ t.out = s.out ∧
  t.cycle = s.cycle ∧ t.dtime = s.dtime ∧ t.cur = s.cur ∧ t.agenda = s.agenda

end Sys2Proof.Machine
end

