-- ==== Sys2Proof/Certificates/Slice0/Obligations.lean ====
section
/-! DEFINITION. The statements for the provers. A group of instructions of one shape is a table (constructor, what it
computes) and one statement over the table. -/
namespace Sys2Proof.Claims
open Sys2Proof.Machine

/-! ## Tables of operators -/

/-- Two-operand integer forms: what a lane is computed from the lane patterns of A and B (R361 to R367). -/
def intPairs : List ((OpA → Instr) × (OpA → Ins → Nat → Nat → Nat)) :=
  [(.add, fun w i a b => let t := tyInt w.ty i.fa; fitTo t (satI w) (t.read a + t.read b)),
   (.sub, fun w i a b => let t := tyInt w.ty i.fa; fitTo t (satI w) (t.read a - t.read b)),
   (.minOp, fun w i a b => let t := tyInt w.ty i.fa; fitTo t (satI w) (min (t.read a) (t.read b))),
   (.maxOp, fun w i a b => let t := tyInt w.ty i.fa; fitTo t (satI w) (max (t.read a) (t.read b))),
   (.mul, fun w i a b => let t := tyInt w.ty i.fa; fitTo t (satI w) (t.read a * t.read b)),
   (.mulh, fun w i a b => let t := tyInt w.ty i.fa; fitTo t (satI w) (t.read a * t.read b / 2 ^ tyWidth w.ty)),
   (.div, fun w i a b => let t := tyInt w.ty i.fa
     fitTo t (satI w) (if t.read b = 0 then (if 0 ≤ t.read a then t.maxv else t.minv) else (t.read a).tdiv (t.read b))),
   (.rem, fun w i a b => let t := tyInt w.ty i.fa
     fitTo t (satI w) (if t.read b = 0 then t.read a else t.read a - t.read b * (t.read a).tdiv (t.read b))),
   (.andOp, fun _ _ a b => a &&& b),
   (.orOp, fun _ _ a b => a ||| b),
   (.xorOp, fun _ _ a b => a ^^^ b),
   (.andn, fun w _ a b => a &&& notLane (tyWidth w.ty) b),
   (.orn, fun w _ a b => a ||| notLane (tyWidth w.ty) b),
   (.shl, fun w i a b => shlLane (tyInt w.ty i.fa) (satI w) a b),
   (.shr, fun w _ a b => if tyWidth w.ty ≤ b then 0 else a / 2 ^ b),
   (.sar, fun w _ a b => modPow (tyWidth w.ty) (sextNat (tyWidth w.ty) a / 2 ^ min b (tyWidth w.ty))),
   (.rol, fun w _ a b => let n := tyWidth w.ty; (a * 2 ^ (b % n) + a / 2 ^ (n - b % n)) % 2 ^ n),
   (.ror, fun w _ a b => let n := tyWidth w.ty; let m := (n - b % n) % n; (a * 2 ^ m + a / 2 ^ (n - m)) % 2 ^ n),
   (.bfx, fun _ i a b => fillScalar (fmtFMT i.fa) (bfxVal a b)),
   (.brev, fun _ i a b => fillScalar (fmtFMT i.fa) (revBits (min (b % 64) 32) a)),
   (.cmpeq, fun w i a b => let t := tyInt w.ty i.fa; if t.read a = t.read b then 1 else 0),
   (.cmpne, fun w i a b => let t := tyInt w.ty i.fa; if t.read a = t.read b then 0 else 1),
   (.cmplt, fun w i a b => let t := tyInt w.ty i.fa; if t.read a < t.read b then 1 else 0),
   (.cmple, fun w i a b => let t := tyInt w.ty i.fa; if t.read a ≤ t.read b then 1 else 0),
   (.cmpgt, fun w i a b => let t := tyInt w.ty i.fa; if t.read b < t.read a then 1 else 0),
   (.cmpge, fun w i a b => let t := tyInt w.ty i.fa; if t.read b ≤ t.read a then 1 else 0)]

/-- One-operand integer forms (R361, R364, R366). -/
def intOnes : List ((OpA → Instr) × (OpA → Ins → Nat → Nat)) :=
  [(.neg, fun w i a => let t := tyInt w.ty i.fa; fitTo t (satI w) (-(t.read a))),
   (.abs, fun w i a => let t := tyInt w.ty i.fa; fitTo t (satI w) ((t.read a).natAbs : Int)),
   (.notOp, fun w _ a => notLane (tyWidth w.ty) a),
   (.clz, fun _ _ a => clzVal a),
   (.ctz, fun _ _ a => ctzVal 32 a),
   (.popc, fun _ _ a => popcVal 32 a),
   (.bswap, fun _ i a => fillScalar (fmtFMT i.fa) (bswapVal a))]

/-- Wide-immediate forms: the result for a data token on a (R369). -/
def wides : List ((OpW → Instr) × (Nat → Nat → Nat → Nat)) :=
  [(.movi, fun _ _ i => i),
   (.addi, fun _ a i => (a + i) % 2 ^ 32),
   (.andi, fun _ a i => a &&& i),
   (.ori, fun _ a i => a ||| i),
   (.xori, fun _ a i => a ^^^ i),
   (.cmplti, fun fa a i => let t := tyInt .i32 fa; if t.read a < t.read i then 1 else 0)]

/-- Float forms over a, and b and c where they use them: the exact value that is rounded once (R388, R389). -/
def floatPairs : List ((OpA → Instr) × (RMode → FVal → FVal → FVal)) :=
  [(.fadd, fun m a b => FVal.sum m [a, b]),
   (.fsub, fun m a b => FVal.sum m [a, b.neg]),
   (.fmul, fun _ a b => a.mul b),
   (.fmin, fun _ a b => a.minT b),
   (.fmax, fun _ a b => a.maxT b)]

def floatOnes : List ((OpA → Instr) × (FVal → FVal)) :=
  [(.fabs, FVal.abs), (.fneg, FVal.neg), (.frcp, FVal.rcp), (.frsq, FVal.rsq), (.fsqrt, FVal.sqrt)]

def floatThrees : List ((OpA → Instr) × (RMode → FVal → FVal → FVal → FVal)) :=
  [(.ffma, fun m a b c => FVal.sum m [a.mul b, c]),
   (.ffms, fun m a b c => FVal.sum m [a.mul b, c.neg])]

/-- Float compares (R390). -/
def floatCmps : List ((OpA → Instr) × (FVal → FVal → Bool)) :=
  [(.fcmpeq, fun a b => a.eqv b),
   (.fcmpne, fun a b => !a.eqv b),
   (.fcmplt, fun a b => a.lt b),
   (.fcmple, fun a b => a.lt b || a.eqv b),
   (.fcmpun, fun a b => a == .nan || b == .nan)]

/-- The forms that align a and b, which may be the immediate, with no operand c (R361 to R367, R388, R390). -/
def alignedForms : List (OpA → Instr) := intPairs.map (·.1) ++ [.adds] ++ floatPairs.map (·.1) ++ floatCmps.map (·.1)

/-- Forms that align the streams a and b, with whether they have operand c (R358, R393, R399). -/
def aligners : List (Bool × (OpA → Instr)) :=
  (alignedForms ++ [Instr.cmul, Instr.cmulj]).map (false, ·) ++
    [Instr.mula, .bfi, .sel, .clamp, .ffma, .ffms, .vaddmin, .cmac].map (true, ·)

/-- Forms whose one stream is a, which take no predicate and which forward its stops to both targets (R187). -/
def oneStreamForms : List (OpA → Instr) :=
  [.fan, .stopgen, .vbcast, .vextr, .vunpk, .vred, .vscan, .bfpenc, .bfpdec, .rdlvl, .qcount]

/-- The same with a predicate (R187, R328). -/
def predicatedOnes : List (OpA → Instr) :=
  intOnes.map (·.1) ++ floatOnes.map (·.1) ++
    [.fclass, .fcvt, .icvt, .ftoi, .frnd, .vminidx, .vmaxidx, .cconj, .cmag2]

/-- What R185 gives the two streams of a form at unlike levels, with `useC` operand c beside them (R358). -/
def Aligns (useC : Bool) (c : OpA → Instr) : Prop :=
  ∀ (w : OpA) (s : State) (l m x y : Nat),
    let ins := insOf s
    let one (p : Pos) : List Pos := if useC then [p, .c] else [p]
    w.ib = false → w.pred = .always →
    (w.mm = .trap → mayFire s = true →
      ((ins.a = .data x ∧ ins.b = .stop l) ∨ (ins.a = .stop l ∧ ins.b = .data y) ∨
        (ins.a = .stop l ∧ ins.b = .stop m ∧ l ≠ m)) →
      exec (c w) s = .next (raiseMismatch s)) ∧
    (w.mm = .trunc →
      ((ins.a = .data x ∧ ins.b = .stop l) ∨ (ins.a = .stop l ∧ ins.b = .stop m ∧ l < m) →
        FiresAs (c w) s w.t0 w.t1 { eat := [.a] }) ∧
      ((ins.a = .stop l ∧ ins.b = .data y) ∨ (ins.a = .stop l ∧ ins.b = .stop m ∧ m < l) →
        FiresAs (c w) s w.t0 w.t1 { eat := [.b] })) ∧
    (w.mm = .pad → ins.a = .stop l → ins.b = .stop m →
      (l < m → (useC = true → ins.c = .stop l) →
        FiresAs (c w) s w.t0 w.t1 { eat := one .a, outs := toBoth (.stop l) }) ∧
      (m < l → (useC = true → ins.c = .stop m) →
        FiresAs (c w) s w.t0 w.t1 { eat := one .b, outs := toBoth (.stop m) })) ∧
    (useC = true → ins.a = .stop l → ins.b = .stop l → ins.c = .stop l →
      FiresAs (c w) s w.t0 w.t1 { eat := [.a, .b, .c], outs := toBoth (.stop l) })

/-! ## What a float form delivers -/

/-- The firing of a float form with exact values `l`: each rounded in F in lane order, the generator word written back
under SR (R384, R300). -/
def floatFire (w : OpA) (ins : Ins) (eat : List Pos) (l : List FVal) : Fire :=
  let r := rndList (Sys2Proof.Machine.tyF w.ty) (rmF w) (satF w) (ins.st.getD 13 0).toNat l
  { eat := eat, outs := toBoth (outLanes w.ty r.1),
    st := if rmF w = .sr then [(13, BitVec.ofNat 32 r.2)] else [] }

def decLanes (w : OpA) (l : List Nat) : List FVal := l.map (Sys2Proof.Machine.tyF w.ty).dec

/-- The firing of a conversion (R391, R392): `vals` the source values, `k` the conversion of one of them. -/
def convFire (w : OpA) (ins : Ins) (vals : List FVal) (k : Nat → FVal → Nat) : Fire :=
  let d := w.imm.toNat % 32
  let r := convList k (rmF w) (ins.st.getD 13 0).toNat (convPick w.ty d (w.imm.toNat / 32 % 4) vals)
  { eat := withP w.pred [.a],
    outs := toBoth (if tyVec w.ty then .vec (packLanes (fmtBits d) r.1) else .sc (fillScalar d (lane r.1 0))),
    st := if rmF w = .sr then [(13, BitVec.ofNat 32 r.2)] else [] }

/-- A scalar that carries a lane of a. -/
def laneOut (ins : Ins) (x : Nat) : OutV := .sc (fillScalar (fmtFMT ins.fa) x)

/-- A vector of the type's lanes. -/
def vecOut (w : OpA) (l : List Nat) : OutV := .vec (packLanes (tyWidth w.ty) l)

/-! ## Memory forms -/

/-- The firing `f` of a memory form issues the access `acc`: the state after it (R409, R410). What the access derives
from is what the firing consumed. -/
def issued (s : State) (w : OpA) (f : Fire) (acc : Acc) : State :=
  pushAcc (commit s w.t0 w.t1 f)
    { acc with t0 := w.t0, t1 := w.t1, deps := liveDeps s s.cur.isl (fireDeps (curCtx s) s.cur.cell s.cur.k f) }

/-- The instruction completes by issuing `acc`: whenever its slot may fire, fewer than 16 operations of its cell are
outstanding and the results have room (R176, R182, R410). `post` is what else the firing does. -/
def IssuesAs (i : Instr) (s : State) (w : OpA) (f : Fire) (acc : Acc) (post : State → State) : Prop :=
  mayFire s = true → outstanding s s.cur.isl s.cur.cell < 16 → room s w.t0 w.t1 (reserved acc) = true →
    exec i s = .next (post (issued s w f acc))

/-- The same for a form whose firing first changes the machine to `s1` (a translation is cached, a request to the host leaves). -/
def IssuesOn (i : Instr) (s s1 : State) (w : OpA) (f : Fire) (acc : Acc) (post : State → State) : Prop :=
  mayFire s = true → outstanding s s.cur.isl s.cur.cell < 16 → room s w.t0 w.t1 (reserved acc) = true →
    exec i s = .next (post (issued s1 w f acc))

/-- A memory form whose address faults at the firing raises it there and issues nothing (R413). -/
def FaultsAs (i : Instr) (s : State) (w : OpA) (code addr : Nat) : Prop :=
  mayFire s = true → room s w.t0 w.t1 [(false, .sc 0), (true, .sc 0)] = true →
    exec i s = .next (raiseHere s code addr 0 0)

/-- Words of a store's datum: b, its two tokens for W64, or the immediate (R412, R414). -/
def storeGiven (w : OpA) (s : State) (y y2 : Nat) : Prop :=
  w.ib = false → (insOf s).b = .data y ∧ (mW64 w = true → secondB s = .data y2)

def storeDatum (w : OpA) (y y2 : Nat) : List Word :=
  if w.ib then [BitVec.ofNat 32 (modPow 32 (sextNat 16 w.imm.toNat))]
  else if mVec w then natWords 16 y
  else if mW64 w then [BitVec.ofNat 32 y, BitVec.ofNat 32 y2]
  else [BitVec.ofNat 32 y]

/-- Consumption of a store: a, and b unless the datum is the immediate; two tokens of b for W64. -/
def storeFire (w : OpA) (more : List Pos) : Fire :=
  { eat := withP w.pred (eatAB w ++ more), beatsB := if mW64 w && !w.ib then 2 else 0 }

/-- A cell's window address is good (R413): aligned, and inside the window of the addressed cell. -/
def cellOk (s : State) (tgt : Nat) (x : Int) (n : Nat) : Prop :=
  x % (n : Int) = 0 ∧ 0 ≤ x ∧ x + n ≤ (winLen (curCtx s) tgt : Int)

/-- An SBUF address is good (R413, R253). -/
def sbufOk (s : State) (x : Int) (n : Nat) (reads : Bool) : Prop :=
  x % (4 * n : Int) = 0 ∧ 0 ≤ x ∧
    sbufAllowed s (spaceOf s s.cur.isl (curCtx s)) (levelOf s s.cur.isl (curCtx s)) x.toNat (4 * n) reads = true

end Sys2Proof.Claims

open Sys2Proof Sys2Proof.Machine Sys2Proof.Claims

/-! ## Operators -/

/-- Two-operand integer forms (R361 to R367): with data on a, and data on b or the immediate, the predicate letting it
perform, the firing consumes both and p, and delivers the lane results to both targets. -/
def Obligations.IntegerPairForms : Prop :=
  ∀ e ∈ intPairs, ∀ (w : OpA) (s : State) (x y : Nat),
    (insOf s).a = .data x → dataB w (insOf s) y → predOn w (insOf s) →
    FiresAs (e.1 w) s w.t0 w.t1
      { eat := withP w.pred (eatAB w),
        outs := toBoth (outLanes w.ty (List.zipWith (e.2 w (insOf s)) (intLanes w.ty (insOf s).fa x) (bInts w (insOf s) y))) }

/-- R185 for the forms of the tables, with and without operand c: stops of one level are consumed together and one stop
of that level goes to each target; under trap mode unlike levels raise FLT_STREAM_MISMATCH; truncate discards the lower
side's token; pad passes its stop, or computes with the immediate as the identity of a two-operand integer form or float
operation. With a false predicate the inputs of a form without operand c are consumed and nothing is emitted (R328). A
one-stream form of the tables forwards a stop to both targets (R187). -/
def Obligations.StreamAlignment : Prop :=
  (∀ c ∈ alignedForms, ∀ (w : OpA) (s : State) (l x y : Nat),
    ((insOf s).a = .stop l → stopB w (insOf s) l → predStop w (insOf s) l →
      FiresAs (c w) s w.t0 w.t1 { eat := withP w.pred (eatAB w), outs := toBoth (.stop l) }) ∧
    ((insOf s).a = .data x → dataB w (insOf s) y → predOff w (insOf s) →
      FiresAs (c w) s w.t0 w.t1 { eat := withP w.pred (eatAB w) })) ∧
  (∀ e ∈ aligners, Aligns e.1 e.2) ∧
  (∀ e ∈ intPairs, ∀ (w : OpA) (s : State) (l x : Nat),
    let ins := insOf s
    let f := e.2 w ins
    w.ib = false → w.mm = .pad → w.pred = .always →
    (ins.a = .data x → ins.b = .stop l →
      FiresAs (e.1 w) s w.t0 w.t1
        { eat := [.a], outs := toBoth (outLanes w.ty
            (List.zipWith f (intLanes w.ty ins.fa x) (lanesImm w.ty w.imm.toNat))) }) ∧
    (ins.a = .stop l → ins.b = .data x →
      FiresAs (e.1 w) s w.t0 w.t1
        { eat := [.b], outs := toBoth (outLanes w.ty
            (List.zipWith f (lanesImm w.ty w.imm.toNat) (intLanes w.ty ins.fb x))) })) ∧
  (∀ e ∈ floatPairs, ∀ (w : OpA) (s : State) (l x : Nat),
    let ins := insOf s
    let f := e.2 (rmF w)
    w.ib = false → w.mm = .pad → w.pred = .always →
    (ins.a = .data x → ins.b = .stop l →
      FiresAs (e.1 w) s w.t0 w.t1
        (floatFire w ins [.a] (List.zipWith f (decLanes w (floatLanes w.ty ins.fa ins.ha x))
          (decLanes w (lanesImm w.ty w.imm.toNat))))) ∧
    (ins.a = .stop l → ins.b = .data x →
      FiresAs (e.1 w) s w.t0 w.t1
        (floatFire w ins [.b] (List.zipWith f (decLanes w (lanesImm w.ty w.imm.toNat))
          (decLanes w (floatLanes w.ty ins.fb ins.hb x)))))) ∧
  (∀ c ∈ oneStreamForms, ∀ (w : OpA) (s : State) (l : Nat), (insOf s).a = .stop l →
    FiresAs (c w) s w.t0 w.t1 { eat := [.a], outs := toBoth (.stop l) }) ∧
  (∀ c ∈ predicatedOnes, ∀ (w : OpA) (s : State) (l : Nat), (insOf s).a = .stop l → predStop w (insOf s) l →
    FiresAs (c w) s w.t0 w.t1 { eat := withP w.pred [.a], outs := toBoth (.stop l) })

/-- One-operand and three-operand integer forms and ADDS (R361, R362, R364, R366, R368). -/
def Obligations.IntegerOtherForms : Prop :=
  (∀ e ∈ intOnes, ∀ (w : OpA) (s : State) (x : Nat), (insOf s).a = .data x → predOn w (insOf s) →
    FiresAs (e.1 w) s w.t0 w.t1
      { eat := withP w.pred [.a], outs := toBoth (outLanes w.ty ((intLanes w.ty (insOf s).fa x).map (e.2 w (insOf s)))) }) ∧
  (∀ (w : OpA) (s : State) (x y : Nat), (insOf s).a = .data x → dataB w (insOf s) y → predOn w (insOf s) →
    FiresAs (.adds w) s w.t0 w.t1
      { eat := withP w.pred (eatAB w),
        outs := [(false, outLanes w.ty (List.zipWith (fun a b => (a + b) % 2 ^ tyWidth w.ty)
                    (intLanes w.ty (insOf s).fa x) (bInts w (insOf s) y))),
                 (true, outLanes w.ty (List.zipWith (fun a b => (a + b) / 2 ^ tyWidth w.ty)
                    (intLanes w.ty (insOf s).fa x) (bInts w (insOf s) y)))] }) ∧
  (∀ (w : OpA) (s : State) (x y z : Nat), (insOf s).a = .data x → dataB w (insOf s) y → (insOf s).c = .data z →
      predOn w (insOf s) →
    let ins := insOf s
    let t := tyInt w.ty ins.fa
    let A := intLanes w.ty ins.fa x
    let B := bInts w ins y
    let C := intLanes w.ty ins.fc z
    let eat := withP w.pred (eatAB w ++ [.c])
    FiresAs (.mula w) s w.t0 w.t1
      { eat := eat, outs := toBoth (outLanes w.ty (zipLanes (fun a b c => fitTo t (satI w) (t.read a * t.read b + t.read c)) A B C)) } ∧
    FiresAs (.bfi w) s w.t0 w.t1
      { eat := eat, outs := toBoth (outLanes w.ty (zipLanes (fun a b c => fillScalar (fmtFMT ins.fa) (bfiVal a b c)) A B C)) } ∧
    FiresAs (.sel w) s w.t0 w.t1
      { eat := eat,
        outs := toBoth (outLanes w.ty (zipLanes (fun a b c => if c = 0 then b else a) (rawLanes w.ty x)
          (if w.ib then lanesImm w.ty w.imm.toNat else rawLanes w.ty y) (selLanes w.ty ins.fc z))) } ∧
    FiresAs (.clamp w) s w.t0 w.t1
      { eat := eat,
        outs := toBoth (outLanes w.ty
          (if tyFloat w.ty then
            zipLanes (clampFloat (Sys2Proof.Machine.tyF w.ty)) (floatLanes w.ty ins.fa ins.ha x) (bFloats w ins y)
              (floatLanes w.ty ins.fc ins.hc z)
           else zipLanes (fun a b c => t.pat (min (max (t.read a) (t.read b)) (t.read c))) A B C)) })

/-- Wide immediates (R369): one result on T0 for each data token on a; a stop is forwarded. -/
def Obligations.WideImmediates : Prop :=
  ∀ e ∈ wides, ∀ (w : OpW) (s : State) (x l : Nat),
    ((insOf s).a = .data x → (w.pred = .always ∨ ∃ v, (insOf s).p = .data v ∧ predHolds w.pred (insOf s).fp v = true) →
      FiresAs (e.1 w) s w.t0 .none
        { eat := withP w.pred [.a], outs := [(false, .sc (e.2 (insOf s).fa (decScalar (insOf s).fa x) w.imm.toNat))] }) ∧
    ((insOf s).a = .stop l → (w.pred = .always ∨ (insOf s).p = .stop l) →
      FiresAs (e.1 w) s w.t0 .none { eat := withP w.pred [.a], outs := toBoth (.stop l) })

/-- The flow forms (R370 to R374): STEER, GATE and MERGE with operand b or with the immediate in its place (R186). The
data 0 of the CTL tokens that SINK emits is the model's choice (log entry 14): R309 says that it is not read. -/
def Obligations.FlowForms : Prop :=
  ∀ (w : OpA) (s : State) (x y z l : Nat),
    let ins := insOf s
    let v (n : Nat) : OutV := if tyVec w.ty then .vec n else .sc n
    let lv := w.imm.toNat % 8
    (ins.a = .data x → FiresAs (.fan w) s w.t0 w.t1 { eat := [.a], outs := toBoth (v x) }) ∧
    (w.ib = false → ins.a = .data x → ins.b = .data y →
      FiresAs (.steer w) s w.t0 w.t1 { eat := [.a, .b], outs := [(decide (decScalar ins.fb y = 0), v x)] } ∧
      FiresAs (.gate w) s w.t0 w.t1
        { eat := [.a, .b], outs := if decScalar ins.fb y = 0 then [] else toBoth (v x) }) ∧
    (ins.a = .stop l → (w.ib = false → ins.b = .stop l) →
      FiresAs (.steer w) s w.t0 w.t1 { eat := eatAB w, outs := toBoth (.stop l) } ∧
      FiresAs (.gate w) s w.t0 w.t1 { eat := eatAB w, outs := toBoth (.stop l) }) ∧
    (w.ib = true → ins.a = .data x →
      FiresAs (.steer w) s w.t0 w.t1 { eat := [.a], outs := [(decide (w.imm = 0), v x)] } ∧
      FiresAs (.gate w) s w.t0 w.t1 { eat := [.a], outs := if w.imm = 0 then [] else toBoth (v x) }) ∧
    (w.ib = false → mayFire s = true → ins.a = .data x → ins.b = .stop l →
      exec (.steer w) s = .next (raiseMismatch s) ∧ exec (.gate w) s = .next (raiseMismatch s)) ∧
    (ins.a = .data x → ins.c = .data z →
      FiresAs (.sort2 w) s w.t0 w.t1
        { eat := [.a, .c], outs := [((decScalar ins.fc z).testBit (w.imm.toNat % 32), v x)] }) ∧
    (ins.c = .data z → decScalar ins.fc z ≠ 0 → ins.a = .data x →
      FiresAs (.merge w) s w.t0 w.t1 { eat := [.a, .c], outs := toBoth (v x) }) ∧
    (w.ib = false → ins.c = .data z → decScalar ins.fc z = 0 → ins.b = .data y →
      FiresAs (.merge w) s w.t0 w.t1 { eat := [.b, .c], outs := toBoth (v y) }) ∧
    (w.ib = true → ins.c = .data z → decScalar ins.fc z = 0 →
      FiresAs (.merge w) s w.t0 w.t1
        { eat := [.c], outs := toBoth (outLanes w.ty (lanesImm w.ty w.imm.toNat)) }) ∧
    (ins.a = .stop l → (w.ib = false → ins.b = .stop l) → ins.c = .stop l →
      FiresAs (.merge w) s w.t0 w.t1 { eat := eatAB w ++ [.c], outs := toBoth (.stop l) }) ∧
    (∀ m, mayFire s = true →
      (ins.c = .data z ∧ decScalar ins.fc z ≠ 0 ∧ ins.a = .stop l) ∨ (ins.c = .stop l ∧ w.ib = true ∧ ins.a = .stop m ∧ m ≠ l) →
      exec (.merge w) s = .next (raiseMismatch s)) ∧
    (ins.c = .data z → decScalar ins.fc z ≠ 0 → ins.a = .empty → exec (.merge w) s = .next s) ∧
    (ins.c = .data z → ins.a = .data x → (ins.st.getD 0 0).toNat % 2 = 0 →
      FiresAs (.carry w) s w.t0 w.t1 { eat := [.a, .c], outs := [(false, v x)], st := [(0, 1)] }) ∧
    (ins.c = .data z → ins.b = .data y → (ins.st.getD 0 0).toNat % 2 = 1 →
      FiresAs (.carry w) s w.t0 w.t1 { eat := [.b, .c], outs := [(false, v y)] }) ∧
    (ins.c = .stop lv → ins.b = .data y → (ins.st.getD 0 0).toNat % 2 = 1 →
      FiresAs (.carry w) s w.t0 w.t1 { eat := [.b, .c], outs := [(false, .stop lv), (true, v y)], st := [(0, 0)] }) ∧
    (ins.c = .stop lv → ins.a = .data x → (ins.st.getD 0 0).toNat % 2 = 0 →
      FiresAs (.carry w) s w.t0 w.t1 { eat := [.a, .c], outs := [(false, .stop lv), (true, v x)], st := [(0, 0)] }) ∧
    (ins.c = .stop l → l < lv → FiresAs (.carry w) s w.t0 w.t1 { eat := [.c], outs := [(false, .stop l)] }) ∧
    (ins.c = .stop l → lv < l → ins.a = .stop l → (ins.st.getD 0 0).toNat % 2 = 0 →
      FiresAs (.carry w) s w.t0 w.t1 { eat := [.a, .c], outs := toBoth (.stop l) }) ∧
    (ins.c = .stop l → lv < l → (ins.st.getD 0 0).toNat % 2 = 1 → mayFire s = true →
      exec (.carry w) s = .next (raiseMismatch s)) ∧
    (ins.c = .data z → ins.a = .data x →
      FiresAs (.invar w) s w.t0 w.t1 { eat := [.c], outs := toBoth (v x), peek := [.a] }) ∧
    (ins.c = .stop lv → ins.a = .data x →
      FiresAs (.invar w) s w.t0 w.t1 { eat := [.a, .c], outs := toBoth (.stop lv) }) ∧
    (ins.a = .data x →
      FiresAs (.sink w) s w.t0 w.t1 { eat := [.a], outs := if w.imm.toNat / 8 % 2 = 1 then toBoth (.sc 0) else [] }) ∧
    (ins.a = .stop l →
      FiresAs (.sink w) s w.t0 w.t1 { eat := [.a], outs := if lv ≠ 0 ∧ lv ≤ l then toBoth (.sc 0) else [] }) ∧
    (ins.c = .stop l → l < lv →
      FiresAs (.invar w) s w.t0 w.t1 { eat := [.c], outs := toBoth (.stop l) }) ∧
    (ins.c = .stop l → lv < l → ins.a = .stop l →
      FiresAs (.invar w) s w.t0 w.t1 { eat := [.a, .c], outs := toBoth (.stop l) }) ∧
    (∀ m, mayFire s = true →
      (ins.a = .stop m ∧ (ins.c = .data z ∨ ins.c = .stop lv ∨ (ins.c = .stop l ∧ lv < l ∧ m ≠ l))) ∨
        (ins.a = .data x ∧ ins.c = .stop l ∧ lv < l) →
      exec (.invar w) s = .next (raiseMismatch s)) ∧
    (ins.a = .empty → ins.c = .data z ∨ (ins.c = .stop l ∧ lv ≤ l) → exec (.invar w) s = .next s) ∧
    ((Instr.invar w).wf = true → 1 ≤ w.imm.toNat ∧ w.imm.toNat ≤ 7) ∧
    ((Instr.sink w).wf = true → w.imm.toNat < 16 ∧ (w.imm = 0 → w.t0 = .none ∧ w.t1 = .none))

/-- The loop forms (R376 to R379). CTR's words: 0 the trip count, 1 the pending bound, 2 PV and RUN, 3 the index; `early`
holds what the sampled bound was before a bound that arrived in the same cycle (R189). -/
def Obligations.LoopForms : Prop :=
  ∀ (w : OpA) (s : State) (x l n : Nat),
    let ins := insOf s
    let lv := w.imm.toNat % 8
    let word (i : Nat) : Nat := (ins.st.getD i 0).toNat
    (word 0 % 2 = 0 →
      FiresAs (.iter w) s w.t0 w.t1
        { outs := [(false, .sc (iterVal (curThread s).1 (curThread s).2 lv)),
                   (true, .sc (iterVal (curThread s).1 (curThread s).2 (w.imm.toNat / 8 % 8)))], st := [(0, 1)] }) ∧
    (word 2 = 2 → word 3 < word 0 →
      FiresAs (.ctr w) s w.t0 w.t1
        { outs := toBoth (.sc (word 3)), st := [(2, 2), (3, BitVec.ofNat 32 (word 3 + 1))], keepsState := true }) ∧
    (word 2 = 2 → word 0 ≤ word 3 →
      FiresAs (.ctr w) s w.t0 w.t1
        { outs := toBoth (.stop lv), st := [(2, 0), (3, BitVec.ofNat 32 (word 3))], keepsState := true }) ∧
    (word 2 = 3 → word 3 < word 0 →
      FiresAs (.ctr w) s w.t0 w.t1
        { outs := toBoth (.sc (word 3)), st := [(2, 3), (3, BitVec.ofNat 32 (word 3 + 1))], keepsState := true }) ∧
    (word 2 = 3 → word 0 ≤ word 3 →
      FiresAs (.ctr w) s w.t0 w.t1
        { outs := toBoth (.stop lv), st := [(2, 1), (3, BitVec.ofNat 32 (word 3))], keepsState := true }) ∧
    (ins.early = none → word 2 = 1 → ins.a = .data x →
      (0 < word 1 → FiresAs (.ctr w) s w.t0 w.t1
        { eat := [.a], outs := toBoth (.sc 0), st := [(0, ins.st.getD 1 0), (2, 2), (3, 1)], keepsState := true }) ∧
      (word 1 = 0 → FiresAs (.ctr w) s w.t0 w.t1
        { eat := [.a], outs := toBoth (.stop lv), st := [(0, ins.st.getD 1 0), (2, 0), (3, 0)], keepsState := true })) ∧
    (ins.early = none → word 2 = 0 → ins.a = .data x →
      (0 < word 0 → FiresAs (.ctr w) s w.t0 w.t1
        { eat := [.a], outs := toBoth (.sc 0), st := [(2, 2), (3, 1)], keepsState := true }) ∧
      (word 0 = 0 → FiresAs (.ctr w) s w.t0 w.t1
        { eat := [.a], outs := toBoth (.stop lv), st := [(2, 0), (3, 0)], keepsState := true })) ∧
    (ins.early = some none → word 2 = 1 → ins.a = .data x → 0 < word 0 →
      FiresAs (.ctr w) s w.t0 w.t1
        { eat := [.a], outs := toBoth (.sc 0), st := [(2, 3), (3, 1)], keepsState := true }) ∧
    (∀ b : Word, ins.early = some (some b) → word 2 = 1 → ins.a = .data x → 0 < b.toNat →
      FiresAs (.ctr w) s w.t0 w.t1
        { eat := [.a], outs := toBoth (.sc 0), st := [(0, b), (2, 3), (3, 1)], keepsState := true }) ∧
    (word 2 / 2 % 2 = 0 → ins.a = .stop l →
      (lv < l → FiresAs (.ctr w) s w.t0 w.t1 { eat := [.a], outs := toBoth (.stop l) }) ∧
      (l ≤ lv → mayFire s = true → exec (.ctr w) s = .next (raiseMismatch s))) ∧
    (ins.a = .data x → 0 < word 0 →
      FiresAs (.permit w) s w.t0 w.t1
        { eat := [.a], outs := toBoth (if fmtVEC ins.fa then .vec x else .sc x), st := [(0, BitVec.ofNat 32 (word 0 - 1))] }) ∧
    (ins.a = .data x → word 0 = 0 → exec (.permit w) s = .next s) ∧
    (ins.a = .stop l → FiresAs (.permit w) s w.t0 w.t1 { eat := [.a], outs := toBoth (.stop l) }) ∧
    (ins.a = .data x → FiresAs (.stopgen w) s w.t0 w.t1 { eat := [.a], outs := toBoth (.stop lv) }) ∧
    (ins.a = .data x → word 0 ≠ w.imm.toNat / 8 →
      FiresAs (.cntstop w) s w.t0 w.t1
        { eat := [.a], outs := toBoth (if fmtVEC ins.fa then .vec x else .sc x),
          st := [(0, BitVec.ofNat 32 (word 0 + 1))], keepsState := true }) ∧
    (word 0 = w.imm.toNat / 8 →
      FiresAs (.cntstop w) s w.t0 w.t1 { outs := toBoth (.stop lv), st := [(0, 0)], keepsState := true, endsState := true }) ∧
    (ins.a = .stop l → word 0 ≠ w.imm.toNat / 8 →
      (l ≤ lv → mayFire s = true → exec (.cntstop w) s = .next (raiseMismatch s)) ∧
      (lv < l → 0 < word 0 →
        FiresAs (.cntstop w) s w.t0 w.t1 { outs := toBoth (.stop lv), st := [(0, 0)], keepsState := true, endsState := true }) ∧
      (lv < l → word 0 = 0 → FiresAs (.cntstop w) s w.t0 w.t1 { eat := [.a], outs := toBoth (.stop l) })) ∧
    (ins.a = .stop l → w.imm.toNat / 8 % 2 = 1 → 7 < l + lv → mayFire s = true →
      exec (.stoplvl w) s = .next (raiseMismatch s)) ∧
    (ins.a = .data x →
      FiresAs (.stoplvl w) s w.t0 w.t1 { eat := [.a], outs := toBoth (if fmtVEC ins.fa then .vec x else .sc x) }) ∧
    (ins.a = .stop l → w.imm.toNat / 8 % 2 = 0 →
      FiresAs (.stoplvl w) s w.t0 w.t1
        { eat := [.a], outs := if l ≤ lv then [] else toBoth (.stop (l - lv)) }) ∧
    (ins.a = .stop l → w.imm.toNat / 8 % 2 = 1 → l + lv ≤ 7 →
      FiresAs (.stoplvl w) s w.t0 w.t1 { eat := [.a], outs := toBoth (.stop (l + lv)) })

/-- Bounds and permits leave their buffers without a firing (R189, R377, R188, R378). -/
def Obligations.BoundsAndPermits : Prop :=
  ∀ (s : State) (isl slot unit v : Nat) (w : OpA),
    Tab.wf {} s.ctxs = true → Tab.wf 0 (ctxAt s isl slot).opst = true → (ctxAt s isl slot).st = .active →
    (decodeOp ((ctxAt s isl slot).block.insts.getD unit 0).toNat = .ok (.ctr w) → w.imm.toNat / 64 % 2 = 1 →
      operandIn (ctxAt s isl slot) (unit / 8) (unit % 8) 2 = .data v →
      ∃ t, exec (.ctrBoundArrival isl slot unit) s = .next t ∧
        opWord (ctxAt t isl slot) unit 1 = BitVec.ofNat 32 v ∧
        (opWord (ctxAt t isl slot) unit 2).toNat % 2 = 1 ∧ SameMachine s t) ∧
    (decodeOp ((ctxAt s isl slot).block.insts.getD unit 0).toNat = .ok (.permit w) →
      operandIn (ctxAt s isl slot) (unit / 8) (unit % 8) 1 = .data v →
      (opWord (ctxAt s isl slot) unit 0).toNat ≠ w.imm.toNat % 16 →
      ∃ t, exec (.permitReturn isl slot unit) s = .next t ∧
        opWord (ctxAt t isl slot) unit 0 = opWord (ctxAt s isl slot) unit 0 + 1 ∧ SameMachine s t)

/-- The accumulators (R381) and the exits (R382): data is taken into operator-state word 0, a stop of the group's level
delivers it and starts the next group, a lower one is taken, and EXIT and EXITSEL name their exit. -/
def Obligations.AccumulateAndExit : Prop :=
  ∀ (w : OpA) (s : State) (x l : Nat),
    let ins := insOf s
    let lv := w.imm.toNat % 8
    let acc := (ins.st.getD 0 0).toNat
    let gen := (ins.st.getD 13 0).toNat
    let t := tyInt w.ty ins.fa
    let a := decScalar ins.fa x
    let fl := lane (floatLanes .f32 ins.fa ins.ha x) 0
    let keep (v g : Nat) : Fire :=
      { eat := [.a], st := [(0, BitVec.ofNat 32 v), (1, 1), (13, BitVec.ofNat 32 g)], keepsState := true }
    (ins.a = .data x → tyFloat w.ty = false →
      FiresAs (.acc w) s w.t0 w.t1 (keep (fitTo t (satI w) (t.read acc + t.read a)) gen) ∧
      FiresAs (.accmin w) s w.t0 w.t1 (keep (if t.read a < t.read acc then a else acc) gen) ∧
      FiresAs (.accmax w) s w.t0 w.t1 (keep (if t.read acc < t.read a then a else acc) gen)) ∧
    (ins.a = .data x → tyFloat w.ty = true →
      FiresAs (.acc w) s w.t0 w.t1
        (keep (f32F.rnd (rmF w) (satF w) (drawFor (rmF w) gen) (FVal.sum (rmF w) [f32F.dec acc, f32F.dec fl])) (drawFor (rmF w) gen)) ∧
      FiresAs (.accmin w) s w.t0 w.t1 (keep (f32F.rnd .rne false 0 ((f32F.dec acc).minT (f32F.dec fl))) gen) ∧
      FiresAs (.accmax w) s w.t0 w.t1 (keep (f32F.rnd .rne false 0 ((f32F.dec acc).maxT (f32F.dec fl))) gen)) ∧
    (ins.a = .data x → FiresAs (.acccnt w) s w.t0 w.t1 (keep (fitTo ⟨32, false⟩ (satI w) (acc + 1)) gen)) ∧
    (∀ e ∈ [(Instr.acc, 0), (.accmin, accInit 1 w.ty ins.fa), (.accmax, accInit 2 w.ty ins.fa), (.acccnt, 0)],
      (ins.a = .stop lv →
        FiresAs (e.1 w) s w.t0 w.t1
          { eat := [.a], outs := toBoth (.sc acc), st := [(0, BitVec.ofNat 32 e.2), (1, 0)], keepsState := true, endsState := true }) ∧
      (ins.a = .stop l → l < lv → FiresAs (e.1 w) s w.t0 w.t1 { eat := [.a], st := [(1, 1)], keepsState := true }) ∧
      (ins.a = .stop l → lv < l →
        ((ins.st.getD 1 0).toNat % 2 = 0 → FiresAs (e.1 w) s w.t0 w.t1 { eat := [.a], outs := toBoth (.stop l) }) ∧
        ((ins.st.getD 1 0).toNat % 2 = 1 → mayFire s = true → exec (e.1 w) s = .next (raiseMismatch s)))) ∧
    (∀ n, ins.a = .data x → w.t0 = .exit n → FiresAs (.exitOp w) s w.t0 w.t1 { eat := [.a], exit := some n.toNat }) ∧
    (ins.a = .data x →
      FiresAs (.exitsel w) s w.t0 w.t1
        { eat := [.a],
          exit := some (if 0 ≤ scalarInt ins.fa x ∧ scalarInt ins.fa x ≤ 7 then (scalarInt ins.fa x).toNat else lv) }) ∧
    (ins.a = .stop l →
      FiresAs (.exitOp w) s w.t0 w.t1 { eat := [.a] } ∧ FiresAs (.exitsel w) s w.t0 w.t1 { eat := [.a] })

/-- Float arithmetic (R384, R388, R389): the exact value of the decoded operands is rounded once per lane in F. -/
def Obligations.FloatArithmetic : Prop :=
  ∀ (w : OpA) (s : State) (x y z : Nat),
    let ins := insOf s
    let A := decLanes w (floatLanes w.ty ins.fa ins.ha x)
    let B := decLanes w (bFloats w ins y)
    let C := decLanes w (floatLanes w.ty ins.fc ins.hc z)
    predOn w ins → ins.a = .data x →
    (∀ e ∈ floatOnes, FiresAs (e.1 w) s w.t0 w.t1 (floatFire w ins (withP w.pred [.a]) (A.map e.2))) ∧
    (dataB w ins y → ∀ e ∈ floatPairs,
      FiresAs (e.1 w) s w.t0 w.t1 (floatFire w ins (withP w.pred (eatAB w)) (List.zipWith (e.2 (rmF w)) A B))) ∧
    (dataB w ins y → ins.c = .data z → ∀ e ∈ floatThrees,
      FiresAs (e.1 w) s w.t0 w.t1
        (floatFire w ins (withP w.pred (eatAB w ++ [.c]))
          (List.zipWith (fun (g : FVal → FVal) c => g c) (List.zipWith (fun a b => e.2 (rmF w) a b) A B) C)))

/-- Float compares, classes and conversions (R390 to R392). -/
def Obligations.FloatComparesAndConversions : Prop :=
  ∀ (w : OpA) (s : State) (x y : Nat),
    let ins := insOf s
    predOn w ins → ins.a = .data x →
    (dataB w ins y → ∀ e ∈ floatCmps,
      FiresAs (e.1 w) s w.t0 w.t1
        { eat := withP w.pred (eatAB w),
          outs := toBoth (outLanes w.ty (List.zipWith (fun a b => if e.2 a b then 1 else 0)
            (decLanes w (floatLanes w.ty ins.fa ins.ha x)) (decLanes w (bFloats w ins y)))) }) ∧
    FiresAs (.fclass w) s w.t0 w.t1 { eat := withP w.pred [.a], outs := toBoth (outLanes w.ty (classLanes w ins x)) } ∧
    FiresAs (.fcvt w) s w.t0 w.t1
      (convFire w ins (convFloats w.ty ins.fa ins.ha x) (fun g v => (floatOf (w.imm.toNat % 32)).rnd (rmF w) (satF w) g v)) ∧
    FiresAs (.icvt w) s w.t0 w.t1
      (convFire w ins ((intLanes w.ty ins.fa x).map (fun n => FVal.ofInt ((tyInt w.ty ins.fa).read n)))
        (fun g v => (floatOf (w.imm.toNat % 32)).rnd (rmF w) (satF w) g v)) ∧
    FiresAs (.ftoi w) s w.t0 w.t1
      (convFire w ins (convFloats w.ty ins.fa ins.ha x) (ftoiVal (intOf (w.imm.toNat % 32)) (rmF w) (satF w))) ∧
    FiresAs (.frnd w) s w.t0 w.t1
      (convFire w ins (convFloats w.ty ins.fa ins.ha x) (frndVal (Sys2Proof.Machine.tyF w.ty) (rmF w)))

/-- What a firing does to the machine besides its outputs (R307, R278, R255): the firing number of the slot rises by 1,
its operator state takes the words written, every other slot's state stays, and nothing outside the context, its thread,
the tokens in flight and the check stage changes. Every output is held in the cell's check stage as the newest
firing's, with the exit that it names and the keeps that it writes (R273, R359); a firing that passes the stage writes its
keeps, lets its tokens and requests leave it and, with an enabled exit, names the thread's exit (R190, R273). The firing number of the slot rises by 1 at each firing that does not write its words (R255). A scalar result of a firing (R307): a keep register takes the word, an operand or VC target takes one token at the
tail of what is in flight for it, none takes nothing. -/
def Obligations.FiringEffects : Prop :=
  (∀ (s : State) (t0 t1 : Target) (f : Fire),
    SameMachine s (commit s t0 t1 f) ∧ (commit s t0 t1 f).accs = s.accs ∧ (commit s t0 t1 f).nextAcc = s.nextAcc ∧
    (commit s t0 t1 f).flights.take s.flights.length = s.flights ∧
    (∀ x ∈ (commit s t0 t1 f).flights.drop s.flights.length, x.chk = some s.nextChk) ∧
    (commit s t0 t1 f).nextChk = s.nextChk + 1 ∧
    (commit s t0 t1 f).chks = s.chks ++
      [{ tag := s.nextChk, isl := s.cur.isl, slot := s.cur.slot, cell := s.cur.cell, k := s.cur.k,
         firing := firingNo (curCtx s) (curSlotNo s), cycle := s.cycle, exit := f.exit,
         keeps := (keepWrites s t0 t1 f.outs).1, accNo := s.nextAcc }] ∧
    (Tab.wf {} s.ctxs = true → (curCtx (commit s t0 t1 f)).keeps = (curCtx s).keeps) ∧
    (∀ isl slot, ctxKey isl slot ≠ ctxKey s.cur.isl s.cur.slot → ctxAt (commit s t0 t1 f) isl slot = ctxAt s isl slot) ∧
    (commit s t0 t1 f).sched = s.sched ∧
    (Tab.wf {} s.ctxs = true → ∀ i, (∀ e ∈ f.st, 16 * curSlotNo s + e.1 ≠ i) → i ≠ 16 * curSlotNo s + 14 → i ≠ 16 * curSlotNo s + 15 →
      (curCtx (commit s t0 t1 f)).opst.get 0 i = (curCtx s).opst.get 0 i) ∧
    (Tab.wf {} s.ctxs = true → Tab.wf 0 (curCtx s).opst = true → (∀ e ∈ f.st, e.1 < 14) → (f.st.map (·.1)).Nodup →
      ∀ e ∈ f.st, (curCtx (commit s t0 t1 f)).opst.get 0 (16 * curSlotNo s + e.1) = e.2)) ∧
  (∀ (s : State) (t0 t1 : Target) (f : Fire),
    Tab.wf {} s.ctxs = true → Tab.wf 0 (curCtx s).opst = true → (∀ e ∈ f.st, e.1 < 14) →
    firingNo (curCtx (commit s t0 t1 f)) (curSlotNo s) = (firingNo (curCtx s) (curSlotNo s) + 1) % 2 ^ 64) ∧
  (∀ (s : State) (t : Target) (v : Nat) (deps : List Nat),
    (∀ k, t = .keep k → Tab.wf {} s.ctxs = true → Tab.wf 0 (curCtx s).keeps = true →
      keepOf (curCtx (deliver s t .none deps [(false, .sc v)])) s.cur.cell k.toNat = BitVec.ofNat 32 v ∧
      (deliver s t .none deps [(false, .sc v)]).flights = s.flights) ∧
    (∀ pos n, t = .operand pos n → heldBack s s.cur.isl s.cur.slot (opKey n.toNat pos.code) (2 * curSlotNo s) = false →
      ∃ tok, (deliver s t .none deps [(false, .sc v)]).flights = s.flights ++
          [{ dest := .buf s.cur.isl s.cur.slot (opKey n.toNat pos.code), tok := tok, isl := s.cur.isl, slot := s.cur.slot,
             place := opKey n.toNat pos.code }] ∧
        tok.stop = 0 ∧ tok.src = 2 * curSlotNo s ∧ tok.deps = deps) ∧
    (∀ x d, t = .vc x → vcDest s (curCtx s) s.cur.isl s.cur.cell x.toNat = some d →
      heldBack s s.cur.isl s.cur.slot (placeOf s.cur.isl s.cur.cell x.toNat d) (256 + x.toNat) = false →
      (deliver s t .none deps [(false, .sc v)]).flights = s.flights ++
        [{ dest := d, tok := { scalarTok v deps with src := 256 + x.toNat }, isl := s.cur.isl, slot := s.cur.slot,
           place := placeOf s.cur.isl s.cur.cell x.toNat d }]) ∧
    (t = .none → deliver s t .none deps [(false, .sc v)] = s)) ∧
  (∀ (s : State) (isl cell : Nat) (r : ChkRec) (l : List ChkRec),
    heldInReset s = false → mayPass s r = true → unchecked s isl cell = r :: l → r.push = none → r.ret = none → r.area = [] →
    stepAct s (.check isl cell) = .next (passOldest s isl cell) ∧
    (∀ x ∈ (passOldest s isl cell).flights, x.chk ≠ some r.tag) ∧
    (∀ a ∈ (passOldest s isl cell).accs, a.chk ≠ some r.tag) ∧
    SameMachine s (passOldest s isl cell) ∧
    (∀ k v, r.keeps = [(k, v)] → Tab.wf {} s.ctxs = true → Tab.wf 0 (ctxAt s r.isl r.slot).keeps = true →
      keepOf (ctxAt (passOldest s isl cell) r.isl r.slot) r.cell k = v) ∧
    (∀ e t, r.exit = some e → (ctxAt s r.isl r.slot).thread = some t → (ctxAt s r.isl r.slot).exen.testBit e = true →
      Tab.wf {} s.sched.threads = true → (threadAt s t).exit = none → (threadAt (passOldest s isl cell) t).exit = some e))

/-- The vector forms (R393 to R396). -/
def Obligations.VectorLanes : Prop :=
  ∀ (w : OpA) (s : State) (x y z : Nat),
    let ins := insOf s
    let n := tyLanes w.ty
    let wd := tyWidth w.ty
    let sh := w.imm.toNat % 128
    let A := vecLanes w.ty ins.fa ins.ha x
    let t := tyInt w.ty ins.fa
    let t16 : IntF := ⟨16, fmtSigned ins.fa⟩
    let L := lanesOf 16 32 x
    ins.a = .data x →
    (predOn w ins → dataB w ins y → ins.c = .data z →
      FiresAs (.vaddmin w) s w.t0 w.t1
        { eat := withP w.pred (eatAB w ++ [.c]),
          outs := toBoth (.vec (packLanes 16 (zipLanes (fun a b c => min (min (a + b) 65535) c) L
            (if w.ib then lanesImm .vi16 w.imm.toNat else lanesOf 16 32 y) (lanesOf 16 32 z)))) }) ∧
    (predOn w ins →
      (∃ i < 32, FiresAs (.vminidx w) s w.t0 w.t1
          { eat := withP w.pred [.a], outs := toBoth (.sc (lane L i + i * 2 ^ 16)) } ∧
        (∀ j < 32, t16.read (lane L i) ≤ t16.read (lane L j)) ∧ (∀ j < i, t16.read (lane L i) < t16.read (lane L j))) ∧
      (∃ i < 32, FiresAs (.vmaxidx w) s w.t0 w.t1
          { eat := withP w.pred [.a], outs := toBoth (.sc (lane L i + i * 2 ^ 16)) } ∧
        (∀ j < 32, t16.read (lane L j) ≤ t16.read (lane L i)) ∧ (∀ j < i, t16.read (lane L j) < t16.read (lane L i)))) ∧
    (w.imm.toNat / 128 % 2 = 0 →
      FiresAs (.vlsh w) s w.t0 w.t1
        { eat := [.a], outs := [(false, vecOut w ((List.range n).map (fun i => if sh ≤ i then lane A (i - sh) else
            scalarLane w.ty ins.fc ins.hc 0))), (true, laneOut ins (lane A (n - 1)))] } ∧
      FiresAs (.vlsr w) s w.t0 w.t1
        { eat := [.a], outs := [(false, vecOut w ((List.range n).map (fun i => if i + sh < n then lane A (i + sh) else
            scalarLane w.ty ins.fc ins.hc 0))), (true, laneOut ins (lane A 0))] }) ∧
    (w.imm.toNat / 128 % 2 = 1 → ins.c = .data z →
      FiresAs (.vlsh w) s w.t0 w.t1
        { eat := [.a, .c], outs := [(false, vecOut w ((List.range n).map (fun i => if sh ≤ i then lane A (i - sh) else
            scalarLane w.ty ins.fc ins.hc z))), (true, laneOut ins (lane A (n - 1)))] } ∧
      FiresAs (.vlsr w) s w.t0 w.t1
        { eat := [.a, .c], outs := [(false, vecOut w ((List.range n).map (fun i => if i + sh < n then lane A (i + sh) else
            scalarLane w.ty ins.fc ins.hc z))), (true, laneOut ins (lane A 0))] }) ∧
    (ins.b = .data y →
      FiresAs (.vperm w) s w.t0 w.t1
        { eat := [.a, .b], outs := toBoth (vecOut w ((lanesOf wd n y).map (lane A))) } ∧
      FiresAs (.vins w) s w.t0 w.t1
        { eat := [.a, .b], outs := toBoth (vecOut w (A.set (w.imm.toNat % 64) (scalarLane w.ty ins.fb ins.hb y))) } ∧
      FiresAs (.vpack w) s w.t0 w.t1
        { eat := [.a, .b],
          outs := toBoth (.vec (packLanes (wd / 2) ((lanesOf wd n x ++ lanesOf wd n y).map
            (fun v => fitTo ⟨wd / 2, t.signed⟩ (w.imm.toNat % 2 == 1) (t.read v))))) }) ∧
    FiresAs (.vbcast w) s w.t0 w.t1
      { eat := [.a],
        outs := toBoth (vecOut w (List.replicate n
          (if w.imm.toNat / 64 % 2 = 1 then scalarLane w.ty ins.fa ins.ha x else lane A (w.imm.toNat % 64)))) } ∧
    FiresAs (.vextr w) s w.t0 w.t1 { eat := [.a], outs := toBoth (laneOut ins (lane A (w.imm.toNat % 64))) } ∧
    FiresAs (.vunpk w) s w.t0 w.t1
      { eat := [.a],
        outs := [(false, .vec (packLanes (2 * wd) (((lanesOf wd n x).map (fun v => modPow (2 * wd) (t.read v))).take (n / 2)))),
                 (true, .vec (packLanes (2 * wd) (((lanesOf wd n x).map (fun v => modPow (2 * wd) (t.read v))).drop (n / 2))))] }

/-- Reductions, scans and dot products (R397, R398, R314, R315). The first lane of a float scan is its operand's value, coded as
R296 codes a result. -/
def Obligations.Reductions : Prop :=
  ∀ (w : OpA) (s : State) (x y z : Nat),
    let ins := insOf s
    let A := vecLanes w.ty ins.fa ins.ha x
    let g := (ins.st.getD 13 0).toNat
    let i32 : IntF := ⟨32, true⟩
    ins.a = .data x →
    FiresAs (.vred w) s w.t0 w.t1
      { eat := [.a], outs := toBoth (laneOut ins (lane (vredTree (sumOp w ins.fa) 6 g A).1 0)),
        st := if tyFloat w.ty = true ∧ w.imm.toNat % 8 = 0 ∧ rmF w = .sr
              then [(13, BitVec.ofNat 32 (vredTree (sumOp w ins.fa) 6 g A).2)] else [] } ∧
    FiresAs (.vscan w) s w.t0 w.t1
      { eat := [.a], outs := toBoth (vecOut w ((if tyFloat w.ty then
            (Sys2Proof.Machine.tyF w.ty).rnd .rne false 0 ((Sys2Proof.Machine.tyF w.ty).dec (lane A 0)) else lane A 0) ::
          (vscanList (sumOp w ins.fa) g (lane A 0) A.tail).1)),
        st := if tyFloat w.ty = true ∧ w.imm.toNat % 8 = 0 ∧ rmF w = .sr
              then [(13, BitVec.ofNat 32 (vscanList (sumOp w ins.fa) g (lane A 0) A.tail).2)] else [] } ∧
    (predOn w ins → ins.b = .data y → ins.c = .data z → tyFloat w.ty = false →
      FiresAs (.vdot4 w) s w.t0 w.t1
        { eat := withP w.pred [.a, .b, .c],
          outs := toBoth (.vec (packLanes 32 ((List.range 16).map (fun j =>
            fitTo i32 (satI w) (i32.read (lane (lanesOf 32 16 z) j)
              + ((List.range 4).map (fun k =>
                  (⟨8, fmtSigned ins.fa⟩ : IntF).read (lane (lanesOf 8 64 x) (4 * j + k))
                    * (⟨8, fmtSigned ins.fb⟩ : IntF).read (lane (lanesOf 8 64 y) (4 * j + k)))).sum))))) }) ∧
    (predOn w ins → ins.b = .data y → ins.c = .data z → tyFloat w.ty = true →
      let la := floatLanes .vf16 ins.fa ins.ha x
      let lb := floatLanes .vf16 ins.fb ins.hb y
      let lc := floatLanes .vf32 ins.fc ins.hc z
      let half := w.imm.toNat % 2
      let r := rndList f32F (rmF w) (satF w) g ((List.range 8).map (fun j =>
        FVal.sum (rmF w) (f32F.dec (lane lc (8 * half + j)) :: (List.range 4).map (fun k =>
          (f16F.dec (lane la (4 * j + k))).mul (f16F.dec (lane lb (4 * j + k)))))))
      FiresAs (.vdot4 w) s w.t0 w.t1
        { eat := withP w.pred [.a, .b, .c],
          outs := toBoth (.vec (packLanes 32 (if half = 0 then r.1 ++ lc.drop 8 else lc.take 8 ++ r.1))),
          st := if rmF w = .sr then [(13, BitVec.ofNat 32 r.2)] else [] })

/-- Complex and block forms (R399 to R402). On ci16 values parts are exact integers, rounded once; on cf16 values they are
exact sums of products of the decoded parts, rounded once in f16 (CMAG2 in f32), and CCONJ recodes them. MAXABS gives the
largest part magnitude of each token at L = 0, and of each group of level L otherwise, from a running magnitude in
operator-state word 0. -/
def Obligations.ComplexForms : Prop :=
  (∀ (w : OpA) (s : State) (x y z : Nat),
    let ins := insOf s
    let g := (ins.st.getD 13 0).toNat
    let A := cplxVals ins.fa ins.ha x
    let B := cplxVals ins.fb ins.hb y
    let C := cplxVals ins.fc ins.hc z
    let re (v : Nat × Nat) : Int := sextNat 16 v.1
    let im (v : Nat × Nat) : Int := sextNat 16 v.2
    let ci (eat : List Pos) (l : List (Int × Int)) : Fire :=
      let r := roundParts (rmF w) (ciRound w) g l
      { eat := eat, outs := toBoth (cplxOut ins.fa r.1), st := if rmF w = .sr then [(13, BitVec.ofNat 32 r.2)] else [] }
    fmtFMT ins.fa ≠ 17 → predOn w ins → ins.a = .data x →
    (ins.b = .data y →
      FiresAs (.cmul w) s w.t0 w.t1 (ci (withP w.pred [.a, .b])
        (List.zipWith (fun a b => (re a * re b - im a * im b, re a * im b + im a * re b)) A B)) ∧
      FiresAs (.cmulj w) s w.t0 w.t1 (ci (withP w.pred [.a, .b])
        (List.zipWith (fun a b => (re a * re b + im a * im b, im a * re b - re a * im b)) A B))) ∧
    (ins.b = .data y → ins.c = .data z →
      FiresAs (.cmac w) s w.t0 w.t1 (ci (withP w.pred [.a, .b, .c])
        (List.zipWith (fun (f : Nat × Nat → Int × Int) c => f c)
          (List.zipWith (fun a b c => (re a * re b - im a * im b + re c * 2 ^ 15, re a * im b + im a * re b + im c * 2 ^ 15)) A B) C))) ∧
    FiresAs (.cconj w) s w.t0 w.t1
      { eat := withP w.pred [.a],
        outs := toBoth (cplxOut ins.fa (A.map (fun a => a.1 + fitTo ⟨16, true⟩ (satF w) (-(im a)) * 2 ^ 16))) } ∧
    FiresAs (.cmag2 w) s w.t0 w.t1
      { eat := withP w.pred [.a],
        outs := toBoth (cplxOut ins.fa (A.map (fun a => (re a * re a + im a * im a).toNat))) } ∧
    FiresAs (.bfpenc w) s w.t0 w.t1
      (let r := bfpUnit (rmF w) (if w.imm.toNat % 16 = 0 then 16 else w.imm.toNat % 16) g A
       { eat := [.a], outs := toBoth (.vec r.1), st := if rmF w = .sr then [(13, BitVec.ofNat 32 r.2)] else [] }) ∧
    FiresAs (.bfpdec w) s w.t0 w.t1
      (let r := bfpDecList (rmF w) ins.fa ins.ha x g (List.range 24)
       { eat := [.a], outs := toBoth (.vec (packLanes 16 r.1)), st := if rmF w = .sr then [(13, BitVec.ofNat 32 r.2)] else [] }) ∧
    (let big := A.foldl (fun m a => max m (max (re a).natAbs (im a).natAbs)) 0
     (w.imm.toNat % 8 = 0 → FiresAs (.maxabs w) s w.t0 w.t1 { eat := [.a], outs := toBoth (.sc big) }) ∧
     (w.imm.toNat % 8 ≠ 0 →
       FiresAs (.maxabs w) s w.t0 w.t1
         { eat := [.a], st := [(0, BitVec.ofNat 32 (max (ins.st.getD 0 0).toNat big)), (1, 1)], keepsState := true }))) ∧
  (∀ (w : OpA) (s : State) (x y z : Nat),
    let ins := insOf s
    let g := (ins.st.getD 13 0).toNat
    let d (v : Nat × Nat) : FVal × FVal := (f16F.dec v.1, f16F.dec v.2)
    let A := (cplxVals ins.fa ins.ha x).map d
    let B := (cplxVals ins.fb ins.hb y).map d
    let C := (cplxVals ins.fc ins.hc z).map d
    let m := rmF w
    let cf (eat : List Pos) (l : List (FVal × FVal)) : Fire :=
      let r := roundParts m (fun g v => f16F.rnd m (satF w) g v) g l
      { eat := eat, outs := toBoth (cplxOut ins.fa r.1), st := if m = .sr then [(13, BitVec.ofNat 32 r.2)] else [] }
    fmtFMT ins.fa = 17 → predOn w ins → ins.a = .data x →
    (ins.b = .data y →
      FiresAs (.cmul w) s w.t0 w.t1 (cf (withP w.pred [.a, .b]) (List.zipWith (fun a b =>
        (FVal.sum m [a.1.mul b.1, (a.2.mul b.2).neg], FVal.sum m [a.1.mul b.2, a.2.mul b.1])) A B)) ∧
      FiresAs (.cmulj w) s w.t0 w.t1 (cf (withP w.pred [.a, .b]) (List.zipWith (fun a b =>
        (FVal.sum m [a.1.mul b.1, a.2.mul b.2], FVal.sum m [a.2.mul b.1, (a.1.mul b.2).neg])) A B))) ∧
    (ins.b = .data y → ins.c = .data z →
      FiresAs (.cmac w) s w.t0 w.t1 (cf (withP w.pred [.a, .b, .c])
        (List.zipWith (fun (f : FVal × FVal → FVal × FVal) c => f c) (List.zipWith (fun a b c =>
          (FVal.sum m [a.1.mul b.1, (a.2.mul b.2).neg, c.1], FVal.sum m [a.1.mul b.2, a.2.mul b.1, c.2])) A B) C))) ∧
    FiresAs (.cmag2 w) s w.t0 w.t1
      (let r := rndList f32F m (satF w) g (A.map (fun a => FVal.sum m [a.1.mul a.1, a.2.mul a.2]))
       { eat := withP w.pred [.a], outs := toBoth (cplxOut ins.fa r.1), st := if m = .sr then [(13, BitVec.ofNat 32 r.2)] else [] }) ∧
    FiresAs (.cconj w) s w.t0 w.t1
      { eat := withP w.pred [.a],
        outs := toBoth (cplxOut ins.fa (A.map (fun a =>
          f16F.rnd .rne false 0 a.1 + f16F.rnd .rne false 0 a.2.neg * 2 ^ 16))) } ∧
    (let mag (v : FVal) : Nat := f32F.rnd .rne false 0 v.abs
     let larger (x y : Nat) : Nat := f32F.rnd .rne false 0 ((f32F.dec x).maxT (f32F.dec y))
     let big := A.foldl (fun m a => larger m (larger (mag a.1) (mag a.2))) 0
     (w.imm.toNat % 8 = 0 → FiresAs (.maxabs w) s w.t0 w.t1 { eat := [.a], outs := toBoth (.sc big) }) ∧
     (w.imm.toNat % 8 ≠ 0 →
       FiresAs (.maxabs w) s w.t0 w.t1
         { eat := [.a], st := [(0, BitVec.ofNat 32 (larger (ins.st.getD 0 0).toNat big)), (1, 1)], keepsState := true }))) ∧
  (∀ (w : OpA) (s : State) (l : Nat),
    let ins := insOf s
    let lv := w.imm.toNat % 8
    ins.a = .stop l →
    (lv = 0 → FiresAs (.maxabs w) s w.t0 w.t1 { eat := [.a], outs := toBoth (.stop l) }) ∧
    (lv ≠ 0 →
      (l < lv → FiresAs (.maxabs w) s w.t0 w.t1 { eat := [.a], st := [(1, 1)], keepsState := true }) ∧
      (l = lv →
        FiresAs (.maxabs w) s w.t0 w.t1
          { eat := [.a], outs := toBoth (.sc (ins.st.getD 0 0).toNat), st := [(0, 0), (1, 0)], keepsState := true, endsState := true }) ∧
      (lv < l → (ins.st.getD 1 0).toNat % 2 = 0 → FiresAs (.maxabs w) s w.t0 w.t1 { eat := [.a], outs := toBoth (.stop l) }) ∧
      (lv < l → (ins.st.getD 1 0).toNat % 2 = 1 → mayFire s = true → exec (.maxabs w) s = .next (raiseMismatch s))))

/-- Nested planes and coordinates (R404, R405, R407). The bank writes of a PLANE form wait in the check stage (R273), and
its bank reads wait for earlier accesses of its port to the same words (R230). -/
def Obligations.PlanesAndCoordinates : Prop :=
  ∀ (w : OpA) (s : State) (x y : Nat),
    let ins := insOf s
    let ph := (ins.st.getD 0 0).toNat
    let word (i : Nat) : Nat := (ins.st.getD i 0).toNat
    let planes (j : Nat) : Nat := leNat (rdBytes s (planeKey s w j) 32)
    let out (c : Nat) (i j : Option Nat) := coordOut w c i j
    let good (l : List (Nat × Nat)) : Prop :=
      debugOf s s.cur.isl = false ∧ ∀ e ∈ l, areaBusy s e.1 e.2 = false ∧ readCheck s e.1 e.2 = (.good, s)
    (ins.a = .data x → ph < 4 → mayFire s = true → room s w.t0 w.t1 [] = true → debugOf s s.cur.isl = false →
      let words := (List.range 8).map (fun j => (planeKey s w j + 8 * ph, natWords 2 (bitColumn j (lanesOf 8 64 x))))
      (∀ e ∈ words, areaBusy s e.1 2 = false) →
      exec (.planesplit w) s = .next (deferArea
        (commit s w.t0 w.t1 { eat := [.a], st := [(0, BitVec.ofNat 32 (ph + 1))], keepsState := true }) words)) ∧
    (ph = 4 → ins.b = .data y →
      FiresAs (.planesplit w) s w.t0 w.t1
        { eat := [.b], outs := [(false, .vec y)], st := [(0, 5)], keepsState := true }) ∧
    (5 ≤ ph → ph < 4 + w.imm.toNat % 16 → good [(planeKey s w (12 - ph), 8)] →
      FiresAs (.planesplit w) s w.t0 w.t1
        { outs := [(false, .beats [planes (12 - ph)])], st := [(0, BitVec.ofNat 32 (ph + 1))], keepsState := true }) ∧
    (let last := 4 + w.imm.toNat % 16
     ph = last → 5 ≤ ph → good [(planeKey s w (12 - ph), 8)] →
      FiresAs (.planesplit w) s w.t0 w.t1
        { outs := [(false, .beats (if w.imm.toNat % 2 = 1 then [planes (12 - ph), 0] else [planes (12 - ph)]))], st := [(0, 0)],
          keepsState := true, endsState := true }) ∧
    (∀ b r, beatsOf (curCtx s) s.cur.cell s.cur.k = b :: r → b.stop = 0 →
      (ph < 2 →
        FiresAs (.planejoin w) s w.t0 w.t1
          { eat := [.a], beatsA := 1, outs := [(true, .beats [b.data.toNat])], st := [(0, BitVec.ofNat 32 (ph + 1))],
            keepsState := true }) ∧
      (2 ≤ ph → ph < 1 + fmtPL ins.fa → mayFire s = true → room s w.t0 w.t1 [] = true → debugOf s s.cur.isl = false →
        areaBusy s (planeKey s w (9 - ph)) 8 = false →
        exec (.planejoin w) s = .next (deferArea
          (commit s w.t0 w.t1 { eat := [.a], beatsA := 1, st := [(0, BitVec.ofNat 32 (ph + 1))], keepsState := true })
          [(planeKey s w (9 - ph), natWords 8 b.data.toNat)]))) ∧
    (2 + fmtPL ins.fa ≤ ph →
      good ((List.range (fmtPL ins.fa)).map (fun i => (planeKey s w (7 - i) + 8 * (ph - 2 - fmtPL ins.fa), 2))) →
      FiresAs (.planejoin w) s w.t0 w.t1
        { outs := [(false, .vec (packLanes 8 ((List.range 64).map
            (fun i => joinLane (fmtPL ins.fa) (fmtMID ins.fa) planes (64 * (ph - 2 - fmtPL ins.fa) + i)))))],
          st := [(0, BitVec.ofNat 32 (if ph - 2 - fmtPL ins.fa = 3 then 0 else ph + 1))], keepsState := true,
          endsState := decide (ph - 2 - fmtPL ins.fa = 3) }) ∧
    (ins.a = .data x → ins.b = .data y →
      (x < y →
        FiresAs (.isect w) s w.t0 w.t1 { eat := [.a], st := [(0, BitVec.ofNat 32 (word 0 + 1))] } ∧
        FiresAs (.union w) s w.t0 w.t1
          { eat := [.a], outs := out x (some (word 0)) none, st := [(0, BitVec.ofNat 32 (word 0 + 1))] }) ∧
      (y < x →
        FiresAs (.isect w) s w.t0 w.t1 { eat := [.b], st := [(1, BitVec.ofNat 32 (word 1 + 1))] } ∧
        FiresAs (.union w) s w.t0 w.t1
          { eat := [.b], outs := out y none (some (word 1)), st := [(1, BitVec.ofNat 32 (word 1 + 1))] }) ∧
      (x = y → ∀ c ∈ [Instr.isect, .union],
        FiresAs (c w) s w.t0 w.t1
          { eat := [.a, .b], outs := out x (some (word 0)) (some (word 1)),
            st := [(0, BitVec.ofNat 32 (word 0 + 1)), (1, BitVec.ofNat 32 (word 1 + 1))] }))

/-- Bank forms (R411 to R414): a firing with a good address issues one access to the words at OFF·n + A of the window. -/
def Obligations.BankForms : Prop :=
  ∀ (w : OpA) (s : State) (x y : Nat),
    let n := mWords w
    let a : Int := (x : Int) + mOff w * n
    let key := winKey s s.cur.isl s.cur.slot (curCtx s) s.cur.cell a.toNat
    let f : Fire := { eat := withP w.pred [.a] }
    predOn w (insOf s) → (insOf s).a = .data x →
    (cellOk s s.cur.cell a n →
      IssuesAs (.ldc w) s w f { newAcc s .load .cell key a.toNat n with vec := mVec w } (hazardCheck false) ∧
      IssuesAs (.ldcf w) s w f { newAcc s .loadFull .cell key a.toNat n with vec := mVec w, cons := mCons w }
        (hazardCheck (mCons w)) ∧
      IssuesAs (.clreCell w) s w f (newAcc s .clear .cell key a.toNat n) (hazardCheck true)) ∧
    (cellOk s s.cur.cell a n → dataB w (insOf s) y → mW64 w = false →
      IssuesAs (.stc w) s w (storeFire w []) { newAcc s .store .cell key a.toNat n with val := storeDatum w y 0 }
        (hazardCheck true)) ∧
    (cellOk s (w.imm.toNat % 16) a n → dataB w (insOf s) y → mW64 w = false →
      IssuesAs (.stcr w) s w (storeFire w [])
        { newAcc s .storeFull .cell (winKey s s.cur.isl s.cur.slot (curCtx s) (w.imm.toNat % 16) a.toNat) a.toNat n with
            val := storeDatum w y 0 } (hazardCheck true))

/-- The checks of a bank form at its firing (R413): FLT_ALIGN before FLT_CELL_RANGE. A memory form whose predicate fails performs no access and emits its completion token (R414), whose data 0 is the
model's choice (log entry 14): R309 says that it is not read. -/
def Obligations.BankFaultsAndSkips : Prop :=
  (∀ (w : OpA) (s : State) (x : Nat),
    let n := mWords w
    let a : Int := (x : Int) + mOff w * n
    predOn w (insOf s) → (insOf s).a = .data x →
    ∀ c ∈ [Instr.ldc, .ldcf, .clreCell],
      (a % (n : Int) ≠ 0 → FaultsAs (c w) s w 0x9010 (modPow 64 a)) ∧
      (a % (n : Int) = 0 → (winLen (curCtx s) s.cur.cell : Int) < a + n → FaultsAs (c w) s w 0x9011 (modPow 64 a))) ∧
  (∀ c ∈ [Instr.ldc, .ldcf, .clreCell, .lds, .ldsf, .clreSbuf], ∀ (w : OpA) (s : State) (x : Nat),
    predOff w (insOf s) → (insOf s).a = .data x → slotPending s = false →
    FiresAs (c w) s w.t0 w.t1 { eat := withP w.pred [.a], outs := [(true, .sc 0)] })

/-- SBUF forms (R411 to R414). -/
def Obligations.SbufForms : Prop :=
  ∀ (w : OpA) (s : State) (x y y2 : Nat),
    let n := mWords w
    let a : Int := (x : Int) + 4 * mOff w * n
    let key := sbufBase + a.toNat
    let f : Fire := { eat := withP w.pred [.a] }
    predOn w (insOf s) → (insOf s).a = .data x →
    (sbufOk s a n true →
      IssuesAs (.lds w) s w f { newAcc s .load .sbuf key a.toNat n with vec := mVec w } (hazardCheck false)) ∧
    (sbufOk s a n (!mCons w) →
      IssuesAs (.ldsf w) s w f { newAcc s .loadFull .sbuf key a.toNat n with vec := mVec w, cons := mCons w }
        (hazardCheck (mCons w))) ∧
    (sbufOk s a n false →
      IssuesAs (.clreSbuf w) s w f (newAcc s .clear .sbuf key a.toNat n) (hazardCheck true) ∧
      (storeGiven w s y y2 →
        IssuesAs (.sts w) s w (storeFire w []) { newAcc s .store .sbuf key a.toNat n with val := storeDatum w y y2 }
          (hazardCheck true)))

/-- GLOB forms (R411 to R414, R248): the VA is translated when the slot fires, and what the walk caches stays. A resumable
translation fault holds the access and is raised (R260). -/
def Obligations.GlobForms : Prop :=
  ∀ (w : OpA) (s : State) (x y y2 z : Nat),
    let n := mWords w
    let va : Int := (z % 2 ^ 21 * 2 ^ 32 + x : Nat) + 4 * mOff w * n
    let space (host : Bool) : Space := if host then .host else .hbm
    let rd := translateCell s s.cur.isl (curCtx s) va.toNat .read
    let wr := translateCell s s.cur.isl (curCtx s) va.toNat .write
    let f : Fire := { eat := withP w.pred [.a, .c] }
    predOn w (insOf s) → (insOf s).a = .data x → (insOf s).c = .data z →
    va % (4 * n : Int) = 0 → 0 ≤ va → va + 4 * n ≤ 2 ^ 53 →
    (∀ addr host, rd.1 = .ok addr host →
      IssuesOn (.ldg w) s rd.2 w f { newAcc s .load (space host) (physKey addr host) va.toNat n with vec := mVec w } (hazardCheck false)) ∧
    (∀ d, rd.1 = .fault 0x9001 d →
      IssuesOn (.ldg w) s rd.2 w f { newAcc s .load .hbm 0 va.toNat n with vec := mVec w, phase := .held }
        (fun t => raiseAt t s.cur (firingNo (curCtx s) (curSlotNo s)) 0x9001 va.toNat d 0)) ∧
    (storeGiven w s y y2 →
      (∀ addr host, wr.1 = .ok addr host →
        IssuesOn (.stg w) s wr.2 w (storeFire w [.c])
          { newAcc s .store (space host) (physKey addr host) va.toNat n with val := storeDatum w y y2 } (hazardCheck true)) ∧
      (∀ d, wr.1 = .fault 0x9001 d →
        IssuesOn (.stg w) s wr.2 w (storeFire w [.c])
          { newAcc s .store .hbm 0 va.toNat n with val := storeDatum w y y2, phase := .held }
          (fun t => raiseAt t s.cur (firingNo (curCtx s) (curSlotNo s)) 0x9001 va.toNat d 0)))

/-- SYS forms at level S or H, and their fault at level T (R413). -/
def Obligations.SysForms : Prop :=
  ∀ (w : OpA) (s : State) (x y : Nat),
    let a := ((x % 2 ^ 29 : Nat) + 4 * mOff w) % (2 ^ 29 : Int)
    predOn w (insOf s) → (insOf s).a = .data x → a % 4 = 0 →
    (levelOf s s.cur.isl (curCtx s) ≠ 0 →
      IssuesAs (.syrd w) s w { eat := withP w.pred [.a] } (newAcc s .load .sys a.toNat a.toNat 1) id ∧
      (dataB w (insOf s) y → mW64 w = false → mVec w = false →
        IssuesAs (.sywr w) s w (storeFire w []) { newAcc s .store .sys a.toNat a.toNat 1 with val := storeDatum w y 0 } id)) ∧
    (levelOf s s.cur.isl (curCtx s) = 0 → FaultsAs (.syrd w) s w 0x9012 a.toNat)

/-- Counter forms on an SBUF counter (R418, R419), and FLT_COPY_SPEC for a reserved bit of the address. -/
def Obligations.CounterForms : Prop :=
  ∀ (w : OpA) (s : State) (x y y2 z : Nat),
    let a := x + 2 ^ 32 * z
    let v := if w.ib then modPow 32 (sextNat 16 w.imm.toNat) else if mW64 w then y + 2 ^ 32 * y2 else y
    predOn w (insOf s) → (insOf s).a = .data x → (insOf s).c = .data z →
    (a.testBit 63 = false → ctrReserved a = false → sbufOk s (a : Nat) 2 false →
      IssuesAs (.ctrrd w) s w { eat := withP w.pred [.a, .c] } (newAcc s .ctrRead .sbuf (sbufBase + a) a 2) (hazardCheck false) ∧
      (storeGiven w s y y2 → v.testBit 63 = false →
        IssuesAs (.ctradd w) s w (storeFire w [.c])
          { newAcc s .ctrAdd .sbuf (sbufBase + a) a 2 with val := natWords 2 v, rel := mOrd w } (hazardCheck true) ∧
        IssuesAs (.waitge w) s w (storeFire w [.c])
          { newAcc s .waitGe .sbuf (sbufBase + a) a 2 with val := natWords 2 v, n := 1 } (hazardCheck false))) ∧
    (ctrReserved a = true → FaultsAs (.ctrrd w) s w 0x9015 a)

/-- STREAM and COPY (R416): each data token is gathered into operator state, and the last one sends the group: all its words
leave on T0 in order, and one operation is pending that the completion token waits for. -/
def Obligations.RequestGroups : Prop :=
  ∀ e ∈ [(Instr.stream, 12), (.copy, 8)], ∀ (w : OpA) (s : State) (x : Nat),
    let cnt := ((insOf s).st.getD 12 0).toNat
    (insOf s).a = .data x → groupBusy s w = false →
    (cnt + 1 < e.2 →
      FiresAs (e.1 w) s w.t0 w.t1
        { eat := [.a], st := [(cnt, BitVec.ofNat 32 x), (12, BitVec.ofNat 32 (cnt + 1))], keepsState := true }) ∧
    (e.2 ≤ cnt + 1 → mayFire s = true → room s w.t0 w.t1 [(false, .sc 0), (true, .sc 0)] = true →
      exec (e.1 w) s = .next (sendGroup w e.2 x (insOf s).st
        { newAcc s .request .sys (requestKey s w) 0 1 with
            t1 := w.t1, deps := liveDeps s s.cur.isl (fireDeps (curCtx s) s.cur.cell s.cur.k (lastWord cnt x)) }
        (commit s w.t0 w.t1 (lastWord cnt x)))) ∧
    (∀ (a : Acc) (t : State) v d, w.t0 = .vc v → vcDest t (curCtx t) t.cur.isl t.cur.cell v.toNat = some d → (insOf s).st.length = 16 →
      SameMachine t (sendGroup w e.2 x (insOf s).st a t) ∧
      (sendGroup w e.2 x (insOf s).st a t).nextAcc = t.nextAcc + 1 ∧
      ((sendGroup w e.2 x (insOf s).st a t).flights.drop t.flights.length).map (fun g => (g.dest, g.tok.data.toNat)) =
        ((insOf s).st.take (e.2 - 1)).map (fun v => (d, v.toNat)) ++ [(d, x % 2 ^ 32)])

/-- Spill queues (R420, R221, R473). QPUSH gathers an entry and pushes it: the bank write waits in the check stage (R273). QPOP
delivers the oldest entry word by word. A refill moves the oldest ring entry to the tail of the resident store (R221, R473).
A ring slot outside the thread's windows stops
the refill (R253). The data 0 of QPUSH's CTL token is the model's choice (log entry 14). -/
def Obligations.SpillQueues : Prop :=
  (∀ (w : OpA) (s : State) (i x l : Nat),
    let ins := insOf s
    let word (j : Nat) : Nat := (ins.st.getD j 0).toNat
    let c := curCtx s
    let n := curSlotNo s
    let q := spillAt c i
    let d := descAt c i
    let k := residentKey s s.cur.isl s.cur.slot d q.reshead
    let s1 := modCtx s s.cur.isl s.cur.slot (fun c => { c with sdeps := c.sdeps.set [] n (liveDeps s s.cur.isl q.deps) })
    let pop (t : State) : State := modCtx t s.cur.isl s.cur.slot (fun c =>
      setSpill c i { markSpill q s.cycle with nr := q.nr - 1, reshead := (q.reshead + 1) % 32 })
    (pushDesc c s.cur.cell s.cur.k = some i →
      (ins.a = .data x → word 8 + 1 < spW d →
        FiresAs (.qpush w) s w.t0 w.t1
          { eat := [.a], st := [(word 8, BitVec.ofNat 32 x), (8, BitVec.ofNat 32 (word 8 + 1))], keepsState := true }) ∧
      (ins.a = .data x → spW d ≤ word 8 + 1 → spillRoom d q s.cycle (pushesHeld s s.cur.isl s.cur.slot i) = true → mayFire s = true →
        room s w.t0 w.t1 (toBoth (.sc 0)) = true →
        let f : Fire := { eat := [.a], outs := toBoth (.sc 0), st := [(word 8, BitVec.ofNat 32 x), (8, 0)], keepsState := true, endsState := true }
        exec (.qpush w) s = .next (deferPush (coverSpill (commit s w.t0 w.t1 f) i (fireDeps c s.cur.cell s.cur.k f)) i
          (ins.st.take (word 8) ++ [BitVec.ofNat 32 x]) 0)) ∧
      (ins.a = .stop l → word 8 = 0 → spillRoom d q s.cycle (pushesHeld s s.cur.isl s.cur.slot i) = true → mayFire s = true →
        room s w.t0 w.t1 (toBoth (.stop l)) = true →
        let f : Fire := { eat := [.a], outs := toBoth (.stop l) }
        exec (.qpush w) s = .next (deferPush (coverSpill (commit s w.t0 w.t1 f) i (fireDeps c s.cur.cell s.cur.k f)) i
          (List.replicate (spW d) 0) l)) ∧
      (ins.a = .data x → spW d ≤ word 8 + 1 → spillRoom d q s.cycle (pushesHeld s s.cur.isl s.cur.slot i) = false → exec (.qpush w) s = .next s)) ∧
    (popDesc c s.cur.cell s.cur.k = some i →
      let next := if word 0 + 1 < spW d then word 0 + 1 else 0
      (word 0 ≠ 0 →
        FiresAs (.qpop w) s w.t0 w.t1
          { outs := toBoth (.sc (word (word 0))), st := [(0, BitVec.ofNat 32 next)], keepsState := true, endsState := next == 0 }) ∧
      (word 0 = 0 → q.nr ≠ 0 → readCheck s k (spW d) = (.good, s) → mayFire s = true → room s w.t0 w.t1 (toBoth (.sc 0)) = true →
        (q.rtag.getD q.reshead 0 ≠ 0 →
          exec (.qpop w) s = .next (pop (commit s1 w.t0 w.t1
            { outs := toBoth (.stop (q.rtag.getD q.reshead 0)), keepsState := true, endsState := true }))) ∧
        (q.rtag.getD q.reshead 0 = 0 →
          exec (.qpop w) s = .next (pop (commit s1 w.t0 w.t1
            { outs := toBoth (.sc ((rdWords s k (spW d)).getD 0 0).toNat), keepsState := true, endsState := next == 0,
              st := (0, BitVec.ofNat 32 next) :: ((rdWords s k (spW d)).zipIdx.drop 1).map (fun e => (e.2, e.1)) })))) ∧
      (∀ j, word 0 = 0 → q.nr ≠ 0 → readCheck s k (spW d) = (.poisoned j, s) → mayFire s = true → room s w.t0 w.t1 (toBoth (.sc 0)) = true →
        exec (.qpop w) s = .next (raiseHere s 0x9033 (spBase d + spW d * (q.reshead % 32) + j) 1 0)) ∧
      (word 0 = 0 → q.nr = 0 → exec (.qpop w) s = .next s)) ∧
    (popDesc c s.cur.cell (w.imm.toNat % 8) = some i → ins.a = .data x →
      FiresAs (.qcount w) s w.t0 w.t1
        { eat := [.a], outs := toBoth (.sc (q.nr + (q.rtail + 2 ^ 32 - q.rhead) % 2 ^ 32)) })) ∧
  (∀ (s : State) (isl slot i : Nat),
    let c := ctxAt s isl slot
    let q := spillAt c i
    Tab.wf {} s.ctxs = true → Tab.wf {} c.spills = true →
    let d := descAt c i
    c.st = .active → i < c.block.spills.length → ringCount q ≠ 0 → q.nr < 32 → popBlocked s c d = false →
    (∀ a, ringBarred s isl slot d q.rhead = some a →
      exec (.spillRefill isl slot i) s = .next (raiseAt s { isl := isl, slot := slot, cell := spCell d, k := spK d }
        (firingNo c (8 * spCell d + spK d)) 0x9004 a 0 0)) ∧
    (ringBarred s isl slot d q.rhead = none →
    ∃ t, exec (.spillRefill isl slot i) s = .next t ∧
      (spillAt (ctxAt t isl slot) i).nr = q.nr + 1 ∧ (spillAt (ctxAt t isl slot) i).rhead = (q.rhead + 1) % 2 ^ 32 ∧
      t.mem = (wrWords s (residentKey s isl slot d ((q.reshead + q.nr) % 32))
        (rdWords s (ringKey d q.rhead) (spW d))).mem))

/-- Owner cells (R421, R422): OWN takes a range into its first free pair; an update form sends its group on T0 and counts as outstanding until its owner applies it (R410). An update group at its owner (R222, R423): with a free range and no reply asked, the word takes its new value, the
group leaves the buffer, and no other byte of memory changes. The data 0 of the CTL tokens is the model's choice (log entry
14), and so is that an update stands as an operation until its owner has applied it (log entry 71). -/
def Obligations.OwnerForms : Prop :=
  (∀ (w : OpA) (s : State) (x y z : Nat),
    let ins := insOf s
    let n := if w.ib then w.imm.toNat / 32 + 1 else y
    predOn w ins → ins.a = .data x →
    (dataB w ins y → ownFault (winLen (curCtx s) s.cur.cell) ins.st x n = none →
      FiresAs (.own w) s w.t0 w.t1
        { eat := withP w.pred (eatAB w), outs := [(true, .sc 0)],
          st := [(2 * ownFree ins.st, BitVec.ofNat 32 x), (2 * ownFree ins.st + 1, BitVec.ofNat 32 n)] }) ∧
    (dataB w ins y → ∀ code addr, ownFault (winLen (curCtx s) s.cur.cell) ins.st x n = some (code, addr) →
      mayFire s = true → exec (.own w) s = .next (raiseHere s code addr 0 0)) ∧
    let sends (i : Instr) (f : Fire) : Prop :=
      mayFire s = true → outstanding s s.cur.isl s.cur.cell < 16 → room s w.t0 w.t1 f.outs = true →
        exec i s = .next (trackUpdate (commit s w.t0 w.t1 f))
    (ins.b = .data y →
      ∀ e ∈ [(Instr.atadd, 1), (.atmin, 2), (.atmax, 3), (.atand, 4), (.ator, 5), (.atxor, 6), (.atxchg, 7), (.atfadd, 9)],
        sends (e.1 w)
          { eat := withP w.pred [.a, .b],
            outs := [(false, .sc (updHeader e.2 w ins)), (false, .sc (updOperand e.2 ins)), (true, .sc 0)] } ∧
        (e.2 ≠ 9 ∨ fmtSEN ins.fb = false → updOperand e.2 ins = y)) ∧
    (ins.b = .data y → ins.c = .data z →
      sends (.atcas w)
        { eat := withP w.pred [.a, .b, .c],
          outs := [(false, .sc (updHeader 8 w ins)), (false, .sc y), (false, .sc z), (true, .sc 0)] }) ∧
    sends (.atfrd w)
      { eat := withP w.pred [.a], outs := [(false, .sc (updHeader 10 w ins)), (true, .sc 0)] }) ∧
  (∀ (s : State) (isl slot cell vc j : Nat) (h o : Tok),
    let c := ctxAt s isl slot
    let k := arcSlot c cell vc
    let u := updOf h.data.toNat
    let key := winKey s isl slot c cell u.addr
    c.st = .active → k ∈ ownSlots c cell → (∃ e ∈ vcsOf c cell k 2, vcVc e = vc) →
    bufFull c cell (vcKey cell vc) = [h, o] → h.stop = 0 → o.stop = 0 → ownReady c cell = true →
    cellFailed s isl cell = false → readCheck s key 1 = (.good, s) → notHeader h.data.toNat = false → u.e = false → u.rpl = false →
    u.sub ≤ 7 → updHolder c cell u = some j →
    ∃ t, exec (.ownerUpdateApply isl slot cell vc) s = .next t ∧
      t.mem = (wrWord s key (BitVec.ofNat 32 (updWord u (rdWord s key).toNat (o.data.toNat % 2 ^ 32) 0))).mem ∧
      ∀ a, (a < key ∨ key + 4 ≤ a) → rdByte t a = rdByte s a) ∧
  (∀ (s : State) (isl slot cell vc : Nat) (h : Tok) (r : List Tok),
    let c := ctxAt s isl slot
    let k := arcSlot c cell vc
    c.st = .active → k ∈ ownSlots c cell → (∃ e ∈ vcsOf c cell k 2, vcVc e = vc) → cellFailed s isl cell = false →
    bufFull c cell (vcKey cell vc) = h :: r → h.stop = 0 → notHeader h.data.toNat = true →
    exec (.ownerUpdateApply isl slot cell vc) s =
      .next (raiseAt s { isl := isl, slot := slot, cell := cell, k := k } (firingNo c (8 * cell + k)) 0x9016 0 0 0))

/-- Group, fence and time forms (R425, R426, R428, R429): the operation joins the pending ones. -/
def Obligations.GroupFenceTimeForms : Prop :=
  ∀ (w : OpA) (s : State) (x : Nat),
    let ins := insOf s
    let f : Fire := { eat := withP w.pred [.a] }
    let g := if w.imm.toNat.testBit 10 then x % 1024 else w.imm.toNat % 1024
    predOn w ins → ins.a = .data x →
    (∀ e ∈ [(Instr.gjoin, AccKind.group 0), (.gleave, .group 1), (.garrive, .group 2), (.gdrop, .group 3), (.gwait, .gwait)],
      IssuesAs (e.1 w) s w f (newAcc s e.2 .sys g 0 1) id) ∧
    (∀ e ∈ [(Instr.fenceI, 0), (.fenceD, 1), (.fenceP, 2), (.fenceS, 3)],
      IssuesAs (e.1 w) s w f
        { newAcc s (.fence e.2) .sys 0 0 1 with vec := fmtVEC ins.fa, val := anyWords (fmtVEC ins.fa) (.data x) } id) ∧
    IssuesAs (.time w) s w f (newAcc s .time .sys 0 0 1) id ∧
    IssuesAs (.slotrd w) s w f (newAcc s .time .sys (1 + w.imm.toNat % 4) 0 1) id

/-- TRAP (R430): a performing firing raises FLT_TRAP with IMM in detail 2 and holds a's token; one whose predicate fails
passes it on. -/
def Obligations.TrapForm : Prop :=
  ∀ (w : OpA) (s : State) (x : Nat),
    let ins := insOf s
    let v := fmtVEC ins.fa
    ins.a = .data x →
    (predOn w ins →
      IssuesAs (.trap w) s w { eat := withP w.pred [.a] }
        { newAcc s .trap .sys 0 0 1 with vec := v, val := anyWords v (.data x), phase := .held }
        (fun t => raiseAt t s.cur (firingNo (curCtx s) (curSlotNo s)) 0x901F 0 0 w.imm.toNat)) ∧
    (predOff w ins → slotPending s = false →
      FiresAs (.trap w) s w.t0 w.t1
        { eat := withP w.pred [.a], outs := toBoth (if v then .vec x else .sc x) })

/-- Tile copies (R431): the range is checked, and the copy joins the work of the engine of its quad. -/
def Obligations.TileCopyForms : Prop :=
  ∀ e ∈ [(Instr.tcpyin, false), (.tcpyout, true)], ∀ (w : OpA) (s : State) (x : Nat),
    let nr := bitsOf w.imm.toNat 14 10 + 1
    predOn w (insOf s) → (insOf s).a = .data x →
    (x % 32 = 0 → x + 32 * nr ≤ winLen (curCtx s) s.cur.cell → mayFire s = true →
      room s w.t0 w.t1 [(false, .sc 0), (true, .sc 0)] = true →
      exec (e.1 w) s = .next (queueTile (quadOf s.cur.cell) s.nextAcc (issued s w { eat := withP w.pred [.a] }
        (newAcc s (.tile e.2 (w.imm.toNat % 16) (bitsOf w.imm.toNat 9 4) nr) .cell
          (winKey s s.cur.isl s.cur.slot (curCtx s) s.cur.cell x) x (32 * nr))))) ∧
    (x % 32 ≠ 0 → FaultsAs (e.1 w) s w 0x9010 x) ∧
    (x % 32 = 0 → winLen (curCtx s) s.cur.cell < x + 32 * nr → FaultsAs (e.1 w) s w 0x9011 x)

/-- JOIN (R424): with data on every arc it takes one value from each and emits them in arc order with a CTL token; with the
same stop on every arc it passes that stop. It fires when its targets have room for what it sends; one whose tokens outnumber
the entries that its context may hold in a buffer fires when each target can accept a token (the model's reading, log entry
72). The data 0 of the CTL token is the model's choice (log entry 14). -/
def Obligations.JoinForm : Prop :=
  ∀ (w : OpA) (s : State) (l : Nat),
    let c := curCtx s
    let arcs := joinArcs c (curSlotNo s)
    let vec := fmtVEC (operandFmt c s.cur.cell s.cur.k 0)
    let ins := arcs.map (fun a => presents vec (arcToks c s.cur.cell a))
    let heads (m : Nat) := arcs.flatMap (fun a => (arcToks c s.cur.cell a).take m)
    let fired (m : Nat) (outs : List (Bool × OutV)) : State :=
      commitBy s w.t0 w.t1 (liveDeps s s.cur.isl (depsOf (heads m))) none outs (fun c =>
        bumpFiring (popArcs (recordHist { c with begun := true } s.cur.cell s.cur.k (heads m)) s.cur.cell m arcs) (curSlotNo s))
    let fires (m : Nat) (outs : List (Bool × OutV)) : Prop :=
      mayFire s = true → groupBusy s w = false → canSend s w.t0 w.t1 outs = true → exec (.join w) s = .next (fired m outs)
    ((∀ i ∈ ins, ∃ v, i = .data v) →
      fires (if vec then 2 else 1)
        (ins.map (fun i => (false, if vec then .vec (inpVal i) else .sc (inpVal i))) ++ [(true, .sc 0)])) ∧
    (ins ≠ [] → (∀ i ∈ ins, i = .stop l) → fires 1 (toBoth (.stop l)))

/-- Privileged forms (R432 to R434): RDLVL delivers the level; XLATE the walk; each stops a thread at a lower level with
FLT_PRIV. HCALL at level S or H (R434): the call goes to the holm, and with the sixteen words of its argument block it joins the
holm's queue under the next ticket. HRET at level H: its status goes to the open call of its ticket as the firing passes the
check stage; with no such call it has no effect (R434, R273). The data 0 of HRET's CTL token is the model's choice (log entry
14). -/
def Obligations.PrivilegedForms : Prop :=
  (∀ (w : OpA) (s : State) (x z : Nat),
    let ins := insOf s
    let lv := levelOf s s.cur.isl (curCtx s)
    ins.a = .data x →
    FiresAs (.rdlvl w) s w.t0 w.t1 { eat := [.a], outs := toBoth (.sc lv) } ∧
    (predOn w ins → ins.c = .data z → lv ≠ 0 →
      let va := x + z % 2 ^ 21 * 2 ^ 32
      let f : Fire := { eat := withP w.pred [.a, .c], outs := xlateOuts s (w.imm.toNat % 32) va }
      mayFire s = true → room s w.t0 w.t1 f.outs = true →
        exec (.xlate w) s = .next (walk (commit s w.t0 w.t1 f) (w.imm.toNat % 32) va).2) ∧
    (predOn w ins → ins.c = .data z → lv = 0 → mayFire s = true →
      exec (.xlate w) s = .next (raiseHere s 0x9012 0 0 0)) ∧
    (predOn w ins → ins.c = .data z → lv = 0 → FaultsAs (.hcall w) s w 0x9012 0) ∧
    (predOn w ins → mayFire s = true → lv ≠ 2 → exec (.hret w) s = .next (raiseHere s 0x9012 0 0 0)) ∧
    (w.pred = .always → lv = 2 → mayFire s = true → room s w.t0 w.t1 (toBoth (.sc 0)) = true →
      exec (.hret w) s = .next (deferRet (commit s w.t0 w.t1 { eat := [.a], outs := toBoth (.sc 0) })
        (w.imm.toNat % 1024) x) ∧
      ∀ r ∈ (deferRet (commit s w.t0 w.t1 { eat := [.a], outs := toBoth (.sc 0) }) (w.imm.toNat % 1024) x).chks,
        r.tag = s.nextChk → r.ret = some (w.imm.toNat % 1024, x)) ∧
    (∀ (r : ChkRec) tk v, r.ret = some (tk, v) → passFiring s r = answerCall (passFiring s { r with ret := none }) tk v) ∧
    (∀ tk v, (∀ c ∈ s.fw.opened, c.ticket ≠ tk) → answerCall s tk v = s)) ∧
  (∀ (w : OpA) (s : State) (x z : Nat),
    predOn w (insOf s) → (insOf s).a = .data x → (insOf s).c = .data z → levelOf s s.cur.isl (curCtx s) ≠ 0 →
    notActive s s.cur.isl = false → s.fw.calls.length + callsOnWay s < 64 →
    IssuesAs (.hcall w) s w { eat := withP w.pred [.a, .c] }
      (newAcc s .hcall .sys (w.imm.toNat % 256) (x + z % 2 ^ 21 * 2 ^ 32) 1) id) ∧
  (∀ (s : State) (id : Nat) (a : Acc) (ws : List Word),
    let r := hcallBlock s a.site.isl (ctxAt s a.site.isl a.site.slot) a.va
    accAt s id = some a → a.kind = .hcall → a.phase = .issued → reaches s a 8 = true → r.1 = .ok ws →
    exec (.accessComplete id .ok) s = .next (joinCalls r.2 a ws) ∧
    (let sp := spaceOf r.2 a.site.isl (ctxAt r.2 a.site.isl a.site.slot)
     (joinCalls r.2 a ws).fw.calls =
       s.fw.calls ++ [{ ticket := s.fw.nextTicket, call := a.addr, space := sp, args := ws, acc := some a.id }]) ∧
    (joinCalls r.2 a ws).fw.nextTicket = (s.fw.nextTicket + 1) % 1024 ∧ (joinCalls r.2 a ws).mem = s.mem)

/-! ## Queue bytecodes -/

namespace Sys2Proof.Claims

/-- The program of queue q goes on: run state r, packet p and window as given, next bytecode t; past the last bytecode
the program ends and the packet goes on to its checks (R96, R98). -/
def goesOn (s : State) (q : Nat) (r : QRun) (p : Packet) (win : Tab Word) (t : Nat) : State :=
  let x := queueAt s q
  let l := loopTo r t
  let s' := setQueue s q { x with pkt := x.pkt.map (fun _ => p), win := win, run := some { l.1 with pc := l.2 } }
  if x.plen ≤ l.2 then prepend (modQueue s' q (fun y => { y with run := none })) (.issue q)
  else prepend s' (.bytecode q)

/-- The bytecode completes by going on as given from the run state with its step counted (R97). -/
def BytecodeAs (i : Instr) (s : State) (f : QRun → Packet → QRun × Packet × Tab Word × Nat) : Prop :=
  ∀ r, (queueAt s s.cur.q).run = some r → r.steps < 256 →
    let g := f { r with steps := r.steps + 1 } ((queueAt s s.cur.q).pkt.getD { hdr := 0, ws := [] })
    exec i s = .next (goesOn s s.cur.q g.1 g.2.1 g.2.2.1 g.2.2.2)

/-- Bytecodes that write bA from bA and bB, and from bA and an immediate (R96). -/
def qpTwo : List ((BitVec 4 → BitVec 4 → Instr) × (Word → Word → Word)) :=
  [(.qpMov, fun _ b => b), (.qpAdd, fun a b => a + b), (.qpSub, fun a b => a - b), (.qpAnd, fun a b => a &&& b),
   (.qpOr, fun a b => a ||| b), (.qpXor, fun a b => a ^^^ b), (.qpShl, fun a b => a <<< (b.toNat % 32)),
   (.qpShr, fun a b => a >>> (b.toNat % 32))]

def qpImm : List ((BitVec 4 → BitVec 7 → Instr) × (Word → BitVec 7 → Word)) :=
  [(.qpLdi, fun _ i => i.signExtend 32), (.qpAddi, fun a i => a + i.signExtend 32),
   (.qpAndi, fun a i => a &&& i.setWidth 32), (.qpOri, fun a i => a ||| i.setWidth 32)]

end Sys2Proof.Claims

/-- Bytecodes that write a register or F, and branches (R96). -/
def Obligations.BytecodeRegisters : Prop :=
  ∀ (s : State) (a b : BitVec 4) (i : BitVec 7) (n : BitVec 5),
    let win := (queueAt s s.cur.q).win
    let reg (r : QRun) (k : BitVec 4) : Word := r.regs.get 0 k.toNat
    let set (r : QRun) (v : Word) : QRun := { r with regs := r.regs.set 0 a.toNat v }
    (∀ e ∈ qpTwo, BytecodeAs (e.1 a b) s (fun r p => (set r (e.2 (reg r a) (reg r b)), p, win, r.pc + 1))) ∧
    (∀ e ∈ qpImm, BytecodeAs (e.1 a i) s (fun r p => (set r (e.2 (reg r a) i), p, win, r.pc + 1))) ∧
    BytecodeAs (.qpShli a n) s (fun r p => (set r (reg r a <<< n.toNat), p, win, r.pc + 1)) ∧
    BytecodeAs (.qpShri a n) s (fun r p => (set r (reg r a >>> n.toNat), p, win, r.pc + 1)) ∧
    BytecodeAs (.qpTeq a b) s (fun r p => ({ r with f := reg r a == reg r b }, p, win, r.pc + 1)) ∧
    BytecodeAs (.qpTltu a b) s (fun r p => ({ r with f := decide (reg r a < reg r b) }, p, win, r.pc + 1)) ∧
    BytecodeAs (.qpTeqi a i) s (fun r p => ({ r with f := reg r a == i.setWidth 32 }, p, win, r.pc + 1)) ∧
    BytecodeAs (.qpBrt i) s (fun r p => (r, p, win, if r.f then r.pc + 1 + i.toNat else r.pc + 1)) ∧
    BytecodeAs (.qpBrf i) s (fun r p => (r, p, win, if r.f then r.pc + 1 else r.pc + 1 + i.toNat)) ∧
    BytecodeAs (.qpJmp i) s (fun r p => (r, p, win, r.pc + 1 + i.toNat)) ∧
    BytecodeAs (.qpLoopn a i) s (fun r p =>
      ({ r with regs := r.regs.set 0 15 0, loop := some (r.pc, r.pc + a.toNat + 1, i.toNat) }, p, win, r.pc + 1))

/-- Bytecodes that read and write packet and state words, and QE_PROGRANGE for a word out of range (R96, R97). -/
def Obligations.BytecodeWords : Prop :=
  ∀ (s : State) (a b : BitVec 4) (i : BitVec 7) (j : BitVec 6) (r : QRun) (p : Packet),
    let x := queueAt s s.cur.q
    let r1 := { r with steps := r.steps + 1 }
    let set (v : Word) : QRun := { r1 with regs := r1.regs.set 0 a.toNat v }
    let breg := (r.regs.get 0 b.toNat).toNat
    let areg := r.regs.get 0 a.toNat
    let word (n : Nat) : Word := if n = 0 then p.hdr else p.ws.getD (n - 1) 0
    let on (r : QRun) (p : Packet) (win : Tab Word) := Host.Outcome.next (goesOn s s.cur.q r p win (r1.pc + 1))
    x.run = some r → r.steps < 256 → x.pkt = some p →
    (breg ≤ p.count → exec (.qpLdp a b) s = on (set (word breg)) p x.win) ∧
    (i.toNat ≤ p.count → exec (.qpLdpi a i) s = on (set (word i.toNat)) p x.win) ∧
    (breg ≤ p.count → breg ≠ 0 →
      exec (.qpStp a b) s = on r1 { p with ws := p.ws.set (breg - 1) areg } x.win) ∧
    (i.toNat ≤ p.count → i.toNat ≠ 0 →
      exec (.qpStpi a i) s = on r1 { p with ws := p.ws.set (i.toNat - 1) areg } x.win) ∧
    (breg ≤ 63 → exec (.qpLdq a b) s = on (set (x.win.get 0 breg)) p x.win) ∧
    exec (.qpLdqi a j) s = on (set (x.win.get 0 j.toNat)) p x.win ∧
    (breg ≤ 63 → exec (.qpStq a b) s = on r1 p (x.win.set 0 breg areg)) ∧
    exec (.qpStqi a j) s = on r1 p (x.win.set 0 j.toNat areg) ∧
    (p.count < breg →
      exec (.qpLdp a b) s = .next (queueError s s.cur.q 0x010C (leBytes 1 r.pc)) ∧
      exec (.qpStp a b) s = .next (queueError s s.cur.q 0x010C (leBytes 1 r.pc))) ∧
    (63 < breg → exec (.qpLdq a b) s = .next (queueError s s.cur.q 0x010C (leBytes 1 r.pc)))

/-- The ends of a program (R96); words out of range, the count of steps, and step 257 of a packet's program (R97). -/
def Obligations.BytecodeEnds : Prop :=
  ∀ (s : State) (a b : BitVec 4) (i : BitVec 7) (r : QRun) (p : Packet),
    let q := s.cur.q
    let x := queueAt s q
    let breg := (r.regs.get 0 b.toNat).toNat
    let bad (j : Instr) : Prop := exec j s = .next (queueError s q 0x010C (leBytes 1 r.pc))
    x.run = some r →
    (r.steps < 256 →
      exec (.qpPass a i) s = .next (prepend (modQueue s q (fun y => { y with run := none })) (.issue q)) ∧
      exec (.qpSkip a i) s = .next (setQueue s q (passPacket x (skipLen x))) ∧
      exec (.qpFail a i) s = .next (queueError s q 0x010B (leBytes 1 i.toNat))) ∧
    (r.steps < 256 → x.pkt = some p →
      (p.count < breg → bad (.qpLdp a b) ∧ bad (.qpStp a b)) ∧ (breg = 0 → bad (.qpStp a b)) ∧
      (p.count < i.toNat → bad (.qpLdpi a i) ∧ bad (.qpStpi a i)) ∧
      (63 < breg → bad (.qpLdq a b) ∧ bad (.qpStq a b))) ∧
    (∀ j, encodeQp j ≠ none → r.steps < 256 → Tab.wf {} s.queues = true →
      ∃ t, exec j s = .next t ∧
        ((queueAt t q).run = none ∨ ∃ r1, (queueAt t q).run = some r1 ∧ r1.steps = r.steps + 1)) ∧
    (Tab.wf {} s.queues = true → ∀ code detail, (queueAt (queueError s q code detail) q).run = none) ∧
    (256 ≤ r.steps → ∀ j, encodeQp j ≠ none → exec j s = .next (queueError s q 0x010A (leBytes 1 r.pc)))

/-- A queue error (R85): the queue enters FAULT with the code, its program ends, and its event waits for its ring. -/
def Obligations.QueueErrorEffect : Prop :=
  ∀ (s : State) (q code : Nat) (detail : List Byte), Tab.wf {} s.queues = true →
    let t := queueError s q code detail
    (queueAt t q).st = .fault ∧ (queueAt t q).lastErr = code % 256 ∧ (queueAt t q).run = none ∧
    (queueAt t q).pkt = (queueAt s q).pkt ∧ (queueAt t q).ci = (queueAt s q).ci ∧ (queueAt t q).pi = (queueAt s q).pi ∧
    t.mem = s.mem ∧ t.ctxs = s.ctxs ∧ t.sched = s.sched ∧ (∀ j, j ≠ q → queueAt t j = queueAt s j) ∧
    (Tab.wf {} s.rings = true →
      ∃ ev, (ringAt t (queueAt s q).evr).waiting = (ringAt s (queueAt s q).evr).waiting ++ [ev] ∧ ev.code = code ∧ ev.src = q)

/-! ## Matrix micro-operations -/

namespace Sys2Proof.Claims

/-- The engine of the executing site works for its context (R436, R470). -/
def Working (s : State) : Prop := engMay s = true ∧ (engAt (curCtx s) s.cur.eng).busy = true

/-- The work row that the engine has reached. -/
def atRow (s : State) : Nat := (engAt (curCtx s) s.cur.eng).row

/-- The micro-operation completes a work row with `t`: the next row, or the next micro-operation after the last (R439,
R468). -/
def rowEnds (rows row : Nat) (t : State) : State :=
  if row + 1 < rows then modEng t (fun g => { g with row := g.row + 1 }) else endMicro t

/-- A micro-operation of `rows` work rows that names `tiles`: row i leaves `body t i` of the state with its tiles
claimed (R446, R468). -/
def RowsAs (i : Instr) (s : State) (tiles : List Nat) (rows : Nat) (body : State → Nat → State) : Prop :=
  Working s → exec i s = .next (rowEnds rows (atRow s) (body (claimTiles s tiles) (atRow s)))

end Sys2Proof.Claims

/-- Micro-operations that work row by row on tiles (R455, R456, R459, R465): what the row at which the engine stands
writes. -/
def Obligations.EngineRows : Prop :=
  ∀ (s : State) (ta tb td : BitVec 4) (row nr drow : BitVec 6) (k : BitVec 3) (kd : BitVec 2) (fn : BitVec 3) (b : Bool)
    (sh : BitVec 4),
    let n := nr.toNat + 1
    let A := ta.toNat
    let D := td.toNat
    let pwd (t : State) (j : Nat) : Nat := ((engAt (curCtx t) t.cur.eng).pw.get 0 j).toNat
    RowsAs (.mzero td row nr) s [D] n (fun t i => setTRow t D (row.toNat + i) (List.replicate 32 0)) ∧
    RowsAs (.mfill td row nr k) s [D] n (fun t i => setTRow t D (row.toNat + i) (List.replicate 32 (pwd t k.toNat))) ∧
    RowsAs (.mcopy ta td row nr drow) s [A, D] n (fun t i => setTRow t D (drow.toNat + i) (tRow t A (row.toNat + i))) ∧
    RowsAs (.mtrans ta td row drow false) s [A, D] 32
      (fun t i => setTRow t D (drow.toNat + i) ((List.range 32).map (fun j => tWord t A (row.toNat + j) i))) ∧
    RowsAs (.mtrans ta td row drow true) s [A, D] 64
      (fun t i => setTRow t D i ((List.range 32).map (fun w => tHalf t A (2 * w) i + 2 ^ 16 * tHalf t A (2 * w + 1) i))) ∧
    RowsAs (.madd ta tb td row nr kd) s [A, tb.toNat, D] n
      (fun t i => elemRow (maddWord kd.toNat) t A tb.toNat D (row.toNat + i)) ∧
    RowsAs (.mcmul ta tb td row nr b) s [A, tb.toNat, D] n
      (fun t i => elemRow (mcmulWord b) t A tb.toNat D (row.toNat + i)) ∧
    RowsAs (.mconj ta td row nr) s [A, D] n
      (fun t i => elemRow (fun a _ => ciSat (ciRe a) (-ciIm a)) t A A D (row.toNat + i)) ∧
    RowsAs (.mact ta td row nr fn b) s [A, D] n
      (fun t i => elemRow (fun a _ => mactWord fn.toNat b (pwd t 1) a) t A A D (row.toNat + i)) ∧
    RowsAs (.spzero td) s [D] 4 (fun t i => setTRow t D (60 + i) (List.replicate 32 0)) ∧
    RowsAs (.mscale ta row nr sh) s [A] n (fun t i =>
      let u := elemRow (fun a _ => (ciPack (scalePart (sextNat 4 sh.toNat) (ciRe a)).1 (scalePart (sextNat 4 sh.toNat) (ciIm a)).1,
        (scalePart (sextNat 4 sh.toNat) (ciRe a)).2 || (scalePart (sextNat 4 sh.toNat) (ciIm a)).2)) t A A A (row.toNat + i)
      if i + 1 < n then u else addBexp u A (sextNat 4 sh.toNat)) ∧
    (let g := engAt (curCtx s) s.cur.eng
     dV g.act.desc.toNat = true →
      RowsAs (.mmul ta td row nr b true) s [A, D, dTa g.act.desc.toNat] n
        (fun t i => mulRow false A D (row.toNat + i) b true g t) ∧
      RowsAs (.mmul ta td row nr b false) s [A, D, dTa g.act.desc.toNat] n
        (fun t i => mulRow false A D (row.toNat + i) b false g t) ∧
      RowsAs (.macc ta td row nr b true) s [A, D, dTa g.act.desc.toNat] n
        (fun t i => mulRow true A D (row.toNat + i) b true g t) ∧
      RowsAs (.macc ta td row nr b false) s [A, D, dTa g.act.desc.toNat] n
        (fun t i => mulRow true A D (row.toNat + i) b false g t))

/-- Micro-operations that end at once (R441, R446, R450, R451, R465, R466), and the requantisation of a row (R453). The data 0 of the
CTL token that MSIG sends is the model's choice (log entry 14). -/
def Obligations.EngineSettings : Prop :=
  ∀ (s : State) (ta td : BitVec 4) (v : BitVec 8) (nact : BitVec 5) (kact : BitVec 7) (p q : BitVec 2) (row : BitVec 6)
    (nr : BitVec 5) (sk : Bool) (df rm : BitVec 3),
    let A := ta.toNat
    let t := claimTiles s [A]
    let x := tileSt t (curTile t A)
    Working s →
    exec .mnop s = .next (endMicro s) ∧
    exec .mswap s = .next (endMicro (modEng s (fun g => { g with act := g.shadow, shadow := g.act }))) ∧
    exec (.mmask nact kact) s =
      .next (endMicro (modEng s (fun g => { g with msk := BitVec.ofNat 32 (nact.toNat + 32 * kact.toNat) }))) ∧
    exec (.mbexpSet ta v) s = .next (endMicro (setTileSt t (curTile t A) (v.toNat, x.2.1, x.2.2))) ∧
    exec (.msatclr ta) s = .next (endMicro (setTileSt t (curTile t A) (x.1, false, x.2.2))) ∧
    (outRoom t p.toNat 1 = true →
      exec (.mbexpOut ta p) s = .next (endMicro (sendPort t p.toNat [scalarTok (x.1 + 256 * (if x.2.1 then 1 else 0)) []]))) ∧
    (outRoom s p.toNat 1 = true →
      exec (.msig p false q) s = .next (endMicro (sendPort s p.toNat [scalarTok 0 []]))) ∧
    (∀ k r, portView s q.toNat = k :: r → k.stop ≠ 0 → outRoom s p.toNat 1 = true →
      exec (.msig p true q) s = .next (endMicro (sendPort (takePort s q.toNat 1) p.toNat [stopTok k.stop []]))) ∧
    (let per := 32 / dfWidth df.toNat
     let rows := (nr.toNat + 1 + per - 1) / per
     let u := claimTiles s [A, td.toNat]
     let srcs := (List.range per).filter (fun i => decide (per * atRow s + i < nr.toNat + 1))
     let e := sextNat 8 ((engAt (curCtx s) s.cur.eng).pw.get 0 0).toNat
     let l := srcs.flatMap (fun i => (tRow u A (row.toNat + per * atRow s + i)).map (fun x =>
       dfConv df.toNat (rmodeOf rm.toNat) ((if sk then f32F.dec x else FVal.ofInt (i32F.read x)).scale e)))
     exec (.mcvt ta td row nr sk df rm) s = .next (rowEnds rows (atRow s)
       (markSat (wrBytes u (tKey u td.toNat (row.toNat + atRow s) 0)
         (leBytes (l.length * dfWidth df.toNat / 8) (packLanes (dfWidth df.toNat) (l.map (·.1))))) td.toNat (l.any (·.2)))))

/-- Micro-operations that move beats, weights and sparse columns (R448, R454, R458, R459), each on a work row whose tokens
or room are there; the words that MOUT writes to a bank, one at a time in any order (R236), where the pick of the next one is
free and goes on to the words of the next row (the model's choice of grain, log entry 14); and the faults of R470 that stop
one. MLDA discards the padding beats of nb8 groups of an odd number of planes (R303), the first of which begins with it (log
entry 14). -/
def Obligations.EnginePorts : Prop :=
  ∀ (s : State) (ta td : BitVec 4) (port q : BitVec 2) (pidx l wk pl : BitVec 3) (fmt n5 : BitVec 5) (row nr : BitVec 6)
    (mid clr : Bool),
    let g := engAt (curCtx s) s.cur.eng
    Working s →
    (let t := claimTiles s [td.toNat]
     let view := (portView t port.toNat).take 4
     let p := oddPlanes (curCtx t) t.cur.eng port.toNat
     (p = 0 → view.length = 4 → (∀ k ∈ view, k.stop = 0) →
       exec (.mlda td port row nr) s = .next (rowEnds (nr.toNat + 1) g.row
         (setBeats (takePort t port.toNat 4) td.toNat (128 * (row.toNat + g.row)) ((List.range 4).zip view)))) ∧
     (let at_ (b : Nat) : Nat := beatIdx 2 p (4 * g.row + b) - beatIdx 2 p (4 * g.row)
      let wide := (portView t port.toNat).take (at_ 4)
      p ≠ 0 → wide.length = at_ 4 → (∀ k ∈ wide, k.stop = 0) →
       exec (.mlda td port row nr) s = .next (rowEnds (nr.toNat + 1) g.row
         (setBeats (takePort t port.toNat (at_ 4)) td.toNat (128 * (row.toNat + g.row))
           ((List.range 4).map (fun b => (b, wide.getD (at_ b) {})))))) ∧
     (p = 0 → let good := view.takeWhile (fun k => k.stop = 0)
      good.length < 4 → (∃ k ∈ view, k.stop ≠ 0) →
       exec (.mlda td port row nr) s = .next (raiseEngine
         (setBeats (takePort t port.toNat good.length) td.toNat (128 * (row.toNat + g.row)) ((List.range 4).zip good)) 0x9016 0))) ∧
    (let t := claimTiles s [ta.toNat]
     outRoom t q.toNat 4 = true →
       exec (.mout ta false q pidx fmt row n5) s = .next (rowEnds (n5.toNat + 1) g.row
         (sendPort t q.toNat (rowBeats t ta.toNat (row.toNat + g.row))))) ∧
    (let t := claimTiles s [ta.toNat]
     let cell := quadCell t.cur.eng q.toNat
     let a := (g.pw.get 0 pidx.toNat).toNat % 2 ^ 14
     let key := winKey t t.cur.isl t.cur.slot (curCtx t) cell a
     let rows := n5.toNat + 1
     let words (r : Nat) : List Nat := (List.range 32).map (fun w => 32 * r + w)
     let left := if g.left = [] then words g.row else g.left
     let more := (curCtx t).st = .active ∧ g.row + 1 < rows
     let pick := pickOf t (left ++ (if more then [32 * rows] else []))
     (a % 32 = 0 → a + 32 * rows ≤ winLen (curCtx t) cell →
       (pick.1 = 32 * rows → more →
         exec (.mout ta true q pidx fmt row n5) s = .next (rowEnds rows g.row
           (modEng pick.2 (fun g => { g with left := left ++ words (g.row + 1) })))) ∧
       (pick.1 ≠ 32 * rows → pick.1 ∈ left ∧ ∃ u, exec (.mout ta true q pidx fmt row n5) s = .next u ∧
         u.mem = (wrWord t (key + 4 * pick.1)
           (BitVec.ofNat 32 ((tRow t ta.toNat (row.toNat + pick.1 / 32)).getD (pick.1 % 32) 0))).mem)) ∧
     (a % 32 ≠ 0 → exec (.mout ta true q pidx fmt row n5) s = .next (raiseEngine s 0x9010 a))) ∧
    (let t := claimTiles s [ta.toNat]
     let k := wk.toNat
     let p := pl.toNat + 1
     let rows := (wkBytes k p + 127) / 128
     let lo := 4 * g.row
     let hi := min (lo + 4) (wkBytes k p / 32)
     let m := beatIdx k p hi - beatIdx k p lo
     let view := (portView t port.toNat).take m
     let desc (scx : Nat) : State :=
       if g.row = 0 then
         modEng t (fun g => { g with shadow := { g.shadow with desc := BitVec.ofNat 32 (wkDesc k pl.toNat mid ta.toNat row.toNat scx) } })
       else t
     let done (u : State) : State := rowEnds rows g.row (if g.row + 1 < rows then u else
       modEng u (fun g => { g with shadow := { g.shadow with planes := loadPlanes u ta.toNat (128 * row.toNat) k p } }))
     exec (.mldw ta false port row wk pl mid) s = .next (done (desc 0)) ∧
     (view.length = m → (∀ x ∈ view, x.stop = 0) →
       exec (.mldw ta true port row wk pl mid) s = .next (done (setBeats
         (takePort (desc (portScale (curCtx t) t.cur.eng port.toNat)) port.toNat m) ta.toNat (128 * row.toNat)
         ((List.range (hi - lo)).map (fun i => (lo + i, view.getD (beatIdx k p (lo + i) - beatIdx k p lo) {}))))))) ∧
    (let t := claimTiles s [td.toNat]
     ∀ c r v r', portView t port.toNat = c :: r → portView t q.toNat = v :: r' →
      (c.stop = 0 → v.stop = 0 → c.data.toNat % 2 ^ 32 < 1920 →
        exec (.spacc td port q l) s = .next (modEng
          (spAdd (takePort (takePort t port.toNat 1) q.toNat 1) td.toNat (c.data.toNat % 2 ^ 32) (v.data.toNat % 2 ^ 32))
          (fun g => { g with row := g.row + 1 }))) ∧
      (c.stop ≠ 0 → v.stop = c.stop → l.toNat ≤ c.stop →
        exec (.spacc td port q l) s = .next (endMicro (takePort (takePort t port.toNat 1) q.toNat 1))) ∧
      (c.stop = 0 → v.stop = 0 → 1920 ≤ c.data.toNat % 2 ^ 32 →
        exec (.spacc td port q l) s = .next (raiseEngine s 0x9014 0))) ∧
    (let t := claimTiles s [ta.toNat]
     (∀ c, (spCols t ta.toNat)[g.row]? = some c → outRoom2 t port.toNat q.toNat = true →
       exec (.spout ta port q l clr) s = .next (modEng
         (sendPort (sendPort t port.toNat [scalarTok c []]) q.toNat [scalarTok (spVal t ta.toNat c) []])
         (fun g => { g with row := g.row + 1 }))) ∧
     ((spCols t ta.toNat)[g.row]? = none → l.toNat = 0 →
       exec (.spout ta port q l clr) s = .next (endMicro (if clr then spClear t ta.toNat else t)))) ∧
    (let t := claimTiles s [ta.toNat, td.toNat]
     (∀ c, (spCols t ta.toNat)[g.row]? = some c →
       exec (.spmerge ta td) s = .next (modEng (spAdd t td.toNat c (spVal t ta.toNat c)) (fun g => { g with row := g.row + 1 }))) ∧
     ((spCols t ta.toNat)[g.row]? = none → exec (.spmerge ta td) s = .next (endMicro t)))

/-- Butterfly mode (R460 to R464): a row of twiddles, of a digit reversal and of a stage, and FLT_STREAM_SPEC for
parameters out of range. -/
def Obligations.ButterflyRows : Prop :=
  ∀ (s : State) (ta td : BitVec 4) (nt rad : BitVec 2) (sc pidx : BitVec 3) (inv : Bool),
    let g := engAt (curCtx s) s.cur.eng
    let w := (g.pw.get 0 pidx.toNat).toNat
    let n := w % 2 ^ 14
    Working s →
    (let t := claimTiles s (chain td.toNat (nt.toNat + 1))
     (n ≠ 0 → n ≤ 2048 * (nt.toNat + 1) →
       exec (.mtwid td nt inv pidx) s = .next (rowEnds ((n + 31) / 32) g.row
         (setPts t td.toNat (fun k => let z := twiddle k n inv; ciPack z.1 z.2) (rowPts n g.row)))) ∧
     (n = 0 → exec (.mtwid td nt inv pidx) s = .next (raiseEngine s 0x9014 0))) ∧
    (let t := claimTiles s (chain ta.toNat (nt.toNat + 1) ++ chain td.toNat (nt.toNat + 1))
     ∀ l, facList w (g.pw.get 0 (pidx.toNat + 1)).toNat = some l → l.prod ≤ 2048 * (nt.toNat + 1) →
       let u := setPts t td.toNat (fun k => ptGet t ta.toNat (revIdx l k)) (rowPts l.prod g.row)
       let rows := (l.prod + 31) / 32
       exec (.mbrev ta td nt pidx) s = .next (rowEnds rows g.row
         (if g.row + 1 < rows then u else copyBexp u ta.toNat (chain td.toNat (nt.toNat + 1))))) ∧
    (let t := claimTiles s (chain ta.toNat (nt.toNat + 1))
     let r := radixOf rad.toNat
     let len := bitsOf w 26 14
     let rows := r * (n / r - 1) / 32 + 1
     let js := rowGroups n r g.row
     w / 2 ^ 27 = 0 → 2 ≤ n → n ≤ 2048 * (nt.toNat + 1) → len ≠ 0 → n % (len * r) = 0 →
       (sc.toNat < 4 ∨ (sc.toNat = 4 ∧ g.pass2 = true) →
         let sh := if sc.toNat = 4 then g.autoS else sc.toNat
         let u := writeGroups t ta.toNat len r sh inv js
         exec (.mbfly ta nt rad sc inv pidx) s =
           .next (rowEnds rows g.row (if g.row + 1 < rows then u else addBexps u sh (chain ta.toNat (nt.toNat + 1))))) ∧
       (sc.toNat = 4 → g.pass2 = false →
         let sh := max g.autoS (fitShift (js.flatMap (fun j => groupOut t ta.toNat len r j inv)))
         exec (.mbfly ta nt rad sc inv pidx) s = .next (modEng t (fun g =>
           if atRow s + 1 < rows then { g with autoS := sh, row := g.row + 1 }
           else { g with autoS := sh, pass2 := true, row := 0 }))))

/-- A command-port header starts its handler (R438): with no parameter words the engine is busy at micro-operation 0 of
the handler of the tag. -/
def Obligations.HandlerDispatch : Prop :=
  ∀ (s : State) (isl e σ : Nat) (t : Tok) (r : List Tok) (h : HndCfg),
    let s0 : State := { s with cur := { isl := isl, slot := σ, eng := e } }
    let c := ctxAt s isl σ
    let g := engAt c e
    Tab.wf {} s.ctxs = true → Tab.wf {} c.eng = true →
    engSlot s isl e = some σ → engMay s0 = true → g.busy = false → g.taken = false → g.work = [] →
    bufOf c (engKey e 0) = t :: r → t.stop = 0 → t.data.toNat % 2 ^ 32 < 16 →
    handlerOf c e (t.data.toNat % 2 ^ 32) = some h →
    ∃ u, exec (.engineHandlerDispatch isl e) s = .next u ∧
      (engAt (ctxAt u isl σ) e).busy = true ∧ (engAt (ctxAt u isl σ) e).tag = t.data.toNat % 2 ^ 32 ∧
      (engAt (ctxAt u isl σ) e).mop = 0 ∧ u.mem = s.mem

/-! ## Command packets -/

namespace Sys2Proof.Claims

/-- The executing queue may issue the packet: its turn, a good header with `count` payload words, and no SERIAL wait
(R84, R86, R87). -/
def PacketReady (s : State) (p : Packet) (count : Nat) : Prop :=
  mayIssue s (queueAt s s.cur.q) = true ∧ badHeader (queueAt s s.cur.q) p (some count) = false ∧
    (p.hdr.toNat.testBit 21 = false ∨ (queueAt s s.cur.q).pend = [])

/-- Every packet form with the payload length that R90 gives it. -/
def packetForms : List ((Packet → Instr) × Nat) :=
  [(.launch, 13), (.preload, 3), (.copyPacket, 9), (.signal, 5), (.waitgePacket, 5), (.callPacket, 3), (.returnPacket, 0),
   (.lend, 9), (.reclaim, 9), (.steerPacket, 9), (.fencePacket, 1), (.waittime, 3), (.mark, 1)]

end Sys2Proof.Claims

/-- The header check comes first (R86): a packet whose count is not its form's, or with a reserved header bit, raises
QE_BADHDR and completes nothing; a queue that has no turn does nothing. A packet that completes at issue (R84, R87): parsing moves past its header and payload, the packet number is used,
and nothing of it stays pending. -/
def Obligations.PacketChecksAndIssue : Prop :=
  (∀ e ∈ packetForms, ∀ (s : State) (p : Packet),
    (mayIssue s (queueAt s s.cur.q) = false → exec (e.1 p) s = .next s) ∧
    (mayIssue s (queueAt s s.cur.q) = true → p.count ≠ e.2 ∨ p.hdr.toNat / 2 ^ 22 ≠ 0 →
      exec (e.1 p) s = .next (queueError s s.cur.q 0x0102 []))) ∧
  (∀ (s : State) (q : Nat) (p : Packet),
    let x := queueAt s q
    let t := issueDone s q p
    Tab.wf {} s.queues = true → leaveBufs x.stack = [] → x.nextPkt ∉ x.pend →
    (queueAt t q).ci = x.ci + BitVec.ofNat 32 (1 + p.count) ∧ (queueAt t q).pkt = none ∧ (queueAt t q).run = none ∧
    (queueAt t q).nextPkt = x.nextPkt + 1 ∧ (queueAt t q).pend = x.pend ∧
    (queueAt t q).st = (if x.ci + BitVec.ofNat 32 (1 + p.count) = x.pi then .idle else .run))

/-- Packets that the front end performs itself (R88 to R93). The read of the function that a FENCE of scope 3 makes for writes
that may not be complete at the host, and its turn of completion, are the model's choice (log entry 74). -/
def Obligations.FrontEndPackets : Prop :=
  ∀ (s : State) (p : Packet) (k : Nat),
    let q := s.cur.q
    let x := queueAt s q
    (mayIssue s x = true → badHeader x p none = false → (p.hdr.toNat.testBit 21 = false ∨ x.pend = []) →
      exec (.nopPacket p) s = .next (issueDone s q p)) ∧
    (PacketReady s p 1 → pw p 0 < 4 → x.pend = [] → (pw p 0 = 3 → hostBehind s x.part = none) →
      exec (.fencePacket p) s = .next (issueDone s q p)) ∧
    (∀ f, PacketReady s p 1 → pw p 0 = 3 → x.pend = [] → hostBehind s x.part = some f →
      (x.asked = none → exec (.fencePacket p) s =
        .next (modQueue (emitOut s (.hostRead f)) q (fun y => { y with st := .wait, asked := some s.pcie.nextPost }))) ∧
      (∀ n, x.asked = some n → s.pcie.abort.get false f = false →
        exec (.fencePacket p) s = .next (issueDone (readDone s f n) q p))) ∧
    (PacketReady s p 1 → pw p 0 < 4 → x.pend ≠ [] → exec (.fencePacket p) s = .next (queueWait s q)) ∧
    (PacketReady s p 1 →
      exec (.mark p) s = .next (issueDone (modQueue (queueEvent s q 0x0002 (leBytes 4 (pw p 0)) false) q
        (fun x => { x with mark := p.ws.getD 0 0 })) q p)) ∧
    (PacketReady s p 5 → ctrBadWord (pw64 p 0) = none → (pw p 3).testBit 31 = false → pw p 4 < 2 ^ 7 →
      let c := ctrAt s x.part x.level (pw64 p 0) .rmw
      c.1 = .key k →
      exec (.signal p) s = .next (issueDone
        (if (pw p 4).testBit 0 then raiseMsixOf (ctrAdd c.2 k (pw64 p 2) false) x.part (bitsOf (pw p 4) 6 1)
         else ctrAdd c.2 k (pw64 p 2) false) q p)) ∧
    (PacketReady s p 5 → ctrBadWord (pw64 p 0) = none → (pw p 3).testBit 31 = false →
      let c := ctrAt s x.part x.level (pw64 p 0) .read
      let v := rdDword c.2 k
      c.1 = .key k →
      (v.testBit 63 = true →
        exec (.waitgePacket p) s = .next (queueError c.2 q 0x0108 (leBytes 8 v))) ∧
      (v.testBit 63 = false → pw64 p 2 ≤ v % 2 ^ 63 →
        exec (.waitgePacket p) s = .next (issueDone c.2 q p)) ∧
      (v.testBit 63 = false → v % 2 ^ 63 < pw64 p 2 →
        exec (.waitgePacket p) s = .next (modQueue c.2 q
          (fun y => { y with st := .wait, waitSince := some (x.waitSince.getD c.2.dtime) })))) ∧
    (PacketReady s p 3 → pw p 0 % 4 = 0 → vaHighBad p 1 = false → pw p 2 ≠ 0 → pw p 2 ≤ 2 ^ 20 →
      ((leaveBufs x.stack).length < 4 →
        exec (.callPacket p) s = .next (modQueue (issueDone s q p) q (fun y =>
          { y with stack := { addr := pw64 p 0, len := pw p 2, pos := 0 } :: y.stack, st := .run }))) ∧
      (4 ≤ (leaveBufs x.stack).length → exec (.callPacket p) s = .next (queueError s q 0x0104 []))) ∧
    (PacketReady s p 0 → leaveBufs x.stack = [] → exec (.returnPacket p) s = .next (queueError s q 0x0104 [])) ∧
    (PacketReady s p 0 → leaveBufs x.stack ≠ [] →
      exec (.returnPacket p) s = .next (modQueue (issueDone s q p) q (fun y =>
        let y := { y with stack := y.stack.drop (y.stack.length + 1 - (leaveBufs x.stack).length) }
        { y with st := restState y }))) ∧
    (PacketReady s p 3 → x.waitTime = none → pw p 2 = 0 →
      (pw64 p 0 ≤ s.dtime → exec (.waittime p) s = .next (issueDone s q p)) ∧
      (s.dtime < pw64 p 0 →
        exec (.waittime p) s = .next (modQueue s q (fun y => { y with st := .wait, waitTime := some (pw64 p 0) })))) ∧
    (∀ m, PacketReady s p 3 → x.waitTime = none → pw p 2 = 1 → pw p 1 < 14 →
      resolveSym s (clockOf s x.part) (pw p 0) (pw p 1) 0 = some m →
      (m ≤ s.dtime → exec (.waittime p) s = .next (issueDone s q p)) ∧
      (s.dtime < m →
        exec (.waittime p) s = .next (modQueue s q (fun y => { y with st := .wait, waitTime := some m })))) ∧
    (mayIssue s x = true → badHeader x p (some 3) = false → pw p 2 = 1 → 14 ≤ pw p 1 →
      exec (.waittime p) s = .next (queueError s q 0x0103 (leBytes 1 1)))

/-- Packets that ask other units (R90, R133, R152, R157, R158, R215): LAUNCH takes a free descriptor as a PENDING thread or
waits, PRELOAD orders a load, COPY joins its engine, STEER writes an entry, LEND and RECLAIM join the operations on
islands. -/
def Obligations.UnitPackets : Prop :=
  ∀ (s : State) (p : Packet) (t : Nat),
    let q := s.cur.q
    let x := queueAt s q
    (PacketReady s p 13 → firstBad (badEntry p ++ [(2, pw p 2 == 0), (3, pw p 3 == 0), (4, pw p 4 == 0), (5, badShape (pw p 5))]) = none →
      (pw p 5 % 8 < 2 → pw p 7 % 16 ≤ 13) → (pw64 p 10 ≠ 0 → ctrBadWord (pw64 p 10) = none) → (pw p 12).testBit 31 = false →
      badClass s x (pw p 5 % 8) = false →
      (∀ d, freeThread s = some t → partThreads s x.part < (ptcfgAt s x.part).maxthr →
        (if 2 ≤ pw p 5 % 8 then some (2 ^ 64 - 1)
          else resolveSym s (clockOf s x.part) (pw p 6) (pw p 7 % 16) (pw p 7 / 16)) = some d →
        let u := (issuePacket s q p).2
        exec (.launch p) s = .next (setThread { u with sched := { u.sched with nextSeq := u.sched.nextSeq + 1 } } t
          { st := .pending, cls := pw p 5 % 8, part := x.part, queue := q, level := x.level, h := bitsOf (pw p 5) 15 8,
            w := bitsOf (pw p 5) 23 16, entry := pw64 p 0, frame := pw64 p 0, ex := pw p 2, ey := pw p 3, ez := pw p 4,
            dl := d, seq := u.sched.nextSeq, arg := pw64 p 8, ctr := pw64 p 10, inc := pw p 12,
            notify := p.hdr.toNat.testBit 20, pos := queuePos x, hdr := p.hdr.toNat, packet := x.nextPkt })) ∧
      (freeThread s = none → exec (.launch p) s = .next (queueWait s q))) ∧
    (PacketReady s p 3 → firstBad (badEntry p ++ [(2, badShape (pw p 2))]) = none → badClass s x (pw p 2 % 8) = false →
      let h := bitsOf (pw p 2) 15 8
      let w := bitsOf (pw p 2) 23 16
      let ok := (origins h).filter (fun o => (regionOf h w o.1 o.2).all (fun i => islandOk s x.part i && canFree s x.part (pw p 2 % 8) i))
      let first := ok.filter (fun o => residentAt s x.part (pw64 p 0) h w o.1 o.2)
      (ok = [] → exec (.preload p) s = .next (queueWait s q)) ∧
      (∀ o r, first ++ ok = o :: r →
        ((∀ i ∈ regionOf h w o.1 o.2, hasSlot s x.part i = true) →
          exec (.preload p) s = .next (orderLoad (issuePacket s q p).2
            { thread := none, part := x.part, frame := pw64 p 0, h := h, w := w, orow := o.1, ocol := o.2, slots := [],
              packet := some (q, x.nextPkt), since := (issuePacket s q p).2.dtime, cls := pw p 2 % 8 })) ∧
        ((∃ i ∈ regionOf h w o.1 o.2, hasSlot s x.part i = false) → exec (.preload p) s = .next (queueWait s q)))) ∧
    (PacketReady s p 9 → copyBad p = none →
      let i := 8 * bitsOf (pw p 8) 4 3 + pw p 8 % 8
      ((ceAt s i).pendingQ.length < 16 →
        exec (.copyPacket p) s = .next (setCe (issuePacket s q p).2 i { ceAt s i with pendingQ := (ceAt s i).pendingQ ++
          [{ reqOf (pw64 p 0) (pw64 p 2) (pw64 p 4) (pw64 p 6) (0x1000 + q) x.nextPkt { q := q } with
               pos := queuePos x, hdr := p.hdr.toNat }] })) ∧
      (16 ≤ (ceAt s i).pendingQ.length → exec (.copyPacket p) s = .next (queueWait s q))) ∧
    (PacketReady s p 9 → pw p 0 < 2 ^ 12 →
      (x.level = 1 ∨ (ePart ((p.ws.drop 1).take 8) = x.part ∧ ePart (steerEntry s (pw p 0 % 2 ^ 12)) = x.part)) →
      (steerRefused s ((p.ws.drop 1).take 8) = false →
        exec (.steerPacket p) s = .next (issueDone (setSteer s (pw p 0 % 2 ^ 12) ((p.ws.drop 1).take 8)) q p)) ∧
      (steerRefused s ((p.ws.drop 1).take 8) = true → exec (.steerPacket p) s = .next (queueError s q 0x010E []))) ∧
    (PacketReady s p 9 → 1 ≤ pw p 0 → pw p 0 < 16 → x.part = 0 →
      (∀ i ∈ maskIslands p, ownerOf s i = 0 ∧ (lentOf s i = 0 ∨ lentOf s i = pw p 0)) →
      exec (.lend p) s = .next (settle (let u := (issuePacket s q p).2
        { u with sched := { u.sched with islOps := u.sched.islOps ++
            [{ lend := true, islands := maskIslands p, part := pw p 0, queue := q, packet := x.nextPkt }] } }))) ∧
    (PacketReady s p 9 → pw p 0 = 0 → x.part = 0 →
      exec (.reclaim p) s = .next (settle (let u := (issuePacket s q p).2
        { u with sched := { u.sched with islOps := u.sched.islOps ++
            [{ lend := false, islands := maskIslands p, part := 0, queue := q, packet := x.nextPkt }] } }))) ∧
    (PacketReady s p 9 → pw p 0 = 0 → x.part ≠ 0 → exec (.reclaim p) s = .next (queueError s q 0x0106 []))

/-! ## Package events -/

/-- Package reset, power and temperature (R16 to R24). A reset keeps only flash and host memory before the boot; voltage
steps are 5 mV between 560 and 680; CAPW is clamped to 300 to 600 W; over the cap the next limiting step is taken, of bulk before lent before firm; 110 °C trips the
module, removes VDDC and records the die. -/
def Obligations.PackageEvents : Prop :=
  ∀ (s : State) (b : BootIn) (v : Word) (l : Level) (d e k temp : Nat) (margin : Int) (r : List Nat),
    (exec (.packageReset b) s = .next (boot b (wiped s)) ∧ (wiped s).flash = s.flash ∧ (wiped s).sched = {} ∧
      (wiped s).ctxs = [] ∧ (∀ a, hostBase ≤ a → rdByte (wiped s) a = rdByte s a) ∧
      (∀ a, a < hostBase → rdByte (wiped s) a = 0)) ∧
    (v.toNat.testBit 0 = true → exec (.pkgrstGo v b) s = .next (boot b (wiped s))) ∧
    (v.toNat.testBit 31 = true → (dieAt s (v.toNat % 4)).absent = false → (dieAt s (v.toNat % 4)).inReset = false → s.pkg.rstQueue = [] →
      exec (.dierstGo v) s = .next (coreReset { s with pkg := { s.pkg with rstDie := v.toNat % 4, rstQueue := [v.toNat % 4] } }
        (v.toNat % 4))) ∧
    (v.toNat.testBit 31 = true → (dieAt s (v.toNat % 4)).absent = true ∨ (dieAt s (v.toNat % 4)).inReset = true →
      exec (.dierstGo v) s = .next s) ∧
    (s.pkg.rstQueue = d :: r → s.pkg.rstSince + 200 * usec ≤ s.dtime →
      exec (.dieResetDone d) s = .next (
        let u := modDie { s with pkg := { s.pkg with rstQueue := r } } d (fun x => { x with inReset := false })
        match r with | e :: _ => coreReset u e | [] => u)) ∧
    (d < 8 → margin < 0 → (dieAt s d).vddc < 680 →
      exec (.avsCheck d margin) s = .next (modDie s d (fun x => { x with vddc := (dieAt s d).vddc + 5 }))) ∧
    (d < 8 → margin < 0 → 680 ≤ (dieAt s d).vddc →
      exec (.avsCheck d margin) s = .next (postDeviceEvent s 0x8030 (leBytes 2 d ++ leBytes 2 (dieAt s d).vddc))) ∧
    (d < 8 → 15 ≤ margin → 565 ≤ (dieAt s d).vddc →
      exec (.avsCheck d margin) s = .next (modDie s d (fun x => { x with vddc := (dieAt s d).vddc - 5 }))) ∧
    (let u : State := { s with pkg := { s.pkg with samples := (s.pkg.samples ++ [e]).drop (s.pkg.samples.length + 1 - 10) } }
     (overCap u = true → nextLimit u = some k →
       exec (.powerSample e) s = .next { u with pkg := { u.pkg with
         limits := u.pkg.limits.set 0 k (u.pkg.limits.get 0 k + 1), overSince := none } }) ∧
     (overCap u = true → nextLimit u = none →
       exec (.powerSample e) s = .next { u with pkg := { u.pkg with
         overSince := if overAvg u then some (s.pkg.overSince.getD s.dtime) else none } }) ∧
     (overCap u = false → exec (.powerSample e) s = .next { u with pkg := { u.pkg with overSince := none } })) ∧
    (∀ t, s.pkg.overSince = some t → t + msec ≤ s.dtime →
      ∃ u, exec .pwrOvercap s = .next u ∧ u.pkg.overSince = none ∧ u.mem = s.mem ∧ u.sched = s.sched) ∧
    (100 * s.pkg.samples.sum < 95 * s.pkg.capw * s.pkg.samples.length → anyHot s = false → lastLimit s = some k →
      s.pkg.lifted + 100 * usec ≤ s.dtime →
      exec .powerLimitLift s = .next { s with pkg := { s.pkg with
        limits := s.pkg.limits.set 0 k (s.pkg.limits.get 0 k - 1), lifted := s.dtime } }) ∧
    (∀ j, nextLimit s = some j →
      (j / 16 = 1 ∨ j / 16 = 2 ∨ j / 16 = 3) ∧ classRuns s (j / 16) (j % 16) = true ∧ s.pkg.limits.get 0 j < 7 ∧
      ∀ p, p < 16 → classRuns s 3 p = true → s.pkg.limits.get 0 (48 + p) < 7 → j / 16 = 3) ∧
    (l ≠ .t → exec (.pwrcapWrite l v) s =
      .next (let u := journalSys s l 0x10 v
        { u with pkg := { u.pkg with capw := max 300 (min 600 (v.toNat % 1024)) } })) ∧
    (d < 9 → temp < 100 →
      exec (.thermSample d temp) s = .next (modDie s d (fun x => { x with temp := temp, hot := false }))) ∧
    (d < 9 → 110 ≤ temp →
      ∃ u, exec (.thermSample d temp) s = .next u ∧ u.pkg.boot = .tripped ∧ u.flash.trip = some d ∧ heldInReset u = true ∧
        ∀ i, i < 8 → (dieAt u i).vddc = 0)

/-- While the package is held in reset after a thermal trip or a failed boot, no move but a package reset changes anything
(R20, R112): the step only takes its move off the agenda and lets its time pass. -/
def Obligations.HeldInReset : Prop :=
  ∀ (s : State) (m : Move) (rest : List Move), s.agenda = m :: rest → heldInReset s = true →
    (∀ b, m.act ≠ .event (.packageReset b)) → step s = .next (passTime { s with agenda := rest } m.cycles m.dt)

/-- Reset (R21, R25, R46, R110): device time 0, every byte of memory 0, every full-empty bit empty, every queue and ring
disabled, every thread descriptor FREE, every context slot free, CAPW 450, fault queue empty with FSEQ 1 next. -/
def Obligations.ResetValues : Prop :=
  State.reset.dtime = 0 ∧ (∀ a, rdByte State.reset a = 0) ∧ (∀ a, isFull State.reset a = false) ∧
  (∀ q, (queueAt State.reset q).en = false ∧ (queueAt State.reset q).st = .disabled ∧ (queueAt State.reset q).ci = 0 ∧
    (queueAt State.reset q).pi = 0) ∧
  (∀ e, (ringAt State.reset e).en = false) ∧ (∀ t, (threadAt State.reset t).st = .free) ∧
  (∀ isl slot, (ctxAt State.reset isl slot).st = .free) ∧ State.reset.pkg.capw = 450 ∧
  State.reset.faults.queue = [] ∧ State.reset.faults.nextSeq = 1

/-! ## Straits, links and attachments -/

/-- Straits (R32 to R47): a leg sends the records that fit a stripe of 240 bytes, or its queue's next stripe; a whole
stripe is used, one with a bad header counted; acknowledgements free what they name and set the credit; a retrained rail
is back in service, and a rail in service whose lanes fail to retrain is marked failed; probes measure half a round trip; a cut
leg takes a new path and resends, or its thread stops; what two dies exchange takes an installed path (R9); a release of strait
queues frees the kept ones that it names. A stripe's flits carry the CRC of their content (R31). A stripe for a strait queue
with no free slot waits on its strait, and a rail fails and is retrained at both of its ends at once: both are the model's choice
(log entries 61 and 32). A write by service firmware is journalled during a probation (R132). -/
def Obligations.StraitTraffic : Prop :=
  ∀ (s : State) (n hop e rail trip turn a b tid0 : Nat) (path : List Nat) (l : Level) (v : Word),
    let g := legAt s n
    let tid := bitsOf v.toNat 11 0
    let qid := bitsOf v.toNat 19 12
    (∀ recs rest, maySend s g = true → g.legB = false → packRecs 240 (recsOf g.units g.waiting) = (recs, rest) → recs ≠ [] →
      exec (.stripeSend n) s = .next (sendNew s n { g with waiting := rest.flatten } recs)) ∧
    (∀ c : List Byte, c.length = 62 → flitOk (flit c) = true) ∧
    (∀ q x r, maySend s g = true → g.legB = true → consumerActive s g = true →
      findQueue s g.thread g.queue = some q → q.held.drop g.unacked.length = x :: r →
      exec (.stripeSend n) s = .next (sendNew s n g x.recs)) ∧
    (∀ x r, wireAt s hop = x :: r → stripeWaits s x = true → exec (.stripeReceive hop []) s = .next s) ∧
    (∀ x r, wireAt s hop = x :: r → stripeWaits s x = false → Tab.wf {} s.straits.ends = true → Tab.wf [] s.straits.wires = true →
      (endAt s (hopEnd hop)).railOk = 31 → straitDown s (hop / 2) = false →
      (badStripe x = false →
        ∃ u, exec (.stripeReceive hop []) s = .next (useStripe u hop x) ∧ wireAt u hop = r ∧
          u.straits.legs = s.straits.legs ∧ u.straits.queues = s.straits.queues ∧ u.mem = s.mem ∧ u.flights = s.flights) ∧
      (badStripe x = true →
        ∃ u, exec (.stripeReceive hop []) s = .next u ∧ wireAt u hop = r ∧
          (endAt u (hopEnd hop)).badHdr = min 255 ((endAt s (hopEnd hop)).badHdr + 1) ∧
          u.straits.legs = s.straits.legs ∧ u.straits.queues = s.straits.queues ∧ u.mem = s.mem)) ∧
    (∀ x r, g.ackIn = x :: r →
      (32768 ≤ (x.seq + 65536 - g.lastAck) % 65536 → exec (.ackReceive n) s = .next (setLeg s n { g with ackIn := r })) ∧
      ((x.seq + 65536 - g.lastAck) % 65536 < 32768 → x.rsnd = false →
        exec (.ackReceive n) s = .next (freeAcked s n { g with ackIn := r, credit := x.free } x.seq))) ∧
    (∀ t, g.lastAccept = some t → g.owes = true → t + 2 * usec ≤ s.dtime →
      exec (.ackTimer n) s = .next (sendAck s n false)) ∧
    (e < 24 → rail < 5 → (endAt s e).railOk.testBit rail = false → (endAt s e).failedAt.get 0 rail + 10 * msec ≤ s.dtime →
      exec (.railRetrain e rail false) s =
        .next (modStrait s (endStrait e) (fun x => { x with failedAt := x.failedAt.set 0 rail s.dtime })) ∧
      (Tab.wf {} s.straits.ends = true →
        ∃ u, exec (.railRetrain e rail true) s = .next u ∧ (endAt u e).railOk = (endAt s e).railOk + 2 ^ rail)) ∧
    (e < 24 → rail < 5 → (endAt s e).railOk.testBit rail = true →
      exec (.railRetrain e rail false) s = .next (failRail s e rail) ∧ exec (.railRetrain e rail true) s = .next s) ∧
    (e < 24 → straitDown s (endStrait e) = false →
      exec (.timeProbe e) s = .next (sendStripe (modEnd s e (fun x => { x with probe := some s.dtime, reply := none }))
        (endHop e) { leg := 0, kind := 2, rsnd := false, seq := 0, len := 0, src := 0, dst := 0 })) ∧
    ((endAt s e).reply = some turn →
      exec (.timeReply e trip turn) s =
        .next (modEnd s e (fun x => { x with half := halfTrip trip turn, probe := none, reply := none }))) ∧
    (a < b → b ≤ 8 → pathOpen s a b = false → pathValid s a b path = true →
      exec (.rerouteInstall (.dies a b) path) s =
        .next { s with straits := { s.straits with paths := s.straits.paths.put (16 * a + b) path } }) ∧
    (g.pathOk = false → path ≠ [] → (∀ h ∈ path, h < 16) → pathValid s (posOf g.src) (posOf g.dst) path = true →
      exec (.rerouteInstall (.leg n) path) s =
        .next (resendAll (setLeg s n { g with path := path, pathOk := true }) path g.unacked)) ∧
    (g.thread = some tid0 → g.pathOk = false → reachable s (posOf g.src) (posOf g.dst) = false → (threadAt s tid0).stop = none →
      exec (.linkSeveredTimeout n) s = .next (threadFault s tid0 { code := 0x9030 })) ∧
    (l ≠ .t → v.toNat.testBit 31 = true → v.toNat.testBit 20 = false →
      let t := journalSys s l 0x48 v
      (∀ q, lookQueue t tid qid = some q →
        exec (.stqrelLookup l v) s = .next { t with straits := { t.straits with
          stqrel := v &&& 0x003FFFFF#32,
          stqres := BitVec.ofNat 32 (1 + 2 * q.mdie + 8 * (q.base / 256) + 2 ^ 20 * q.log2 + 2 ^ 24 * (if q.kept then 1 else 0)),
          stqpos := BitVec.ofNat 32 (q.head + 2 ^ 16 * q.held.length) } }) ∧
      (lookQueue t tid qid = none →
        exec (.stqrelLookup l v) s = .next { t with straits := { t.straits with
          stqrel := v &&& 0x003FFFFF#32, stqres := 0, stqpos := 0 } })) ∧
    (l ≠ .t → v.toNat.testBit 31 = true → v.toNat.testBit 20 = true → v.toNat.testBit 21 = false →
      ∃ u, exec (.stqrelRelease l v) s = .next u ∧ u.mem = s.mem ∧
        (∀ q ∈ u.straits.queues, q.thread = tid → q.qid = qid → q.kept = false) ∧
        (∀ q ∈ s.straits.queues, q.thread ≠ tid ∨ q.qid ≠ qid → q ∈ u.straits.queues))

/-- The command link (R49 to R56, R117 to R120): ports, frames, sessions and the requests of the host. That a malformed payload
is answered by NAK 1 and where a reply leaves (log entry 26), the payload of REGRD and REGWR (log entry 50), that they wait while no
path leads to the die and that the frame whose SEQ reaches 2^40 is not served (log entry 70) are the model's choices. -/
def Obligations.CommandLinkEvents : Prop :=
  ∀ (s s1 : State) (m : KcpMsg) (f : KcpFrame) (n msgid : Nat) (up : Bool),
    let x := sessAt s n
    let b := msgPayload m
    (linkEnabled s = true →
      (s.link.up0 ≠ up → exec (.cmdLinkChange 0 up) s = .next { s with link := { s.link with up0 := up, since0 := s.dtime } }) ∧
      (s.link.up1 ≠ up → exec (.cmdLinkChange 1 up) s = .next { s with link := { s.link with up1 := up } })) ∧
    (s.link.notePort = 0 → s.link.up0 = false → s.link.since0 + 10 * msec ≤ s.dtime →
      exec .notePortSwitch s = .next { s with link := { s.link with notePort := 1 } }) ∧
    (s.link.notePort = 1 → s.link.up0 = true → s.link.since0 + 1000 * msec ≤ s.dtime →
      exec .notePortSwitch s = .next { s with link := { s.link with notePort := 0 } }) ∧
    (linkEnabled s = true → (if f.port = 0 then s.link.up0 else s.link.up1) = true → frameOk f = true →
      (f.sess = 0 → exec (.kcpFrameReceive f) s = .next (joinMsg s f)) ∧
      (f.sess ≠ 0 → restrictedMode s = false → hasSess s f.sess = true →
        (f.tag ≠ Config.hmac (sessAt s f.sess).key (kcpBytes f) → exec (.kcpFrameReceive f) s = .next (badTag s f.sess)) ∧
        (f.tag = Config.hmac (sessAt s f.sess).key (kcpBytes f) → seqOk (sessAt s f.sess) f.seq = false →
          exec (.kcpFrameReceive f) s = .next { s with link := { s.link with replay := min 4095 (s.link.replay + 1) } }) ∧
        (f.tag = Config.hmac (sessAt s f.sess).key (kcpBytes f) → seqOk (sessAt s f.sess) f.seq = true → f.seq < 2 ^ 40 →
          exec (.kcpFrameReceive f) s =
            .next (joinMsg (setSess s f.sess (noteSeq (sessAt s f.sess) f.seq s.dtime)) f)))) ∧
    exec (.kcpReassemblyTimeout n msgid) s = .next { s with link := { s.link with partial_ := s.link.partial_.filter (fun m =>
      !(m.sess == n && m.msgid == msgid && decide (m.since + 100 * msec ≤ s.dtime))) } } ∧
    (takeMsg s 0x01 = some (m, s1) →
      (b.length ≠ 1217 → exec .hello s = .next (sendNak s1 m 1)) ∧
      (∀ key, b.length = 1217 → leNat (takeBytes b 1216 1) < 8 → s1.link.keys.get none (leNat (takeBytes b 1216 1)) = some key →
        s1.link.sessions.length < 8 → Tab.wf {} s1.link.sessions = true →
        ∃ u k, exec .hello s = .next u ∧ (sessAt u k).openS = false ∧ (sessAt u k).hello = s1.dtime ∧
          (sessAt u k).level = key.level ∧ (sessAt u k).part = key.part ∧ u.mem = s1.mem)) ∧
    (takeMsg s 0x03 = some (m, s1) → hasSess s1 m.sess = true →
      let y := sessAt s1 m.sess
      (b = Config.hmac y.key (1 :: y.th) →
        exec .confirm s = .next (sendKcp (setSess s1 m.sess { y with openS := true, openedAt := s1.dtime, lastFrame := s1.dtime })
          m.port 0x04 m.sess m.msgid (Config.hmac y.key (2 :: y.th)))) ∧
      (b ≠ Config.hmac y.key (1 :: y.th) → exec .confirm s = .next (dropSession (sendNak s1 m 4) m.sess))) ∧
    (takeMsg s 0x05 = some (m, s1) → exec (.close none) s = .next (dropSession s1 m.sess)) ∧
    (openSess s n = true → exec (.close (some n)) s = .next (dropSession (sendKcp s s.link.notePort 0x05 n 0 []) n)) ∧
    (hasSess s n = true → x.openS = false → x.hello + 1000 * msec ≤ s.dtime →
      exec (.sessionOpenTimeout n) s = .next (dropSession s n)) ∧
    (openSess s n = true → x.lastFrame + 60000 * msec ≤ s.dtime ∨ x.openedAt + 86400000 * msec ≤ s.dtime →
      exec (.sessionTimeout n) s = .next (dropSession s n)) ∧
    (takeMsg s 0x10 = some (m, s1) →
      let q := leNat (takeBytes b 0 1)
      (b.length = 5 → q < 64 → m.level = .s ∨ (queueAt s1 q).part = m.part →
        exec .kick s = .next (applyKick s1 q (BitVec.ofNat 32 (leNat (takeBytes b 1 4))))) ∧
      (b.length ≠ 5 → exec .kick s = .next (if hasSess s1 m.sess then sendNak s1 m 1 else s1))) ∧
    (∀ i ∈ [(0x11, 5, Instr.regrd), (0x12, 9, .regwr)], takeMsg s i.1 = some (m, s1) → b.length = i.2.1 →
      hOnlyAt (regAddr b) = false → regReach s (regAddr b) = false → exec i.2.2 s = .next s) ∧
    (takeMsg s 0x11 = some (m, s1) → b.length = 5 → hOnlyAt (regAddr b) = true ∨ regReach s (regAddr b) = true →
      let y := journalOne s1 (.message 0x11 m.sess m.msgid)
      (hOnlyAt (regAddr b) = true → exec .regrd s = .next (sendNak y m 2)) ∧
      (hOnlyAt (regAddr b) = false → exec .regrd s = .next (sendKcp { y with freeCount := y.freeCount + 1 }
        m.port 0x13 m.sess m.msgid (leBytes 4 (sysRead y false (regAddr b)).toNat)))) ∧
    (takeMsg s 0x12 = some (m, s1) → b.length = 9 → hOnlyAt (regAddr b) = true ∨ regReach s (regAddr b) = true →
      let y := journalOne s1 (.message 0x12 m.sess m.msgid)
      (hOnlyAt (regAddr b) = true → exec .regwr s = .next (sendNak y m 2)) ∧
      (hOnlyAt (regAddr b) = false →
        let t := sysWrite y (activeWriter y) false (regAddr b) (BitVec.ofNat 32 (leNat (takeBytes b 5 4)))
        exec .regwr s = .next (sendKcp { t with freeCount := t.freeCount + 1 }
          m.port 0x13 m.sess m.msgid (leBytes 4 (sysRead t false (regAddr b)).toNat)))) ∧
    (takeMsg s 0x30 = some (m, s1) →
      let off := imgF b 0 4
      let bytes := b.drop 8
      (b.length < 8 → exec .stage s = .next (sendNak (journalOne s1 (.message 0x30 m.sess m.msgid)) m 1)) ∧
      (8 ≤ b.length → bytes ≠ [] → bytes.length ≤ 65536 → off + bytes.length ≤ stageLen → imgF b 4 4 = 0 →
        replacing s1 = false →
        ∃ u, exec .stage s = .next u ∧ u.mem = (wrBytes s1 (stagePa + off) bytes).mem ∧
          u.fw.staged = max s1.fw.staged (off + bytes.length) ∧ u.fw.stagedOk = false)) ∧
    (takeMsg s 0x40 = some (m, s1) → b.length = 38 →
      (s1.pkg.boot = .booted → imgF b 36 2 ≤ 1024 →
        exec .attreq s =
          .next (sendKcp s1 m.port 0x41 m.sess m.msgid (attReport s1 (b.take 32) (imgF b 32 4) (imgF b 36 2)))) ∧
      (∀ c d, s1.pkg.boot = .restricted c d →
        exec .attreq s = .next (sendKcp s1 m.port 0x41 m.sess m.msgid (failReport s1 (b.take 32) c d))))

/-- The PCIe endpoint (R57 to R63) and what a kick does to a queue (R81): kicks that have been accepted come before a later
doorbell (R53); a read of a doorbell gives the producer index (R59). The
CI that the event of a kick beyond the ring carries (log entry 19) and the masks of the vectors one by one (log entry 20) are the
model's choices. -/
def Obligations.HostAttachmentEvents : Prop :=
  ∀ (s : State) (fn q off size vf part id rate width : Nat) (v : Word) (a : Acc),
    let t := takeKicks (s.link.msgs.filter (fun m => m.typ == 0x10)).length s
    let x := queueAt t q
    (fn ≤ 16 → fnLive s fn = true → q < 64 → foreignVf t fn (4096 * q) = false →
      ((v - x.pi).toNat = 0 ∨ 2 ^ 31 ≤ (v - x.pi).toNat ∨ x.st = .disabled →
        exec (.doorbellWrite fn (4096 * q) 4 v) s = .next (setQueue t q { x with stale := min 255 (x.stale + 1) })) ∧
      (x.st ≠ .disabled → 0 < (v - x.pi).toNat → (v - x.pi).toNat < 2 ^ 31 → (v - x.ci).toNat ≤ 2 ^ x.sizeLog2 →
        exec (.doorbellWrite fn (4096 * q) 4 v) s =
          .next (setQueue t q { x with pi := v, st := if x.st = .idle then .run else x.st })) ∧
      (x.st ≠ .disabled → 0 < (v - x.pi).toNat → (v - x.pi).toNat < 2 ^ 31 → 2 ^ x.sizeLog2 < (v - x.ci).toNat →
        exec (.doorbellWrite fn (4096 * q) 4 v) s =
          .next (postQueueEvent t q 0x010D x.ci.toNat 0 (leBytes 4 v.toNat) 0 false))) ∧
    (fn ≤ 16 → fnLive s fn = true → off < 64 * 4096 → size ≠ 4 ∨ off % 4096 ≠ 0 ∨ foreignVf t fn off = true →
      exec (.doorbellWrite fn off size v) s = .next { t with pcie := { t.pcie with badDb := min 255 (t.pcie.badDb + 1) } }) ∧
    ((∀ m ∈ s.link.msgs, m.typ ≠ 0x10) → t = s) ∧
    (fn ≤ 16 → fnLive s fn = true → q < 64 →
      takeInput s (.barRead fn (4096 * q) 4) =
        emitOut { s with freeCount := s.freeCount + 1 } (.barData fn (4096 * q) (queueAt s q).pi)) ∧
    (s.pkg.boot = .booted →
      exec (.pcieLinkChange false rate width) s = .next { s with pcie := { s.pcie with up := false, rate := 0, width := 0 } } ∧
      (1 ≤ rate → rate ≤ 6 → width ∈ [1, 2, 4, 8, 16] →
        exec (.pcieLinkChange true rate width) s = .next { s with pcie := { s.pcie with up := true, rate := rate, width := width } })) ∧
    (1 ≤ vf → vf ≤ 16 →
      exec (.vfFlr vf) s = .next { s with pcie := { s.pcie with
        flr := s.pcie.flr.set false vf true, masked := maskAll s vf, unbound := s.pcie.unbound.set false vf true } } ∧
      (Tab.wf false s.pcie.masked = true → ∀ j < 16, (maskAll s vf).get false (64 * vf + j) = true)) ∧
    (Tab.wf false s.pcie.flr = true →
      ∃ u, exec .pfFlr s = .next u ∧ u.pcie.pfFlr = true ∧ u.pcie.vfEn = false ∧
        (∀ k, 1 ≤ k → k ≤ 16 → u.pcie.flr.get false k = true) ∧
        u.queues = s.queues ∧ u.mem = s.mem ∧ u.sched = s.sched) ∧
    exec (.flrDone 0) s = .next { s with pcie := { s.pcie with pfFlr := false } } ∧
    (vf ≠ 0 → exec (.flrDone vf) s = .next { s with pcie := { s.pcie with flr := s.pcie.flr.set false vf false } }) ∧
    (1 ≤ part → part < 16 → fn ≤ 16 →
      exec (.functionBind part fn) s = .next { s with pcie := { s.pcie with
        bound := s.pcie.bound.set 0 part (fn + 1), unbound := s.pcie.unbound.set false fn false } }) ∧
    exec (.functionBind 0 0) s = .next { s with pcie := { s.pcie with unbound := s.pcie.unbound.set false 0 false } } ∧
    (accAt s id = some a → (a.space = .host ∧ accReads a = true ∧ a.phase = .die) ∨ a.asked ≠ none → a.since + 50 * msec ≤ s.dtime →
      exec (.hostRequestTimeout id) s = .next (failAcc s a 0x9005 a.va 0))

/-- The fronthaul (R64 to R76) and the time unit (R46, R77): frames are steered into rings or counted, records leave at
their launch time, delay is measured, a first lock behind steps the time and any later offset is slewed. A lock needs a
master's message on the slave port (the model's reading, log entry 74); the place of the section type (log entry 23), the delay sum
(log entry 24), and FHSTCMD with OP 3 and the cutting of records (log entry 70) are the model's choices. A write by service firmware is journalled during a probation (R132). -/
def Obligations.FronthaulAndTimeEvents : Prop :=
  ∀ (s : State) (f : FhFrame) (l : Level) (v : Word) (lp port i ptp cause ql : Nat) (m : List Byte) (k : PtpSend) (up : Bool),
    let e := steerEntry s i
    let pos := (steerRt s i).pos
    let h := rdBytes s (unitKey e pos 0) 64
    let n := 1 + (hdrField h 20 4 + 63) / 64
    let b := readUnits s e pos n
    let off : Int := (ptp : Int) - s.dtime
    let turned : State := { s with fh := { s.fh with turn := (i + 1) % 4096 } }
    (portLive s f.lp = true →
      (9000 < f.size → exec (.fhFrameReceive f) s = .next (dropFrame s f.lp)) ∧
      (f.size ≤ 9000 → f.ethertype = 0xAEFE → f.revision ≠ 1 ∨ f.concat = true →
        exec (.fhFrameReceive f) s = .next (dropFrame s f.lp)) ∧
      (f.size ≤ 9000 → f.ethertype = 0xAEFE → f.revision = 1 → f.concat = false → f.eBit = true → f.msgType = 0 →
        exec (.fhFrameReceive f) s = .next (steerSections s f f.sections) ∧
        (∀ c, f.sections = [c] → steerMatch s f c = none →
          exec (.fhFrameReceive f) s = .next (modPort s f.lp (fun p => { p with noMatch := min 65535 (p.noMatch + 1) })))) ∧
      (f.size ≤ 9000 → f.ethertype = 0x88F7 → (lport s f.lp).cfg.toNat % 4 ≠ 0 →
        exec (.fhFrameReceive f) s = .next { s with time := { s.time with ptp := s.time.ptp ++ [(f.lp, s.dtime - phyLatency s f.lp, f.body)] } })) ∧
    (l ≠ .t → v.toNat.testBit 31 = true →
      let t := journalSys s l 0x20A040 v
      (portLive t (v.toNat % 16) = true →
        exec (.fhdlyreqGo l v) s = .next (sendDelayReq { t with fh := { t.fh with dlyreq := v &&& 0x0000FF0F#32 } }
          (v.toNat % 16) (bitsOf v.toNat 15 8))) ∧
      (portLive t (v.toNat % 16) = false →
        exec (.fhdlyreqGo l v) s = .next { t with fh := { t.fh with dlyreq := v &&& 0x8000FF0F#32 } })) ∧
    (downFirst s i = true → eV e = true → eDown e = true → allFull s (unitKey e pos 0) 16 = true →
      (∀ u < n, allFull s (unitKey e pos u) 16 = true) →
      Nat.land (Nat.xor (hdrField h 8 2) (eEaxc e)) (eMask e) = 0 →
      ePlane e ≠ 1 ∨ (6 ≤ hdrField h 20 4 ∧ hdrField h 20 4 + 8 ≤ 9000 ∧ (hdrField b 69 1 = 1 ∨ hdrField b 69 1 = 3)) →
      (hdrField h 0 8 ≤ s.dtime → s.dtime ≤ hdrField h 0 8 + 10 * usec → portLive s (eLport e) = true →
        exec (.downlinkSend i) s = .next (leaveRecord (sendRecord turned e b) i e n true)) ∧
      (hdrField h 0 8 + 10 * usec < s.dtime → exec (.downlinkSend i) s = .next (leaveRecord turned i e n false)) ∧
      (s.dtime < hdrField h 0 8 → exec (.downlinkSend i) s = .next s)) ∧
    (l ≠ .t → v.toNat.testBit 31 = true →
      let k := v.toNat % 2 ^ 12
      let j := journalSys s l 0x20A020 v
      let t : State := { j with fh := { j.fh with index := k, op := bitsOf v.toNat 13 12 } }
      (bitsOf v.toNat 13 12 = 0 →
        (steerRefused t (readStw t) = false → exec (.fhstcmdWrite l v) s = .next (setFhErr (setSteer t k (readStw t)) false)) ∧
        (steerRefused t (readStw t) = true → exec (.fhstcmdWrite l v) s = .next (setFhErr t true))) ∧
      (bitsOf v.toNat 13 12 = 1 → Tab.wf 0 s.fh.stw = true →
        ∃ u, exec (.fhstcmdRead l v) s = .next u ∧ u.fh.err = false ∧ u.fh.hits = (steerRt s k).hits ∧
          u.fh.stpos = (steerRt s k).pos ∧ (∀ j < 8, u.fh.stw.get 0 j = (steerEntry s k).getD j 0) ∧ u.mem = s.mem) ∧
      (bitsOf v.toNat 13 12 = 2 →
        exec (.fhstcmdInvalidate l v) s = .next (setFhErr (setSteer t k (invalidEntry (steerEntry t k))) false))) ∧
    (l ≠ .t → lp < 16 →
      let t := journalSys s l (0x20A118 + 32 * lp) v
      fhlpRefused t lp v.toNat = false →
      exec (.fhlpcfgWrite l lp v) s =
        .next (modPort t lp (fun p => { p with cfg := v &&& (if lp % 4 = 0 then 0xF#32 else 0x7#32) }))) ∧
    (portLive s lp = true →
      ((lport s lp).cfg.toNat % 4 ≠ 0 →
        exec (.ptpMessage lp m) s = .next { s with time := { s.time with ptp := s.time.ptp ++ [(lp, s.dtime - phyLatency s lp, m)] } }) ∧
      exec (.esmcMessage lp ql) s = .next { s with fh := { s.fh with ql := s.fh.ql.set 0 lp ql } } ∧
      ((lport s lp).cfg.toNat % 4 = 2 ∧ (k.body.headD 0).toNat % 16 ≠ 1 ∨ (lport s lp).cfg.toNat % 4 = 1 ∧ (k.body.headD 0).toNat % 16 = 1 →
        let frame : Output := .fh (fhHead s lp 0x88F7 (ptpAddr k.forwardable)) (.other k.body)
        ((k.body.headD 0).toNat % 16 < 4 →
          exec (.ptpMessageSend lp k) s = .next (emitOut
            { s with time := { s.time with sent := s.time.sent ++ [(lp, s.dtime + phyLatency s lp, k.body)] } } frame)) ∧
        (4 ≤ (k.body.headD 0).toNat % 16 → exec (.ptpMessageSend lp k) s = .next (emitOut s frame))) ∧
      exec (.esmcMessageSend lp ql) s =
        .next (emitOut s (.fh (fhHead s lp 0x8809 esmcAddr) (.other (0x0A :: leBytes 1 ql))))) ∧
    (port < 4 → Tab.wf {} s.fh.ports = true →
      ∃ u, exec (.fhLinkTraining port up) s = .next u ∧ (∀ k < 4, (lport u (4 * port + k)).up = up) ∧ u.mem = s.mem) ∧
    (hearsMaster s = false → exec (.timeLock ptp) s = .next s) ∧
    (hearsMaster s = true → s.time.locked = false → s.time.everLocked = false → s.dtime < ptp →
      ∃ u, exec (.timeLock ptp) s = .next u ∧ u.dtime = ptp ∧ u.time.locked = true ∧ u.time.everLocked = true ∧ u.mem = s.mem) ∧
    (hearsMaster s = true → s.time.locked = false → s.time.everLocked = true → off ≠ 0 →
      exec (.timeLock ptp) s = .next { s with time := { s.time with
        everLocked := true, locked := true, holdover := false, relock := true, offset := off, slew := some s.dtime } }) ∧
    (s.time.locked = true →
      exec (.timeHoldover cause) s = .next (postDeviceEvent
        { s with time := { s.time with locked := false, holdover := true, slew := none } } 0x8050 (leBytes 1 cause))) ∧
    (∀ t, s.time.slew = some t → t + slewTime s.time.offset ≤ s.dtime →
      exec .timeSlewEnd s = .next (postLocked { s with time := { s.time with slew := none } } s.time.relock s.time.offset))

/-! ## Queues, rings, firmware -/

/-- Queues (R79 to R85, R99) and event rings (R103 to R106): enabling, disabling, recovery, loading a program, parsing,
the timeout of WAITGE, enabling a ring, writing a record and writing held ones. What stands here of a queue whose packet has not
come whole (its state is IDLE and its header is kept), of a turn in which nothing can be fetched and of a queue that is disabled
is the model's choice (log entries 16, 17 and 71). A write by service firmware is journalled during a probation (R132). -/
def Obligations.QueueAndRingEvents : Prop :=
  ∀ (s0 : State) (l : Level) (q e : Nat) (v : Word),
    let s := s0
    let x := queueAt s q
    let b := v.toNat
    let r := ringAt s e
    let wrote (i : Nat) : State := journalQueue s l q i v
    (∀ i, queueAt (wrote i) q = x ∧ (wrote i).mem = s.mem ∧ (wrote i).sched = s.sched) ∧
    (l ≠ .t → q < 64 → x.en = false →
      let s := wrote 2
      let y := { x with level := bitsOf b 1 1, part := bitsOf b 5 2, evr := bitsOf b 10 6, sizeLog2 := bitsOf b 15 11 }
      (b.testBit 0 = true → 10 ≤ y.sizeLog2 → y.sizeLog2 ≤ 24 → (ringAt s y.evr).en = true →
        y.level = 1 ∨ (ringAt s y.evr).part = y.part →
        exec (.queueEnable l q v) s0 = .next (setQueue s q { y with
          en := true, st := if leaveBufs x.stack = [] ∧ x.ci = x.pi then .idle else .run })) ∧
      (b.testBit 0 = true →
        y.sizeLog2 < 10 ∨ 24 < y.sizeLog2 ∨ (ringAt s y.evr).en = false ∨ (y.level = 0 ∧ (ringAt s y.evr).part ≠ y.part) →
        exec (.queueEnable l q v) s0 = .next (setQueue s q { y with cfgErr := true })) ∧
      (b.testBit 0 = false → exec (.queueDisable l q v) s0 = .next (setQueue s q y))) ∧
    (l ≠ .t → q < 64 → x.en = true → b.testBit 0 = false →
      exec (.queueDisable l q v) s = .next (setQueue (wrote 2) q { abandon x with en := false, st := .disabled })) ∧
    (let y := abandon x
     y.run = none ∧ y.pkt = none ∧ y.ahead = [] ∧ y.stack = [] ∧ y.waitSince = none ∧ y.waitTime = none ∧ y.ci = x.ci ∧ y.pi = x.pi) ∧
    (l ≠ .t → q < 64 → b.testBit 31 = true → x.st = .fault → x.evPend = false →
      (b % 4 = 1 → exec (.qctlRetry l q v) s = .next (setQueue (wrote 6) q { x with pkt := none, ahead := [], run := none, st := .run, op := 1 })) ∧
      (b % 4 = 2 → exec (.qctlSkip l q v) s = .next (setQueue (wrote 6) q { passPacket x (skipLen x) with op := 2 })) ∧
      (b % 4 = 3 → exec (.qctlReset l q v) s = .next (setQueue (wrote 6) q { abandon x with ci := x.pi, st := .idle, op := 3 }))) ∧
    (l ≠ .t → q < 64 → x.en = false →
      (x.index < 255 →
        exec (.qpwinWrite l q v) s = .next (setQueue (wrote 8) q { x with
          staged := (x.staged.set 0 x.index (BitVec.ofNat 32 (b % 2 ^ 16))).set 0 (x.index + 1) (BitVec.ofNat 32 (b / 2 ^ 16)),
          index := x.index + 2 })) ∧
      (b.testBit 9 = true → b % 512 ≤ 256 →
        (verify (readStaged x.staged (b % 512)) = none →
          exec (.qpctlLoad l q v) s = .next (setQueue (wrote 7) q { x with
            index := b % 512, vok := true, plen := b % 512, prog := copyProg x.staged (b % 512), win := [] })) ∧
        (∀ i, verify (readStaged x.staged (b % 512)) = some i →
          exec (.qpctlLoad l q v) s = .next (setQueue (wrote 7) q { x with index := b % 512, vok := false, verr := i })))) ∧
    (q < 64 → x.en = true → x.st = .idle ∨ x.st = .run → x.evPend = false → x.run = none → x.pkt = none →
      queuePaused s x = false → eventWaits s q x = false →
      let y := { x with stack := leaveBufs x.stack }
      let u := setQueue { s with turn := (q + 1) % 64 } q y
      (wordsLeft y = 0 → exec (.packetParse q) s = .next (setQueue s q { y with st := .idle })) ∧
      (wordsLeft y ≠ 0 → fetchStopped s y = false → turnOf s q = false → exec (.packetParse q) s = .next s) ∧
      (∀ h s1, wordsLeft y ≠ 0 → fetchStopped s y = false → turnOf s q = true →
        readPacket u y 1 = (.ok [h], s1) → (Packet.mk h []).count + 1 ≤ 2 ^ y.sizeLog2 →
        (wordsLeft y < (Packet.mk h []).count + 1 → y.stack = [] →
          exec (.packetParse q) s = .next (setQueue s1 q { y with ahead := [h], st := .idle })) ∧
        (∀ ws s2, (Packet.mk h []).count + 1 ≤ wordsLeft y →
          readPacket s1 { y with ahead := [h] } (1 + (Packet.mk h []).count) = (.ok (h :: ws), s2) →
          (y.plen = 0 → exec (.packetParse q) s = .next (prepend
            (setQueue s2 q { y with pkt := some { hdr := h, ws := ws }, ahead := [], st := .run }) (.issue q))) ∧
          (y.plen ≠ 0 → exec (.packetParse q) s = .next (prepend
            (setQueue s2 q { y with pkt := some { hdr := h, ws := ws }, ahead := [], st := .run, run := some {} })
            (.bytecode q)))))) ∧
    (∀ p t k s1, x.st = .wait → x.pkt = some p → x.waitSince = some t → x.evPend = false → p.typ = 5 → pw p 4 ≠ 0 →
      t + pw p 4 * usec ≤ s.dtime → ctrAt s x.part x.level (pw64 p 0) .read = (.key k, s1) →
      (rdDword s1 k).testBit 63 = false → rdDword s1 k % 2 ^ 63 < pw64 p 2 →
      exec (.waitgePacketTimeout q) s = .next (queueError s1 q 0x0109 (leBytes 8 (rdDword s1 k)))) ∧
    (l ≠ .t → e < 32 →
      let s := journalSys s0 l (0x201008 + 32 * e) v
      let r := ringAt s e
      let r1 := { r with en := b.testBit 0, sizeLog2 := max 2 (min 16 (bitsOf b 5 1)), part := bitsOf b 9 6,
                         irq := b.testBit 10, vec := bitsOf b 16 11, lost := Nat.land r.lost (255 - bitsOf b 31 24) }
      (r.en = false → b.testBit 0 = true → bitsOf b 9 6 = 0 →
        exec (.eventRingEnable l e v) s0 = .next (setRing { s with devOverflow := [] } e (takeHeld r1 s.devOverflow)) ∧
        ∀ ev ∈ s.devOverflow, ev ∈ (takeHeld r1 s.devOverflow).overflow ++ (takeHeld r1 s.devOverflow).waiting) ∧
      (r.en = true ∨ b.testBit 0 = false ∨ bitsOf b 9 6 ≠ 0 →
        exec (.eventRingEnable l e v) s0 = .next (setRing s e r1))) ∧
    (∀ ev t, r.waiting = ev :: t → ev.cycle = s.cycle → ev.time = s.dtime → exec (.eventRecordWrite e) s = .next s) ∧
    (∀ ev t, r.waiting = ev :: t → ¬(ev.cycle = s.cycle ∧ ev.time = s.dtime) →
      let u := setRing s e { r with waiting := t }
      let r1 := ringAt u e
      (r.overflow ≠ [] ∨ r.heldFw ≠ none → exec (.eventRecordWrite e) s = .next (holdEvent u e ev)) ∧
      (∀ rd s2 s3 s4, r.overflow = [] → r.heldFw = none → r1.en = true →
        feWords u r1.part (ringCtl r1) 1 = (.ok [rd], s2) → (r1.wr - rd).toNat < 2 ^ r1.sizeLog2 →
        feWrite s2 r1.part (r1.base + 32 * (r1.wr.toNat % 2 ^ r1.sizeLog2)) (toWords 8 (eventBytes ev)) = (true, s3) →
        feWrite s3 r1.part (ringCtl r1 + 4) [r1.wr + 1] = (true, s4) →
        let w := modRing s4 e (fun y => { y with wr := y.wr + 1 })
        exec (.eventRecordWrite e) s = .next (if r1.irq then raiseMsixOf w r1.part r1.vec else w)) ∧
      (r.overflow = [] → r.heldFw = none → r1.en = false →
        exec (.eventRecordWrite e) s = .next (holdEvent u e ev))) ∧
    (nextHeld r = none → exec (.eventRingRetry e) s = .next s) ∧
    (∀ ev t, r.overflow = [ev] → r.heldFw = none → writeRecord s e ev = (true, t) → Tab.wf {} t.rings = true →
      exec (.eventRingRetry e) s =
        .next (eventWritten (setRing t e { r with overflow := [], wr := (ringAt t e).wr }) e ev))

/-- Live replacement of firmware (R123 to R132): each operation of FWCTL in the state and from the writer that may use it,
the timeouts, the heartbeats, the commit. -/
def Obligations.FirmwareEvents : Prop :=
  ∀ (s : State) (w : Writer) (v : Word),
    let go (op : Nat) : Prop := v.toNat.testBit 31 = true ∧ v.toNat % 8 = op
    let hold (op : Nat) : State := { s with fw := { s.fw with op := op, align := v.toNat.testBit 3 } }
    let old := w = .old ∨ w = .holm
    (v.toNat.testBit 31 = true → fwctlAllowed s w (v.toNat % 8) = false → exec (.fwctlStart w v) s = .next s) ∧
    (go 1 → s.fw.lr = .verified → old →
      ∃ u, exec (.fwctlStart w v) s = .next u ∧ u.fw.lr = .starting ∧ u.fw.since = s.dtime ∧ u.fw.area = s.fw.area ∧
        u.fw.bank = s.fw.bank) ∧
    (go 2 → s.fw.lr = .verified ∨ s.fw.lr = .starting ∨ s.fw.lr = .serialising → old →
      ∃ u, exec (.fwctlAbort w v) s = .next u ∧ u.fw.lr = .steady ∧ u.fw.lastErr = 6 ∧ u.fw.paused = false ∧
        u.fw.bank = s.fw.bank) ∧
    (go 3 → s.fw.lr = .starting → w = .new →
      exec (.fwctlReady w v) s = .next { s with fw := { s.fw with
        op := 3, align := v.toNat.testBit 3, lr := .serialising, since := s.dtime } }) ∧
    (go 4 → s.fw.lr = .serialising → w = .old → s.fw.marked = none →
      (checkRecs (hold 4) (emitTable (activeImage (hold 4))) (handPa + fullLen) (2 ^ 20) handPa = none →
        exec (.fwctlSerialised w v) s = .next (abortLr (hold 4) 4)) ∧
      (∀ recs, checkRecs (hold 4) (emitTable (activeImage (hold 4))) (handPa + fullLen) (2 ^ 20) handPa = some (recs, false) →
        let hand := takeRecs (newAccepts (hold 4)) recs []
        let t : State := { hold 4 with fw := { (hold 4).fw with hand := hand } }
        (∀ e ∈ emitTable (activeImage (hold 4)), e.required = true → (∀ r ∈ hand, r.typ ≠ e.typ) →
          exec (.fwctlSerialised w v) s = .next (abortLr t 5)) ∧
        ((∀ e ∈ emitTable (activeImage (hold 4)), e.required = true → ∃ r ∈ hand, r.typ = e.typ) →
        (v.toNat.testBit 3 = true →
          exec (.fwctlSerialised w v) s = .next { t with
            fw := { t.fw with marked := some (scIndex s (clockOf s 0)) } }) ∧
        (v.toNat.testBit 3 = false →
          ∃ u, exec (.fwctlSerialised w v) s = .next u ∧ u.fw.lr = .handover ∧ u.fw.paused = true ∧ u.fw.hand = hand ∧
            u.mem = s.mem)))) ∧
    (go 5 → s.fw.lr = .handover → w = .old →
      ∀ recs, checkRecs (hold 5) (emitTable (activeImage (hold 5))) (handPa + handLen) (2 ^ 15) (handPa + fullLen) = some (recs, false) →
        exec (.fwctlDeltaDone w v) s = .next { hold 5 with fw := { (hold 5).fw with
          deltaDone := true, hand := takeRecs (newAccepts (hold 5)) recs s.fw.hand } }) ∧
    (go 6 → s.fw.lr = .handover → w = .new → s.fw.deltaDone = true → logFull s = false →
      ∃ u, exec (.fwctlTakenOver w v) s = .next u ∧ u.fw.lr = .probation ∧ u.fw.bank = 1 - s.fw.bank ∧
        u.fw.area = 1 - s.fw.area ∧ u.fw.resident = true ∧ u.fw.hb = 0 ∧ u.fw.paused = false ∧ u.fw.journal = [] ∧
        u.fw.fwseq = s.fw.fwseq + 1) ∧
    (go 7 → s.fw.lr = .fallback → w = .old →
      ∃ u, exec (.fwctlReplayed w v) s = .next u ∧ u.fw.lr = .steady ∧ u.fw.paused = false ∧ u.fw.resident = false ∧
        u.fw.replay = []) ∧
    (∀ n, s.fw.marked = some n → s.fw.lr = .serialising → (clockAt s (clockOf s 0)).en = true → n ≠ scIndex s (clockOf s 0) →
      ∃ u, exec .handoverBegin s = .next u ∧ u.fw.lr = .handover ∧ u.fw.paused = true ∧ u.fw.since = s.dtime ∧ u.mem = s.mem) ∧
    (s.fw.lr = .starting → s.fw.since + 100 * msec ≤ s.dtime →
      ∃ u, exec .startTimeout s = .next u ∧ u.fw.lr = .steady ∧ u.fw.lastErr = 1) ∧
    (s.fw.lr = .serialising → s.fw.since + 50 * msec ≤ s.dtime →
      ∃ u, exec .serialTimeout s = .next u ∧ u.fw.lr = .steady ∧ u.fw.lastErr = 2) ∧
    (s.fw.lr = .handover → s.fw.since + 40 * usec ≤ s.dtime →
      ∃ u, exec .handoverTimeout s = .next u ∧ u.fw.lr = .steady ∧ u.fw.lastErr = 3 ∧ u.fw.paused = false) ∧
    (s.fw.lr = .fallback → s.fw.since + 5 * msec ≤ s.dtime →
      ∃ u, exec .fallbackTimeout s = .next u ∧ u.fw.lr = .safe ∧ u.fw.paused = true) ∧
    (s.fw.lr ≠ .safe → w ≠ .holm → w = activeWriter s → v = s.fw.hb + 1 → beatMissed s = false →
      exec (.fwhbWrite w v) s = .next (let t := if w = .new then journalSys s .s 0x28 v else s
        { t with fw := { t.fw with hb := v, lastBeat := s.dtime } })) ∧
    (s.fw.lr = .probation → s.fw.lastBeat + 100 * usec ≤ s.dtime → logFull s = false →
      ∃ u, exec .heartbeatMiss s = .next u ∧ u.fw.lr = .fallback ∧ u.fw.bank = 1 - s.fw.bank ∧ u.fw.area = 1 - s.fw.area ∧
        u.fw.paused = true ∧ u.fw.lastErr = 7 ∧ u.fw.replay = s.fw.journal) ∧
    (s.fw.lr = .probation → s.fw.lastBeat + 100 * usec ≤ s.dtime → logFull s = true →
      exec .heartbeatMiss s = .next (enterSafe s)) ∧
    (s.fw.lr ≠ .probation → s.fw.lr ≠ .safe → s.fw.lr ≠ .fallback → s.fw.lastBeat + 10 * msec ≤ s.dtime →
      s.pkg.boot = .booted → exec .heartbeatMiss s = .next (restartImage s)) ∧
    (s.fw.lr = .probation → s.fw.since + 1000 * msec ≤ s.dtime → beatMissed s = false →
      ∃ u, exec .commit s = .next u ∧ u.fw.lr = .steady ∧ u.fw.resident = false ∧ u.fw.journal = [] ∧ u.fw.bank = s.fw.bank ∧
        (s.fw.newSlot = none → u.flash = s.flash))

/-- Holm calls (R434, R435) and invalidation (R251, R252). A call that is served answers with status 0 and its effect; the
digest that a configuration change adds to the measurement log is a free value (log entry 57). A call whose number R435 does not
list stays open until the holm serves it with BADCALL, and an invalidation reads the functions whose writes it covers: both are
the model's reading (log entries 71 and 74). -/
def Obligations.HolmCallEvents : Prop :=
  ∀ (s : State) (k : Nat) (c : HCall) (v : Word),
    let done (i : Instr) (t : State) : Prop := exec i s = .next (answerCall t k 0)
    let b := wk c 0
    (∀ r, s.fw.opened = c :: r → c.ticket = k → c.call = 0 ∨ 10 < c.call →
      ∀ i ∈ [Instr.allot, .release, .ptmap, .ptunmap, .pten, .sbwin, .islown, .parten, .keyload, .keyclr],
        exec (i k) s = .next (answerCall s k 1)) ∧
    (∀ r, s.fw.calls = c :: r → v.toNat.testBit 31 = true →
      exec (.hcqpop .h v) s = .next { s with fw := { s.fw with calls := r, opened := s.fw.opened ++ [c] } }) ∧
    exec (.hcqpop .s v) s = .next s ∧
    (openCall s k 1 = some c →
      (allotStatus s c = 0 →
        done (.allot k) (extendFree { s with fw := { s.fw with allots := s.fw.allots ++
          [{ space := b % 32, host := b.testBit 5, base := wk64 c 1, len := wk64 c 3 }] } } 3 7)) ∧
      (rangeOk c = false → exec (.allot k) s = .next (answerCall s k 2))) ∧
    (openCall s k 2 = some c → releaseStatus s c = 0 →
      done (.release k) (extendFree { s with fw := { s.fw with allots := (s.fw.allots.map (fun a =>
        if a.space = b % 32 ∧ a.host = b.testBit 5 then cutAllot (wk64 c 1) (wk64 c 3) a else [a])).flatten } } 3 7)) ∧
    (openCall s k 3 = some c → ptmapStatus s c = 0 →
      ∀ t, mapPage s (b % 32) (bitsOf b 6 5) (wk64 c 1)
          (leafPte (wk64 c 3) (b.testBit 7) (b.testBit 8) (b.testBit 9) (b.testBit 10)) = some t →
        done (.ptmap k) t) ∧
    (openCall s k 4 = some c → b < 2 ^ 7 → b % 32 ≤ 16 → bitsOf b 6 5 ≠ 0 → wk64 c 1 < 2 ^ 53 →
      (leafOf s (b % 32) (bitsOf b 6 5) (wk64 c 1) = none → exec (.ptunmap k) s = .next (answerCall s k 3)) ∧
      (∀ a, leafOf s (b % 32) (bitsOf b 6 5) (wk64 c 1) = some a → s.xl.inv.toNat.testBit 31 = false →
        ∃ u, exec (.ptunmap k) s = .next u ∧ u.mem = (wrDword s a 0).mem ∧ u.xl.inv.toNat.testBit 31 = true ∧
          u.xl.inv.toNat % 64 = b % 32)) ∧
    (openCall s k 5 = some c → b < 2 ^ 6 → b % 32 ≤ 16 → logFull s = false →
      ∀ t u, rootOf s (b % 32) = some (t, u) →
        done (.pten k) (extendFree { u with xl := { u.xl with
          ptroot := u.xl.ptroot.set 0 (b % 32) (ptRoot u (b % 32) / 2 * 2 + (if b.testBit 5 then 1 else 0)) } } 3 7)) ∧
    (openCall s k 6 = some c → b < 2 ^ 8 → wk c 1 < 2 ^ 20 → sbwinRefused s (b % 16) (bitsOf b 5 4) (wk c 1) = false →
      logFull s = false →
      done (.sbwin k) (extendFree { s with xl := { s.xl with
        sbwin := s.xl.sbwin.set 0 (16 * (b % 16) + 4 * bitsOf b 5 4 + bitsOf b 7 6) (BitVec.ofNat 32 (wk c 1)) } } 3 7)) ∧
    (openCall s k 7 = some c → b < 2 ^ 12 → s.sched.lent.get 0 (b % 256) = 0 →
      foreignCtx s (b % 256) (bitsOf b 11 8) = false → logFull s = false →
      done (.islown k) (extendFree { s with sched := { s.sched with
        owner := s.sched.owner.set 0 (b % 256) (bitsOf b 11 8) } } 3 7)) ∧
    (openCall s k 8 = some c → b < 2 ^ 5 → b % 16 ≠ 0 → b.testBit 4 = true ∨ holdsThread s (b % 16) = false → logFull s = false →
      done (.parten k) (extendFree { s with sched := { s.sched with
        ptcfg := s.sched.ptcfg.set {} (b % 16) { s.sched.ptcfg.get {} (b % 16) with en := b.testBit 4 } } } 3 7)) ∧
    (openCall s k 9 = some c → b < 2 ^ 8 → logFull s = false →
      let key := ((List.range 8).map (fun i => leBytes 4 (wk c (8 + i)))).flatten
      done (.keyload k) (extend { s with link := { s.link with
        keys := s.link.keys.set none (b % 8) (some { key := key, level := if b.testBit 3 then .t else .s, part := bitsOf b 7 4 }) } } 3 6 (Config.sha256 key))) ∧
    (openCall s k 10 = some c → b < 2 ^ 3 → logFull s = false →
      done (.keyclr k) (extendFree { s with link := { s.link with keys := s.link.keys.set none (b % 8) none } } 3 6)) ∧
    (v.toNat.testBit 31 = true → v.toNat % 32 ≤ 16 → s.xl.inv.toNat.testBit 31 = false →
      ∃ u, exec (.tlbinvGo .h v) s = .next u ∧ u.xl.inv = BitVec.ofNat 32 (v.toNat % 64 + 2 ^ 31) ∧ u.mem = s.mem ∧
        ∀ t ∈ u.xl.tlbs, ∀ e ∈ t.2, invNames (v.toNat % 32) (v.toNat.testBit 5) s.xl.invVa e = false) ∧
    (exec (.tlbinvGo .s v) s = .next s ∧ exec (.tlbinvGo .t v) s = .next s) ∧
    (tlbInvReady s = true → invPosted s ≠ [] → s.xl.invAsked = none →
      ∃ u, exec .tlbinvComplete s = .next u ∧ u.xl.invAsked = some s.pcie.nextPost ∧ u.xl.inv = s.xl.inv ∧ u.mem = s.mem ∧
        ∀ f ∈ invPosted s, Output.hostRead f ∈ u.out) ∧
    (tlbInvReady s = true → invPosted s = [] → s.fw.opened.find? (fun c => c.waitInv) = none →
      ∃ u, exec .tlbinvComplete s = .next u ∧ u.xl.inv.toNat.testBit 31 = false ∧ u.mem = s.mem ∧
        ∀ t ∈ u.xl.tlbs, ∀ e ∈ t.2, invNames (s.xl.inv.toNat % 32) (s.xl.inv.toNat.testBit 5) s.xl.invVa e = false)

/-! ## Scheduling, frames, the fabric -/

/-- The scheduler and the loader (R142 to R156, R177, R182, R191 to R197, R266): slot clocks, selection, deadlines, loads,
saves, frame commits, the arbiter's window, tokens and the escape lane. The two events of a load (log entry 40), what a journal
entry of a level-S write holds (log entry 69), a save that reads an uncorrectable word (log entry 65), which islands have records and
what a save discards (log entry 71), the item that the escape lane takes (log entry 62) and a failure that stays pending (log entry
11) are the model's choices. -/
def Obligations.SchedulerAndFabricEvents : Prop :=
  ∀ (s : State) (l : Level) (c t n isl cell fails die : Nat) (v : Word),
    let k := clockAt s c
    let th := threadAt s t
    let ready := th.saving = true ∧ th.stop = none ∧ th.resumable.any (fun r => r.save) = false ∧
      (th.st = .preempted ∨ th.st = .parked) ∧ saveQuiet s t = true
    (l ≠ .t → c < 4 → k.en = false → v.toNat.testBit 0 = true →
      let y := { k with xcp := v.toNat.testBit 1 }
      let u := journalSys s l (0x20300C + 128 * c) v
      (clockOk y = true → exec (.slotClockEnable l c v) s = .next { u with sched := { u.sched with
        clocks := u.sched.clocks.set {} c { y with en := true, err := false } } }) ∧
      (clockOk y = false → exec (.slotClockEnable l c v) s = .next { u with sched := { u.sched with
        clocks := u.sched.clocks.set {} c { k with err := true } } })) ∧
    (waitingThreads s = [] → exec .schedulerSelect s = .next (settle s)) ∧
    (∀ x r p, waitingThreads s = (t, x) :: r → placement s t x [] true = some p → p.savers = [] →
      p.victims.any (fun u => replaying s (threadAt s u)) = false → (regionOf x.h x.w p.row p.col).any (islFailing s) = false →
      exec .schedulerSelect s = .next (settle (placeThread (haltThreads s p.victims) t p))) ∧
    (th.st ≠ .free → th.missed = false → th.cls < 2 → th.dl < s.dtime → Tab.wf {} s.sched.threads = true →
      ∃ u, exec (.deadlinePass t) s = .next u ∧ (threadAt u t).missed = true ∧ u.mem = s.mem ∧ u.ctxs = s.ctxs ∧
        (th.cls = 1 → th.st = .pending → th.stop = none → ∃ f, (threadAt u t).stop = some f ∧ f.code = 0x9032) ∧
        (th.cls = 0 → (threadAt u t).stop = th.stop)) ∧
    (∀ x, loadAt s n = some x → loadGoes s x = true → loadReaches s x = true → loadSwitches s x = false →
      (x.part = 16 → exec (.contextLoadDone n) s = .next (finishService s n x)) ∧
      (x.part ≠ 16 → unplaced x ≠ [] → exec (.contextLoadDone n) s = .next (claimLoad s n x)) ∧
      (x.part ≠ 16 → unplaced x = [] → x.restore = false → exec (.contextLoadDone n) s = .next (finishLoad s n x)) ∧
      (x.part ≠ 16 → unplaced x = [] → x.restore = true → x.thread = some t → x.slots.any (fun y => (ctxAt s y.1 y.2).held.isSome) = false →
        exec (.contextLoadDone n) s = .next (finishRestore s n x t))) ∧
    (ready → saveable s t = true →
      let s1 := cancelLoads s (fun x => x.thread == some t) s.sched.loads
      let s2 := discardAll s1 (slotsWhere s1 (fun i σ x => decide (i < 256) && x.thread == some t && !th.slots.contains (i, σ)))
      ∀ s3 u, readWins ((recSlots s2 t).flatMap (fun x => (List.range 16).map (fun n => (x.1, x.2, n)))) s2 = (none, s3) →
        writeVa s3 (tlbOf (fabricIsl th.orow th.ocol)) th.part (pagesFor (imageOf s3 t).length) (svVa s3 th.part t)
          (imageOf s3 t) = (.ok (), u) →
        exec (.contextSave t) s =
          .next (modThread (agePosted (discardThread u t) t) t (fun x => { x with st := .saved, saving := false, slots := [] }))) ∧
    (ready → saveable s t = false →
      exec (.contextSave t) s =
        .next (modThread (threadFault s t { code := 0x9034, save := true }) t (fun x => { x with saving := false }))) ∧
    (∀ x, loadAt s n = some x → unplaced x ≠ [] → x.since + 10 * usec ≤ s.dtime → Tab.wf {} s.sched.threads = true →
      let f := fetchLoad s x
      claimSlots x f.1 f.2.1 (unplaced x) f.2.2 = none →
      ∃ u, exec (.loadWaitTimeout n) s = .next u ∧ u.mem = s.mem ∧ u.ctxs = s.ctxs ∧ u.sched.loads = s.sched.loads ∧
        ∀ j, let y := threadAt s j
          (threadAt u j = { y with saving := (threadAt u j).saving }) ∧
          ((threadAt u j).saving = true ↔ y.saving = true ∨ (some j ≠ x.thread ∧ (y.st = .preempted ∨ y.st = .parked) ∧
            y.stop = none ∧ saveable s j = true ∧ blocksLoad s x f.1 f.2.1 j = true))) ∧
    (∀ x, th.exit = some x → th.st = .running ∨ th.st = .held ∨ th.st = .preempted ∨ th.st = .parked → th.stop = none → th.resumable = [] → quiescent s t = true →
      (thRegion th).any (islFailing s) = false →
      exec (.frameCommit t) s = .next (settle (commitFrame s t x)) ∧
      (x = 0 →
        let u := agePosted (learn s t 0) t
        let p := nextPoint (threadAt u t)
        p.2.2.2 = true →
        exec (.frameCommit t) s = .next (settle (retire (modThread u t
          (fun y => { y with x := p.1, y := p.2.1, z := p.2.2.1 })) t)))) ∧
    (∀ σ, activeSlot s isl = some σ → Tab.wf {} s.ctxs = true → Tab.wf 0 (ctxAt s isl σ).occ = true →
      Tab.wf (1, 0, 0) (ctxAt s isl σ).arb = true →
      let x := ctxAt s isl σ
      x.since + 256 * (x.windows.get 0 cell + 1) ≤ s.cycle →
      let m := eight.foldl (fun m j => max m (x.occ.get 0 (8 * cell + j))) 0
      ∃ u, exec (.arbiterWindow isl cell) s = .next u ∧ u.mem = s.mem ∧ ∀ j < 8,
        (arbOf (ctxAt u isl σ) (8 * cell + j)).1 = (if m = 0 then 1 else 1 + 15 * x.occ.get 0 (8 * cell + j) / m) ∧
        (ctxAt u isl σ).occ.get 0 (8 * cell + j) = 0) ∧
    (∀ f, s.flights[n]? = some f → headOf s n f = true → f.chk = none →
      let t := removeAt s n
      let free : Prop := ∀ i x, entersCell s f = some (i, x) → cellFailed s i x = false
      (∀ i x, entersCell s f = some (i, x) → cellFailed s i x = false → 2 ≤ fails →
        exec (.tokenAccept n fails) s = .next (failFiring s { isl := i, slot := f.slot, cell := x, k := 255 } 0 [])) ∧
      (∀ i x, entersCell s f = some (i, x) → cellFailed s i x = true → exec (.tokenAccept n fails) s = .next s) ∧
      (∀ i σ key, free → fails < 2 → f.dest = .buf i σ key →
        (f.place < 2048 → exec (.tokenAccept n fails) s = .next (putTok t i σ key f.tok)) ∧
        (∀ j τ p, 2048 ≤ f.place → f.place < 3072 → (ctxAt s f.isl f.slot).st = .active →
          nextPlace s f = some (j, τ, p) → mayPut s j τ p = true →
          exec (.tokenAccept n fails) s = .next (if p < 2048 then putTok t j τ p f.tok
            else { t with flights := t.flights ++ [{ f with isl := j, slot := τ, place := p, age := 0 }] })))) ∧
    (die < 4 →
      let p := s.rel.token.get 0 die
      let s1 : State := { s with rel := { s.rel with token := s.rel.token.set 0 die (nextVisit p) } }
      (oldBlocked s die (visitAt p).1 (visitAt p).2 = [] → exec (.escapeVisit die) s = .next s1) ∧
      (∀ i f ix a σ key, oldest (oldBlocked s die (visitAt p).1 (visitAt p).2) = some (i, f) → itemOf s i f = some ix → f.dest = .buf a σ key →
        512 ≤ key → key < 1024 → (∀ τ < 8, bufOf (ctxAt s a τ) (latchKey ((key - 512) / 32)) = []) →
        ∃ (rest : List Flight) (taken : List Tok), exec (.escapeVisit die) s =
          .next (modCtx { s1 with flights := rest } a σ (fun y => setBuf y (latchKey ((key - 512) / 32)) (taken.flatMap (entering y key)))) ∧
          rest.length + ix.length = s.flights.length ∧ taken.length = ix.length ∧ (∀ x ∈ rest, x ∈ s.flights) ∧
          (∀ x ∈ taken, ∃ g ∈ s.flights, x = { g.tok with src := 256 + (key - 512) % 32 })))

/-- Generators (R205 to R209) and copy engines (R212 to R218). A generator or an engine makes one of the moves that it can
make, any of them (R216, R236); then what each move does. That a stop among
the words of a specification breaks it and that elements are issued in the order of the walk (log entry 48), that a free value picks
the move and the word, the numbers by which the hazard detector knows requests and the read of an uncorrectable word (log entry 65),
and data 0 of a write stream's completion token (log entry 14) are the model's choices. -/
def Obligations.GeneratorAndCopyEvents : Prop :=
  ∀ (s : State) (die ag t : Nat),
    let g := s.gens.get {} (64 * die + ag)
    let toks := g.specQ.take 12
    let ws := toks.map (fun x => BitVec.ofNat 32 x.data.toNat)
    let i := 8 * die + ag
    let e := ceAt s i
    let drawn (n : Nat) : State := if n = 1 then s else { s with freeCount := s.freeCount + 1 }
    let src := match genRoute s t die ag 0 with
      | some (r, i, σ) => vcSource i σ (endCell (rtEnd r)) (endVc (rtEnd r))
      | none => 0
    (g.thread = some t → g.run = none → (threadAt s t).stop = none →
      (12 ≤ g.specQ.length → (∀ x ∈ toks, x.stop = 0) → specOk ws = true → specBound s t die ag ws = true →
        exec (.streamSpecAccept die ag) s = .next (tookRequest (setGen s die ag { g with
          specQ := g.specQ.drop 12, run := some { spec := ws, deps := depsOf toks, no := s.nextAcc } }) src)) ∧
      ((∃ x ∈ toks, x.stop ≠ 0) ∨ (12 ≤ g.specQ.length ∧ (specOk ws = false ∨ specBound s t die ag ws = false)) → g.stalled = false →
        exec (.streamSpecAccept die ag) s =
          .next (raiseUnit (setGen s die ag { g with stalled := true }) t 1 (64 * die + ag) 0 0x9014 0 0))) ∧
    (∀ r, g.thread = some t → g.run = some r →
      let ms := genMoves s t die ag g r
      (ms = [] → exec (.streamElement die ag) s = .next s) ∧
      (ms ≠ [] → ∃ m ∈ ms, exec (.streamElement die ag) s = .next (doMove (drawn ms.length) t die ag g r m))) ∧
    (∀ (u : State) (r : Stream),
      (∀ ks u1 u2, r.emit = [] → spMode r.spec ≠ 1 → lowDim r.spec = 0 → spWrite r.spec = false →
        elemKeys u t die ag r.spec (elemAddr r.spec r.elem) = (.ok ks, u1) →
        unitHazards u1 g.isl t die (unitNo ag r.no) ks (elemBytes r.spec) (spConsume r.spec) (mergeDeps r.deps []) = .ok u2 →
        let p : StreamItem := { elem := r.elem, keys := ks, left := List.range (elemBytes r.spec / 4),
                                addr := (elemAddr r.spec r.elem).toNat, id := u2.nextAcc }
        doMove u t die ag g r .issue = setGen { u2 with nextAcc := u2.nextAcc + 1 } die ag
          { g with run := some (stepWalk { r with pipe := r.pipe ++ [p] }) }) ∧
      (∀ f u1, r.emit = [] → spMode r.spec ≠ 1 → lowDim r.spec = 0 → spWrite r.spec = false →
        elemKeys u t die ag r.spec (elemAddr r.spec r.elem) = (.error f, u1) →
        doMove u t die ag g r .issue = raiseUnit (setGen u1 die ag { g with stalled := true }) t 1
          (64 * die + ag) r.elem f.1 f.2.1 f.2.2) ∧
      (∀ n p k u1, r.pipe[n]? = some p → p.left = [0] → p.keys = [k] → k < hostBase → spWrite r.spec = false →
        readCheck u k 1 = (.good, u1) →
        let v := if spConsume r.spec then setFull u1 k false else u1
        doMove u t die ag g r (.perform n) = setGen v die ag { g with run := some { r with
          pipe := r.pipe.set n { p with left := [], words := p.words.set 0 0 (rdWord u1 k) },
          deps := if v.pcie.posted.any (fun w => w.id == p.id) then mergeDeps r.deps [p.id] else r.deps } }) ∧
      (∀ n p k, r.pipe[n]? = some p → p.left = [0] → p.keys = [k] → k < hostBase → spWrite r.spec = true →
        let v := wrWord u k (p.words.get 0 0)
        let w := if spSbuf r.spec then setFull v k true else v
        doMove u t die ag g r (.perform n) = setGen w die ag { g with run := some { r with
          pipe := r.pipe.eraseIdx n,
          deps := if w.pcie.posted.any (fun w => w.id == p.id) then mergeDeps r.deps [p.id] else r.deps } }) ∧
      (∀ p rest v, r.pipe = p :: rest → spWrite r.spec = false → p.stop ≠ 0 ∨ p.left = [] →
        unitSend u ((genRoute u t die ag 2).bind (routeDest u)) (itemToks u t die ag g r p) = some v →
        doMove u t die ag g r .emit = setGen v die ag { g with run := some { r with pipe := rest } }) ∧
      (spWrite r.spec = false → doMove u t die ag g r .finish = setGen u die ag { g with run := none }) ∧
      (∀ v, spWrite r.spec = true →
        unitSend u ((genDone u t die ag).bind (routeDest u)) [scalarTok 0 (unitDeps u g.isl die (unitNo ag r.no) r.deps)] = some v →
        doMove u t die ag g r .finish = setGen v die ag { g with run := none })) ∧
    (∀ r q, e.gather = [] → e.run = none → e.pendingQ = r :: q →
      exec (.copyRequestStart die ag) s = .next (setCe s i { e with run := some r, pendingQ := q })) ∧
    (∀ r, e.run = some r →
      let off : Bool := toSetAside s r && r.fault.isNone && decide (e.aside.length < 8)
      let ms := ceMoves s i
      (off = true → exec (.copyUnit die ag) s = .next (setAside s i r)) ∧
      (off = false → ms = [] → exec (.copyUnit die ag) s = .next s) ∧
      (off = false → ms ≠ [] → ∃ m ∈ ms, exec (.copyUnit die ag) s = .next (doCopy (drawn ms.length) i m))) ∧
    (∀ (u : State) (r : CopyReq),
      (∀ a b u1 u2, (ceAt u i).run = some r → epKind r.src ≠ 3 → r.buf = [] →
        unitKeyH u i r r.src .read (!r.consume) r.consume = (.ok a, u1) →
        unitKeyH u1 i r r.dst .write false true = (.ok b, u2) →
        doCopy u i .issue = putReq { u2 with nextAcc := u2.nextAcc + 1 } i 0 { r with
          unit := r.unit + 1,
          inFlight := r.inFlight ++ [{ unit := r.unit, src := a, dst := b, id := u2.nextAcc, left := List.range 16,
                                       todo := List.range 16 }] }) ∧
      (∀ j c u1, reqAt (ceAt u i) j = some r → c.left ≠ [] → c.src < hostBase → r.consume = false → epKind r.dst ≠ 3 →
        readCheck u c.src 16 = (.good, u1) →
        doCopy u i (.unit j c) = putReq u1 i j { r with inFlight := r.inFlight.map (fun x => if x.unit = c.unit then
          { c with left := [], words := (rdWords u1 c.src 16).zipIdx.map (fun y => (y.2, y.1)) } else x) }) ∧
      (∀ j c, reqAt (ceAt u i) j = some r → c.left = [] → c.dst < hostBase → epKind r.dst ≠ 3 →
        let n := c.todo.length
        let w := wrWords u c.dst ((unitWords c).take n)
        let v := if epKind r.dst ≠ 0 then setFulls (writtenBank w c.dst n) c.dst true n
          else if n = 16 then wholeLine (writtenBank w c.dst 16) c.dst else w
        let r1 := { r with inFlight := r.inFlight.filter (fun x => x.unit != c.unit), done := r.done + 1 }
        doCopy u i (.unit j c) = endReq (putReq v i j r1) i j r1) ∧
      (∀ j, reqAt (ceAt u i) j = some r → r.inFlight = [] → r.fault = none → r.len / 64 ≤ r.unit →
        doCopy u i (.finish j) = copyDone (dropReq (putReq u i j r) i j) r)) ∧
    (∀ r, e.run = none → e.aside.find? (fun r => r.fault.isNone && !toSetAside s r) = some r →
      exec (.copyResume die ag) s = .next (setCe s i { e with run := some r, aside := e.aside.erase r }))

/-! ## Accesses, faults, reliability, registers -/

/-- Accesses at their homes (R202, R217, R219, R225 to R231, R285, R288), the wakes, and what follows a fault (R257 to
R264). An operation that is performed changes no memory besides what it stores: every byte outside the stored words
reads as before. The order in which accesses of a die reach a home (log entry 65), what a journal entry holds (log entry 69) and that a failing read stays pending (log entry 11) are the model's choices. -/
def Obligations.AccessAndFaultEvents : Prop :=
  ∀ (s : State) (id t : Nat) (l : Level) (v : Word) (a : Acc),
    let th := threadAt s t
    (∀ (x : Acc) (res : List Word), (performAcc s x res).mem = s.mem ∧ (performAcc s x res).full = s.full ∧
      (performAcc s x res).queues = s.queues ∧ (performAcc s x res).rings = s.rings) ∧
    (∀ (key b : Nat) (ws : List Word), b < key ∨ key + 4 * ws.length ≤ b → rdByte (wrWords s key ws) b = rdByte s b) ∧
    (accAt s id = some a → a.rel = false →
      (a.space = .cell → a.phase = .issued → portBehind s a = false → reaches s a (homePlace a) = true → hasFailed s a = false →
        (∀ u, a.kind = .load → readCheck s a.addr a.n = (.good, u) →
          exec (.accessComplete id .ok) s = .next (performAcc u a (rdWords u a.addr a.n))) ∧
        (∀ j u, a.kind = .load → readCheck s a.addr a.n = (.poisoned j, u) →
          exec (.accessComplete id .ok) s = .next (failAcc u a 0x9033 (a.va + j) 1)) ∧
        (∀ u, a.kind = .load → readCheck s a.addr a.n = (.bad, u) →
          exec (.accessComplete id .ok) s = .next (failFiring u a.site a.firing (unitsOf a.addr a.n))) ∧
        (a.kind = .store → exec (.accessComplete id .ok) s =
          .next (performAcc (writtenBank (clearPoison (wrWords s a.addr a.val) a.addr a.n) a.addr a.n) a []))) ∧
      (a.space = .sbuf ∨ a.space = .hbm ∨ a.space = .host → a.kind = .load ∨ a.kind = .store →
        (a.phase = .issued → portUnsent s a = false →
          exec (.accessComplete id .ok) s = .next (flushOf (lastAcc s { a with phase := .island }) a)) ∧
        (a.phase = .island → dieBehind s a = false →
          exec (.accessComplete id .ok) s = .next (lastAcc s { a with phase := .die }))) ∧
      (a.phase = .die → homeBehind s a = false → portBehind s a = false → reaches s a (homePlace a) = true → hasFailed s a = false →
        (a.space = .sbuf → a.kind = .load →
          exec (.accessComplete id .ok) s = .next (performAcc s a (rdWords s a.addr a.n))) ∧
        (a.space = .sbuf → a.kind = .store →
          exec (.accessComplete id .ok) s = .next (performAcc (wrWords s a.addr a.val) a [])) ∧
        (∀ f u, a.space = .hbm → a.kind = .load → readCheck s a.addr a.n = (f, u) →
          (f = .good → exec (.accessComplete id .ok) s = .next (performAcc u a (rdWords u a.addr a.n))) ∧
          (f ≠ .good → exec (.accessComplete id .ok) s = .next (failAcc u a 0x9006 a.va 0))) ∧
        (a.space = .hbm → a.kind = .store → a.n ≠ 16 →
          exec (.accessComplete id .ok) s = .next (performAcc (wrWords s a.addr a.val) a [])) ∧
        (a.space = .hbm → a.kind = .store → a.n = 16 →
          exec (.accessComplete id .ok) s =
            .next (performAcc (wholeLine (writtenBank (wrWords s a.addr a.val) a.addr 16) a.addr) a [])) ∧
        (∀ ok u, a.space = .host → a.kind = .load → a.n ≠ 16 → hostAsk s a.part false (a.addr - hostBase) (4 * a.n) = (ok, u) →
          (ok = true → exec (.accessComplete id .ok) s = .next (performAcc u a (rdWords u a.addr a.n))) ∧
          (ok = true → exec (.accessComplete id .uncorrectable) s = .next (failAcc u a 0x9005 a.va 0)) ∧
          (ok = false → exec (.accessComplete id .ok) s = .next (failAcc u a 0x9005 a.va 0))))) ∧
    (accAt s id = some a → a.phase = .waiting → a.rel = false → portBehind s a = false → a.space = .sbuf →
      reaches s a (homePlace a) = true → hasFailed s a = false →
      (a.kind = .loadFull → fullBehind s a = true → exec (.fullEmptyWake id) s = .next s) ∧
      (a.kind = .loadFull → fullBehind s a = false →
        (allFull s a.addr a.n = true →
          exec (.fullEmptyWake id) s =
            .next (performAcc (if a.cons then setFulls s a.addr false a.n else s) a (rdWords s a.addr a.n))) ∧
        (allFull s a.addr a.n = false → exec (.fullEmptyWake id) s = .next (waitAcc s a))) ∧
      (a.kind = .waitGe →
        let c := rdDword s a.addr
        (c.testBit 63 = true → exec (.waitgeWake id) s = .next (performAcc s a [1])) ∧
        (c.testBit 63 = false → wordsNat a.val ≤ c % 2 ^ 63 → exec (.waitgeWake id) s = .next (performAcc s a [0])) ∧
        (c.testBit 63 = false → c % 2 ^ 63 < wordsNat a.val → exec (.waitgeWake id) s = .next (waitAcc s a)))) ∧
    (∀ ph u, accAt s id = some a → a.phase = .waiting → a.kind = .gwait → (ctxAt s a.site.isl a.site.slot).thread = some t →
      groupWait s t a.addr = .ok (some (ph, u)) →
      (reaches u a 8 = true → exec (.gwaitWake id) s = .next (performAcc u a [BitVec.ofNat 32 ph])) ∧
      (reaches u a 8 = false →
        exec (.gwaitWake id) s = .next (putAcc u { a with phase := .die, res := [BitVec.ofNat 32 ph] }))) ∧
    (accAt s id = some a → a.phase = .die → a.kind = .gwait → reaches s a 8 = true →
      exec (.accessComplete id .ok) s = .next (performAcc s a a.res)) ∧
    (th.resumable ≠ [] → th.stop = none → th.st = .running ∨ th.st = .loading ∨ th.st = .preempted ∨ th.st = .held →
      exec (.faultPark t) s = .next (if replaying s th then s else recordFirst (haltThread s t .parked) t)) ∧
    (∀ r, th.stop = some r → th.st ≠ .stopped → th.st ≠ .free →
      (r.parked = false → exec (.threadStop t) s = .next (if replaying s th then s else stopHalt s t)) ∧
      (r.parked = true → s.accs.any (fun a => a.thread == t && decide (a.site.isl < 256)) = false → updatesDue s t = false →
        copiesGoing s t = false → writesGoing s t = false →
        r.record = false ∨ faultEntries s + (if r.code = 0x9030 then 2 else 1) ≤ 1024 →
        exec (.threadStop t) s = .next (settle (stopEnd s t r)))) ∧
    (∀ r q, l ≠ .t → v.toNat.testBit 31 = true →
      let j := journalSys s l 0x206010 v
      j.fw.paused = false → j.fw.lr ≠ .safe → j.faults.queue = r :: q → r.resumable = true →
      let u := journalOne j (.fault r.fseq r.code)
      exec (.fltpop l v) s = .next { u with faults := { u.faults with queue := q, delivered := u.faults.delivered ++ [r] } }) ∧
    (l ≠ .t → v.toNat.testBit 31 = true →
      let s0 := journalSys s l 0x206014 v
      let s1 : State := { s0 with faults := { s0.faults with respAct := v.toNat.testBit 0 } }
      (s0.faults.delivered.find? (fun f => f.fseq == s0.faults.respSeq.toNat) = none →
        exec (.faultResume l v) s = .next { s1 with faults := { s1.faults with badResp := true } }) ∧
      (∀ f r, s0.faults.delivered.find? (fun f => f.fseq == s0.faults.respSeq.toNat) = some f → f.owner = t → t < 0x1000 →
        (threadAt s0 t).resumable.find? (fun r => r.parked && r.fseq == f.fseq) = some r → (threadAt s0 t).stop = none →
        let s2 : State := { s1 with faults := { s1.faults with delivered := s0.faults.delivered.erase f } }
        (v.toNat.testBit 0 = false → exec (.faultResume l v) s = .next (resumeFault s2 t r)) ∧
        (v.toNat.testBit 0 = true →
          exec (.faultTerminate l v) s = .next (modThread s2 t (fun th => { th with
            stop := some { (if r.save then { r with code := 0x9034, detail1 := r.code } else r) with record := r.save, parked := false },
            resumable := th.resumable.filter (fun x => x.fseq != r.fseq || !x.parked) })))))

/-- Reliability (R274 to R287) and SYS registers (R3, R271): a replay, a migration with its loss, the shadow, the decay of
suspicion, RELCFG, and writes of SYS by level. That the outputs of the model's firings are right and an upset is an input (log entry
11), that a migrated cell's state keeps its place (log entry 12), a replay of a cell of the IOD (log entry 70) and what a journal
entry holds (log entry 69) are the model's choices. -/
def Obligations.ReliabilityAndRegisters : Prop :=
  ∀ (s : State) (die row cell n : Nat) (r : ReplayIn) (m : MigrateIn) (l : Level) (v : Word),
    let k := cellRelAt s die row 32
    let w := cellIdx m.island cell
    let sk := w / 33 * 33 + 32
    let b := v.toNat
    let noRead (isl : Nat) : Prop := ∀ a ∈ s.accs, a.site.isl = isl → a.site.cell = cell → a.space = .cell → accReads a = false
    let noted (a : Nat) : State := if activeWriter s = .new then journalOne s (.sysWrite a v) else s
    (die < 4 → row < 32 → (s.rel.cfg.get {} die).shen = true → k.state = 0 →
      k.moved + 2 ^ (s.rel.cfg.get {} die).intLog2 ≤ s.cycle →
      exec (.shadowMove die row) s = .next (setCellRel s die row 32
        { k with mapx := nextColumn s die row 32 k.mapx, moved := s.cycle })) ∧
    (let c := cellIdx r.island cell
     let f := servingRel s c
     let q := f / 33 * 33 + 32
     let x := firingOf s r.island r.slot cell r.unit r.firing
     r.island < 256 → cell < 16 → (s.rel.cells.get {} c).state ≠ 2 → (s.rel.cells.get {} f).susp = 0 → Tab.wf {} s.rel.cells = true →
      (r.fromShadow = true → shadowFail s r.island r.slot cell r.unit r.firing f r.errCell r.errShadow = false →
        exec (.cellReplay cell r) s = .next s) ∧
      (r.fromShadow = false → hasFail s r.island r.slot cell r.unit r.firing = true →
        stillBroken s r.island r.slot cell r.unit r.firing = false →
        ∃ u, exec (.cellReplay cell r) s = .next u ∧ (u.rel.cells.get {} f).susp = 1 ∧
          (u.rel.cells.get {} f).replays = min 255 ((s.rel.cells.get {} f).replays + 1) ∧
          (u.rel.cells.get {} f).lastFail = s.cycle ∧ cellFailed u r.island cell = false ∧
          (noRead r.island → unchecked u r.island cell = []) ∧
          ((∀ y ∈ unchecked s r.island cell, y.push = none ∧ y.keeps = [] ∧ y.area = []) → u.mem = s.mem ∧ u.ctxs = s.ctxs)) ∧
      (∀ y, (s.rel.cells.get {} c).state = 0 → r.fromShadow = true → x = some y → comparing s r.island r.slot f = true → mismatch s r.errCell r.errShadow y.tag = true →
        let match1 := replayMatch s r y.tag
        ∃ u, exec (.cellReplay cell r) s = .next u ∧ cellFailed u r.island cell = false ∧
          (noRead r.island → unchecked u r.island cell = []) ∧
          (u.rel.cells.get {} f).susp = (if match1 = 1 then 0 else 1) ∧
          (u.rel.cells.get {} f).replays = min 255 ((s.rel.cells.get {} f).replays + 1) ∧
          (u.rel.cells.get {} q).susp = (if match1 = 0 then (s.rel.cells.get {} q).susp else min 3 ((s.rel.cells.get {} q).susp + 1)))) ∧
    (256 ≤ r.island → cell < 16 → r.fromShadow = false → hasFail s r.island r.slot cell r.unit r.firing = true →
      stillBroken s r.island r.slot cell r.unit r.firing = false →
      exec (.cellReplay cell r) s = .next (releaseCell s r.island cell)) ∧
    (let known : Prop := match m.unit with
       | some j => (if m.fromShadow then shadowFail s m.island m.slot cell j m.firing w m.errCell m.errShadow
             else hasFail s m.island m.slot cell j m.firing) = true ∧
           ((s.rel.cells.get {} w).susp ≠ 0 ∨ m.again = true ∨ stillBroken s m.island m.slot cell j m.firing = true)
       | none => ∃ f ∈ s.rel.fails, f.isl = m.island ∧ f.cell = cell ∧ f.k = 255
     m.island < 256 → cell < 16 → (s.rel.cells.get {} w).state = 0 → known → Tab.wf {} s.rel.cells = true →
      ((s.rel.cells.get {} sk).state = 0 →
        ∃ u, exec (.cellMigration cell m) s = .next u ∧ (u.rel.cells.get {} w).state = 1 ∧
          (u.rel.cells.get {} sk).state = 1 ∧ (u.rel.cells.get {} sk).mapx = w % 33 ∧ cellFailed u m.island cell = false ∧
          (noRead m.island → unchecked u m.island cell = []) ∧
          ((∀ y ∈ unchecked s m.island cell, y.push = none ∧ y.keeps = [] ∧ y.area = []) → u.mem = s.mem ∧ u.ctxs = s.ctxs ∧
            (∀ a ∈ brokenWords s m.island cell, isPoison u (bankKey m.island cell (a % 16384)) = true))) ∧
      ((s.rel.cells.get {} sk).state ≠ 0 → Tab.wf {} s.sched.threads = true →
        ∃ u, exec (.cellMigration cell m) s = .next u ∧ (u.rel.cells.get {} w).state = 2 ∧ u.mem = s.mem ∧
          ∀ t ∈ islThreads s m.island, (threadAt u t).stop ≠ none)) ∧
    ((s.rel.cells.get {} n).susp ≠ 0 → (s.rel.cells.get {} n).lastFail + 2 ^ 30 ≤ s.cycle →
      exec (.suspDecay n) s = .next (modRel s n (fun c => { c with susp := c.susp - 1, lastFail := s.cycle }))) ∧
    (l ≠ .t → die < 4 →
      let x := s.rel.cfg.get {} die
      let y := { x with shen := b.testBit 0, intLog2 := max 16 (min 24 (bitsOf b 5 1)) }
      let j := if l = .s then journalOne s (.sysWrite (die * 2 ^ 25 + 0x310000) v) else s
      let put (z : RelCfg) : State := { j with rel := { j.rel with cfg := j.rel.cfg.set {} die z } }
      (b.testBit 6 = x.debug → exec (.relcfgWrite l die v) s = .next (put y)) ∧
      (b.testBit 6 ≠ x.debug → dieFree s die = true →
        exec (.relcfgWrite l die v) s = .next (put { y with debug := b.testBit 6, dbgErr := false })) ∧
      (b.testBit 6 ≠ x.debug → dieFree s die = false →
        exec (.relcfgWrite l die v) s = .next (put { y with dbgErr := true }))) ∧
    exec (.sysRegisterWrite .t n v) s = .next s ∧
    (hOnlyAt n = true → exec (.sysRegisterWrite .s n v) s = .next (noted n)) ∧
    (8 < n / 2 ^ 25 → exec (.sysRegisterWrite .h n v) s = .next s) ∧
    (let j := noted (8 * 2 ^ 25 + 0x10)
     exec (.sysRegisterWrite .s (8 * 2 ^ 25 + 0x10) v) s =
      .next { j with pkg := { j.pkg with capw := max 300 (min 600 (b % 1024)) } }) ∧
    (n < 256 → exec (.sysRegisterWrite .h (8 * 2 ^ 25 + 0x208000 + 4 * n) v) s =
      .next { s with xl := { s.xl with sbwin := s.xl.sbwin.set 0 n (BitVec.ofNat 32 (b % 2 ^ 20)) } })

/-! ## Encodings and steps -/

/-- Words whose values the spec writes out (R95, R96, R326, R331, R441, and its examples) decode to what they stand for;
a word with an unassigned opcode or a reserved bit is none (R338, R340). -/
def Obligations.DecodeWords : Prop :=
  decodeTableWord 64 0x0100286602800000 = some (.add { mm := .trunc, t0 := .operand .a 25, t1 := .vc 5 }) ∧
  decodeTableWord 64 0x08000A0812345678 = some (.movi { t0 := .operand .b 2, imm := 0x12345678 }) ∧
  decodeTableWord 64 0x203A082E03810000 = some (.ffma { ty := .vf32, t0 := .operand .a 11, t1 := .vc 7, md := 1 }) ∧
  decodeTableWord 64 0x412008AE03810048 = some (.ldsf { t0 := .operand .a 43, t1 := .vc 7, md := 1, imm := 0x48 }) ∧
  decodeTableWord 64 0x4500000204C80040 = some (.ctradd { t1 := .vc 9, ib := true, md := 8, imm := 0x40 }) ∧
  decodeTableWord 64 0x0A10080400000000 = some (.iter { t0 := .operand .a 1 }) ∧
  decodeTableWord 64 0x0A0008090180000A = some (.ctr { t0 := .operand .a 2, t1 := .operand .a 3, imm := 0x0A }) ∧
  decodeTableWord 64 0x0220081400400004 = some (.mula { t0 := .operand .a 5, ib := true, imm := 4 }) ∧
  decodeTableWord 32 0x30500000 = some (.mlda 1 1 0 0) ∧
  decodeTableWord 32 0x50400000 = some (.mbexpSet 1 0) ∧
  decodeTableWord 16 0x9880 = some (.qpLdpi 1 0) ∧
  decodeTableWord 16 0x7898 = some (.qpShli 1 24) ∧
  decodeTableWord 16 0xE807 = some (.qpBrf 7) ∧
  decodeTableWord 16 0x617E = some (.qpAddi 2 126) ∧
  decodeTableWord 16 0x1001 = some (.qpFail 0 1) ∧
  decodeTableWord 64 0 = none ∧
  decodeTableWord 64 0x08000A0912345678 = none ∧
  decodeTableWord 64 0x0101A86602800000 = none

/-- The decoder reads back what the encoder writes, whatever bytes follow: for every well-formed instruction that has a
word, operator, micro-operation or bytecode. -/
def Obligations.DecodeEncode : Prop :=
  ∀ (i : Instr) (k : WordKind) (bytes rest : List Byte), i.wf = true → encode i = some (k, bytes) →
    decode k (bytes ++ rest) = .ok (i, rest)

/-- A step runs the move at the head of the agenda after its time has passed: the operator of a slot that is the
arbiter's choice in an issue cycle (R182, R183) while the cell's check stage has room and no failure of the cell stands (R273), with the arbiter's credits moved on; the oldest firing of a cell's check stage; an input from outside; the bytecode at a program's next
index; the packet that was parsed; the micro-operation of a busy engine on an island that no power step holds (R18); or a move of the table itself. -/
def Obligations.StepRunsDecoded : Prop :=
  ∀ (s s1 : State) (n dt : Nat) (a : Action) (rest : List Move) (w : Nat) (i : Instr),
    s.agenda = { cycles := n, dt := dt, act := a } :: rest →
    let s0 := passTime { s with agenda := rest } n dt
    heldInReset s0 = false →
    (∀ isl cell k, a = .fire isl cell k → fetchFire s0 isl cell k = some (s1, w) → decodeOp w = .ok i →
      issueCycle s0 isl = true → checkRoom s0 isl cell = true → cellFailed s0 isl cell = false → arbPick (curCtx s1) cell (readySlots s0 isl cell) = some k →
      step s = exec i (modCtx s1 isl s1.cur.slot (fun c => arbAfter c cell (readySlots s0 isl cell) k eight))) ∧
    (∀ isl cell k, a = .fire isl cell k → fetchFire s0 isl cell k = none → step s = .next s0) ∧
    (∀ isl cell, a = .check isl cell → step s = .next (passOldest s0 isl cell)) ∧
    (∀ x, a = .input x → step s = .next (takeInput s0 x)) ∧
    (∀ q, a = .bytecode q → fetchBytecode s0 q = some (s1, w) → decodeQp w = .ok i → step s = exec i s1) ∧
    (∀ q p, a = .issue q → (queueAt s0 q).pkt = some p → decodePacket p = .ok i →
      step s = exec i { s0 with cur := { q := q } }) ∧
    (∀ isl e, a = .micro isl e → fetchMicro s0 isl e = some (s1, w) → issueLimited s0 isl = false → decodeMicro w = .ok i → step s = exec i s1) ∧
    (a = .event i → step s = exec i s0)

/-- Every step keeps the storage tables in canonical form. -/
def Obligations.StepKeepsStorageForm : Prop :=
  ∀ s t : State, Inv s → step s = .next t → Inv t

/-- The storage tables of the reset state are in canonical form. -/
def Obligations.ResetStorageForm : Prop := Inv State.reset
end

