-- ==== Sys2Proof/Laws/State.lean ====
section
/-! SUPPORT. Record updates: what each named update of the state leaves alone, one lemma per field, and what it sets. -/
namespace Sys2Proof.Laws
open Sys2Proof.Machine

/-! ### wrByte -/

@[simp] theorem wrByte_agenda (s : State) (a : Nat) (b : Byte) : (wrByte s a b).agenda = s.agenda := rfl
@[simp] theorem wrByte_freeCount (s : State) (a : Nat) (b : Byte) : (wrByte s a b).freeCount = s.freeCount := rfl
@[simp] theorem wrByte_cur (s : State) (a : Nat) (b : Byte) : (wrByte s a b).cur = s.cur := rfl
@[simp] theorem wrByte_cycle (s : State) (a : Nat) (b : Byte) : (wrByte s a b).cycle = s.cycle := rfl
@[simp] theorem wrByte_dtime (s : State) (a : Nat) (b : Byte) : (wrByte s a b).dtime = s.dtime := rfl
@[simp] theorem wrByte_full (s : State) (a : Nat) (b : Byte) : (wrByte s a b).full = s.full := rfl
@[simp] theorem wrByte_poison (s : State) (a : Nat) (b : Byte) : (wrByte s a b).poison = s.poison := rfl
@[simp] theorem wrByte_uncorr (s : State) (a : Nat) (b : Byte) : (wrByte s a b).uncorr = s.uncorr := rfl
@[simp] theorem wrByte_ctxs (s : State) (a : Nat) (b : Byte) : (wrByte s a b).ctxs = s.ctxs := rfl
@[simp] theorem wrByte_physT (s : State) (a : Nat) (b : Byte) : (wrByte s a b).physT = s.physT := rfl
@[simp] theorem wrByte_flights (s : State) (a : Nat) (b : Byte) : (wrByte s a b).flights = s.flights := rfl
@[simp] theorem wrByte_accs (s : State) (a : Nat) (b : Byte) : (wrByte s a b).accs = s.accs := rfl
@[simp] theorem wrByte_nextAcc (s : State) (a : Nat) (b : Byte) : (wrByte s a b).nextAcc = s.nextAcc := rfl
@[simp] theorem wrByte_gens (s : State) (a : Nat) (b : Byte) : (wrByte s a b).gens = s.gens := rfl
@[simp] theorem wrByte_ces (s : State) (a : Nat) (b : Byte) : (wrByte s a b).ces = s.ces := rfl
@[simp] theorem wrByte_sports (s : State) (a : Nat) (b : Byte) : (wrByte s a b).sports = s.sports := rfl
@[simp] theorem wrByte_queues (s : State) (a : Nat) (b : Byte) : (wrByte s a b).queues = s.queues := rfl
@[simp] theorem wrByte_rings (s : State) (a : Nat) (b : Byte) : (wrByte s a b).rings = s.rings := rfl
@[simp] theorem wrByte_devOverflow (s : State) (a : Nat) (b : Byte) : (wrByte s a b).devOverflow = s.devOverflow := rfl
@[simp] theorem wrByte_sched (s : State) (a : Nat) (b : Byte) : (wrByte s a b).sched = s.sched := rfl
@[simp] theorem wrByte_straits (s : State) (a : Nat) (b : Byte) : (wrByte s a b).straits = s.straits := rfl
@[simp] theorem wrByte_link (s : State) (a : Nat) (b : Byte) : (wrByte s a b).link = s.link := rfl
@[simp] theorem wrByte_pcie (s : State) (a : Nat) (b : Byte) : (wrByte s a b).pcie = s.pcie := rfl
@[simp] theorem wrByte_fh (s : State) (a : Nat) (b : Byte) : (wrByte s a b).fh = s.fh := rfl
@[simp] theorem wrByte_time (s : State) (a : Nat) (b : Byte) : (wrByte s a b).time = s.time := rfl
@[simp] theorem wrByte_fw (s : State) (a : Nat) (b : Byte) : (wrByte s a b).fw = s.fw := rfl
@[simp] theorem wrByte_flash (s : State) (a : Nat) (b : Byte) : (wrByte s a b).flash = s.flash := rfl
@[simp] theorem wrByte_pkg (s : State) (a : Nat) (b : Byte) : (wrByte s a b).pkg = s.pkg := rfl
@[simp] theorem wrByte_xl (s : State) (a : Nat) (b : Byte) : (wrByte s a b).xl = s.xl := rfl
@[simp] theorem wrByte_faults (s : State) (a : Nat) (b : Byte) : (wrByte s a b).faults = s.faults := rfl
@[simp] theorem wrByte_rel (s : State) (a : Nat) (b : Byte) : (wrByte s a b).rel = s.rel := rfl
@[simp] theorem wrByte_out (s : State) (a : Nat) (b : Byte) : (wrByte s a b).out = s.out := rfl

/-! ### setFull -/

@[simp] theorem setFull_agenda (s : State) (a : Nat) (v : Bool) : (setFull s a v).agenda = s.agenda := rfl
@[simp] theorem setFull_freeCount (s : State) (a : Nat) (v : Bool) : (setFull s a v).freeCount = s.freeCount := rfl
@[simp] theorem setFull_cur (s : State) (a : Nat) (v : Bool) : (setFull s a v).cur = s.cur := rfl
@[simp] theorem setFull_cycle (s : State) (a : Nat) (v : Bool) : (setFull s a v).cycle = s.cycle := rfl
@[simp] theorem setFull_dtime (s : State) (a : Nat) (v : Bool) : (setFull s a v).dtime = s.dtime := rfl
@[simp] theorem setFull_mem (s : State) (a : Nat) (v : Bool) : (setFull s a v).mem = s.mem := rfl
@[simp] theorem setFull_poison (s : State) (a : Nat) (v : Bool) : (setFull s a v).poison = s.poison := rfl
@[simp] theorem setFull_uncorr (s : State) (a : Nat) (v : Bool) : (setFull s a v).uncorr = s.uncorr := rfl
@[simp] theorem setFull_ctxs (s : State) (a : Nat) (v : Bool) : (setFull s a v).ctxs = s.ctxs := rfl
@[simp] theorem setFull_physT (s : State) (a : Nat) (v : Bool) : (setFull s a v).physT = s.physT := rfl
@[simp] theorem setFull_flights (s : State) (a : Nat) (v : Bool) : (setFull s a v).flights = s.flights := rfl
@[simp] theorem setFull_accs (s : State) (a : Nat) (v : Bool) : (setFull s a v).accs = s.accs := rfl
@[simp] theorem setFull_nextAcc (s : State) (a : Nat) (v : Bool) : (setFull s a v).nextAcc = s.nextAcc := rfl
@[simp] theorem setFull_gens (s : State) (a : Nat) (v : Bool) : (setFull s a v).gens = s.gens := rfl
@[simp] theorem setFull_ces (s : State) (a : Nat) (v : Bool) : (setFull s a v).ces = s.ces := rfl
@[simp] theorem setFull_sports (s : State) (a : Nat) (v : Bool) : (setFull s a v).sports = s.sports := rfl
@[simp] theorem setFull_queues (s : State) (a : Nat) (v : Bool) : (setFull s a v).queues = s.queues := rfl
@[simp] theorem setFull_rings (s : State) (a : Nat) (v : Bool) : (setFull s a v).rings = s.rings := rfl
@[simp] theorem setFull_devOverflow (s : State) (a : Nat) (v : Bool) : (setFull s a v).devOverflow = s.devOverflow := rfl
@[simp] theorem setFull_sched (s : State) (a : Nat) (v : Bool) : (setFull s a v).sched = s.sched := rfl
@[simp] theorem setFull_straits (s : State) (a : Nat) (v : Bool) : (setFull s a v).straits = s.straits := rfl
@[simp] theorem setFull_link (s : State) (a : Nat) (v : Bool) : (setFull s a v).link = s.link := rfl
@[simp] theorem setFull_pcie (s : State) (a : Nat) (v : Bool) : (setFull s a v).pcie = s.pcie := rfl
@[simp] theorem setFull_fh (s : State) (a : Nat) (v : Bool) : (setFull s a v).fh = s.fh := rfl
@[simp] theorem setFull_time (s : State) (a : Nat) (v : Bool) : (setFull s a v).time = s.time := rfl
@[simp] theorem setFull_fw (s : State) (a : Nat) (v : Bool) : (setFull s a v).fw = s.fw := rfl
@[simp] theorem setFull_flash (s : State) (a : Nat) (v : Bool) : (setFull s a v).flash = s.flash := rfl
@[simp] theorem setFull_pkg (s : State) (a : Nat) (v : Bool) : (setFull s a v).pkg = s.pkg := rfl
@[simp] theorem setFull_xl (s : State) (a : Nat) (v : Bool) : (setFull s a v).xl = s.xl := rfl
@[simp] theorem setFull_faults (s : State) (a : Nat) (v : Bool) : (setFull s a v).faults = s.faults := rfl
@[simp] theorem setFull_rel (s : State) (a : Nat) (v : Bool) : (setFull s a v).rel = s.rel := rfl
@[simp] theorem setFull_out (s : State) (a : Nat) (v : Bool) : (setFull s a v).out = s.out := rfl

/-! ### wholeLine -/

@[simp] theorem wholeLine_agenda (s : State) (a : Nat) : (wholeLine s a).agenda = s.agenda := rfl
@[simp] theorem wholeLine_freeCount (s : State) (a : Nat) : (wholeLine s a).freeCount = s.freeCount := rfl
@[simp] theorem wholeLine_cur (s : State) (a : Nat) : (wholeLine s a).cur = s.cur := rfl
@[simp] theorem wholeLine_cycle (s : State) (a : Nat) : (wholeLine s a).cycle = s.cycle := rfl
@[simp] theorem wholeLine_dtime (s : State) (a : Nat) : (wholeLine s a).dtime = s.dtime := rfl
@[simp] theorem wholeLine_mem (s : State) (a : Nat) : (wholeLine s a).mem = s.mem := rfl
@[simp] theorem wholeLine_full (s : State) (a : Nat) : (wholeLine s a).full = s.full := rfl
@[simp] theorem wholeLine_poison (s : State) (a : Nat) : (wholeLine s a).poison = s.poison := rfl
@[simp] theorem wholeLine_ctxs (s : State) (a : Nat) : (wholeLine s a).ctxs = s.ctxs := rfl
@[simp] theorem wholeLine_physT (s : State) (a : Nat) : (wholeLine s a).physT = s.physT := rfl
@[simp] theorem wholeLine_flights (s : State) (a : Nat) : (wholeLine s a).flights = s.flights := rfl
@[simp] theorem wholeLine_accs (s : State) (a : Nat) : (wholeLine s a).accs = s.accs := rfl
@[simp] theorem wholeLine_nextAcc (s : State) (a : Nat) : (wholeLine s a).nextAcc = s.nextAcc := rfl
@[simp] theorem wholeLine_gens (s : State) (a : Nat) : (wholeLine s a).gens = s.gens := rfl
@[simp] theorem wholeLine_ces (s : State) (a : Nat) : (wholeLine s a).ces = s.ces := rfl
@[simp] theorem wholeLine_sports (s : State) (a : Nat) : (wholeLine s a).sports = s.sports := rfl
@[simp] theorem wholeLine_queues (s : State) (a : Nat) : (wholeLine s a).queues = s.queues := rfl
@[simp] theorem wholeLine_rings (s : State) (a : Nat) : (wholeLine s a).rings = s.rings := rfl
@[simp] theorem wholeLine_devOverflow (s : State) (a : Nat) : (wholeLine s a).devOverflow = s.devOverflow := rfl
@[simp] theorem wholeLine_sched (s : State) (a : Nat) : (wholeLine s a).sched = s.sched := rfl
@[simp] theorem wholeLine_straits (s : State) (a : Nat) : (wholeLine s a).straits = s.straits := rfl
@[simp] theorem wholeLine_link (s : State) (a : Nat) : (wholeLine s a).link = s.link := rfl
@[simp] theorem wholeLine_pcie (s : State) (a : Nat) : (wholeLine s a).pcie = s.pcie := rfl
@[simp] theorem wholeLine_fh (s : State) (a : Nat) : (wholeLine s a).fh = s.fh := rfl
@[simp] theorem wholeLine_time (s : State) (a : Nat) : (wholeLine s a).time = s.time := rfl
@[simp] theorem wholeLine_fw (s : State) (a : Nat) : (wholeLine s a).fw = s.fw := rfl
@[simp] theorem wholeLine_flash (s : State) (a : Nat) : (wholeLine s a).flash = s.flash := rfl
@[simp] theorem wholeLine_pkg (s : State) (a : Nat) : (wholeLine s a).pkg = s.pkg := rfl
@[simp] theorem wholeLine_xl (s : State) (a : Nat) : (wholeLine s a).xl = s.xl := rfl
@[simp] theorem wholeLine_faults (s : State) (a : Nat) : (wholeLine s a).faults = s.faults := rfl
@[simp] theorem wholeLine_rel (s : State) (a : Nat) : (wholeLine s a).rel = s.rel := rfl
@[simp] theorem wholeLine_out (s : State) (a : Nat) : (wholeLine s a).out = s.out := rfl

/-! ### setCtx -/

@[simp] theorem setCtx_agenda (s : State) (i k : Nat) (c : Ctx) : (setCtx s i k c).agenda = s.agenda := rfl
@[simp] theorem setCtx_freeCount (s : State) (i k : Nat) (c : Ctx) : (setCtx s i k c).freeCount = s.freeCount := rfl
@[simp] theorem setCtx_cur (s : State) (i k : Nat) (c : Ctx) : (setCtx s i k c).cur = s.cur := rfl
@[simp] theorem setCtx_cycle (s : State) (i k : Nat) (c : Ctx) : (setCtx s i k c).cycle = s.cycle := rfl
@[simp] theorem setCtx_dtime (s : State) (i k : Nat) (c : Ctx) : (setCtx s i k c).dtime = s.dtime := rfl
@[simp] theorem setCtx_mem (s : State) (i k : Nat) (c : Ctx) : (setCtx s i k c).mem = s.mem := rfl
@[simp] theorem setCtx_full (s : State) (i k : Nat) (c : Ctx) : (setCtx s i k c).full = s.full := rfl
@[simp] theorem setCtx_poison (s : State) (i k : Nat) (c : Ctx) : (setCtx s i k c).poison = s.poison := rfl
@[simp] theorem setCtx_uncorr (s : State) (i k : Nat) (c : Ctx) : (setCtx s i k c).uncorr = s.uncorr := rfl
@[simp] theorem setCtx_physT (s : State) (i k : Nat) (c : Ctx) : (setCtx s i k c).physT = s.physT := rfl
@[simp] theorem setCtx_flights (s : State) (i k : Nat) (c : Ctx) : (setCtx s i k c).flights = s.flights := rfl
@[simp] theorem setCtx_accs (s : State) (i k : Nat) (c : Ctx) : (setCtx s i k c).accs = s.accs := rfl
@[simp] theorem setCtx_nextAcc (s : State) (i k : Nat) (c : Ctx) : (setCtx s i k c).nextAcc = s.nextAcc := rfl
@[simp] theorem setCtx_gens (s : State) (i k : Nat) (c : Ctx) : (setCtx s i k c).gens = s.gens := rfl
@[simp] theorem setCtx_ces (s : State) (i k : Nat) (c : Ctx) : (setCtx s i k c).ces = s.ces := rfl
@[simp] theorem setCtx_sports (s : State) (i k : Nat) (c : Ctx) : (setCtx s i k c).sports = s.sports := rfl
@[simp] theorem setCtx_queues (s : State) (i k : Nat) (c : Ctx) : (setCtx s i k c).queues = s.queues := rfl
@[simp] theorem setCtx_rings (s : State) (i k : Nat) (c : Ctx) : (setCtx s i k c).rings = s.rings := rfl
@[simp] theorem setCtx_devOverflow (s : State) (i k : Nat) (c : Ctx) : (setCtx s i k c).devOverflow = s.devOverflow := rfl
@[simp] theorem setCtx_sched (s : State) (i k : Nat) (c : Ctx) : (setCtx s i k c).sched = s.sched := rfl
@[simp] theorem setCtx_straits (s : State) (i k : Nat) (c : Ctx) : (setCtx s i k c).straits = s.straits := rfl
@[simp] theorem setCtx_link (s : State) (i k : Nat) (c : Ctx) : (setCtx s i k c).link = s.link := rfl
@[simp] theorem setCtx_pcie (s : State) (i k : Nat) (c : Ctx) : (setCtx s i k c).pcie = s.pcie := rfl
@[simp] theorem setCtx_fh (s : State) (i k : Nat) (c : Ctx) : (setCtx s i k c).fh = s.fh := rfl
@[simp] theorem setCtx_time (s : State) (i k : Nat) (c : Ctx) : (setCtx s i k c).time = s.time := rfl
@[simp] theorem setCtx_fw (s : State) (i k : Nat) (c : Ctx) : (setCtx s i k c).fw = s.fw := rfl
@[simp] theorem setCtx_flash (s : State) (i k : Nat) (c : Ctx) : (setCtx s i k c).flash = s.flash := rfl
@[simp] theorem setCtx_pkg (s : State) (i k : Nat) (c : Ctx) : (setCtx s i k c).pkg = s.pkg := rfl
@[simp] theorem setCtx_xl (s : State) (i k : Nat) (c : Ctx) : (setCtx s i k c).xl = s.xl := rfl
@[simp] theorem setCtx_faults (s : State) (i k : Nat) (c : Ctx) : (setCtx s i k c).faults = s.faults := rfl
@[simp] theorem setCtx_rel (s : State) (i k : Nat) (c : Ctx) : (setCtx s i k c).rel = s.rel := rfl
@[simp] theorem setCtx_out (s : State) (i k : Nat) (c : Ctx) : (setCtx s i k c).out = s.out := rfl

/-! ### setThread -/

@[simp] theorem setThread_agenda (s : State) (t : Nat) (th : Thread) : (setThread s t th).agenda = s.agenda := rfl
@[simp] theorem setThread_freeCount (s : State) (t : Nat) (th : Thread) : (setThread s t th).freeCount = s.freeCount := rfl
@[simp] theorem setThread_cur (s : State) (t : Nat) (th : Thread) : (setThread s t th).cur = s.cur := rfl
@[simp] theorem setThread_cycle (s : State) (t : Nat) (th : Thread) : (setThread s t th).cycle = s.cycle := rfl
@[simp] theorem setThread_dtime (s : State) (t : Nat) (th : Thread) : (setThread s t th).dtime = s.dtime := rfl
@[simp] theorem setThread_mem (s : State) (t : Nat) (th : Thread) : (setThread s t th).mem = s.mem := rfl
@[simp] theorem setThread_full (s : State) (t : Nat) (th : Thread) : (setThread s t th).full = s.full := rfl
@[simp] theorem setThread_poison (s : State) (t : Nat) (th : Thread) : (setThread s t th).poison = s.poison := rfl
@[simp] theorem setThread_uncorr (s : State) (t : Nat) (th : Thread) : (setThread s t th).uncorr = s.uncorr := rfl
@[simp] theorem setThread_ctxs (s : State) (t : Nat) (th : Thread) : (setThread s t th).ctxs = s.ctxs := rfl
@[simp] theorem setThread_physT (s : State) (t : Nat) (th : Thread) : (setThread s t th).physT = s.physT := rfl
@[simp] theorem setThread_flights (s : State) (t : Nat) (th : Thread) : (setThread s t th).flights = s.flights := rfl
@[simp] theorem setThread_accs (s : State) (t : Nat) (th : Thread) : (setThread s t th).accs = s.accs := rfl
@[simp] theorem setThread_nextAcc (s : State) (t : Nat) (th : Thread) : (setThread s t th).nextAcc = s.nextAcc := rfl
@[simp] theorem setThread_gens (s : State) (t : Nat) (th : Thread) : (setThread s t th).gens = s.gens := rfl
@[simp] theorem setThread_ces (s : State) (t : Nat) (th : Thread) : (setThread s t th).ces = s.ces := rfl
@[simp] theorem setThread_sports (s : State) (t : Nat) (th : Thread) : (setThread s t th).sports = s.sports := rfl
@[simp] theorem setThread_queues (s : State) (t : Nat) (th : Thread) : (setThread s t th).queues = s.queues := rfl
@[simp] theorem setThread_rings (s : State) (t : Nat) (th : Thread) : (setThread s t th).rings = s.rings := rfl
@[simp] theorem setThread_devOverflow (s : State) (t : Nat) (th : Thread) : (setThread s t th).devOverflow = s.devOverflow := rfl
@[simp] theorem setThread_straits (s : State) (t : Nat) (th : Thread) : (setThread s t th).straits = s.straits := rfl
@[simp] theorem setThread_link (s : State) (t : Nat) (th : Thread) : (setThread s t th).link = s.link := rfl
@[simp] theorem setThread_pcie (s : State) (t : Nat) (th : Thread) : (setThread s t th).pcie = s.pcie := rfl
@[simp] theorem setThread_fh (s : State) (t : Nat) (th : Thread) : (setThread s t th).fh = s.fh := rfl
@[simp] theorem setThread_time (s : State) (t : Nat) (th : Thread) : (setThread s t th).time = s.time := rfl
@[simp] theorem setThread_fw (s : State) (t : Nat) (th : Thread) : (setThread s t th).fw = s.fw := rfl
@[simp] theorem setThread_flash (s : State) (t : Nat) (th : Thread) : (setThread s t th).flash = s.flash := rfl
@[simp] theorem setThread_pkg (s : State) (t : Nat) (th : Thread) : (setThread s t th).pkg = s.pkg := rfl
@[simp] theorem setThread_xl (s : State) (t : Nat) (th : Thread) : (setThread s t th).xl = s.xl := rfl
@[simp] theorem setThread_faults (s : State) (t : Nat) (th : Thread) : (setThread s t th).faults = s.faults := rfl
@[simp] theorem setThread_rel (s : State) (t : Nat) (th : Thread) : (setThread s t th).rel = s.rel := rfl
@[simp] theorem setThread_out (s : State) (t : Nat) (th : Thread) : (setThread s t th).out = s.out := rfl

/-! ### setQueue -/

@[simp] theorem setQueue_agenda (s : State) (q : Nat) (x : Queue) : (setQueue s q x).agenda = s.agenda := rfl
@[simp] theorem setQueue_freeCount (s : State) (q : Nat) (x : Queue) : (setQueue s q x).freeCount = s.freeCount := rfl
@[simp] theorem setQueue_cur (s : State) (q : Nat) (x : Queue) : (setQueue s q x).cur = s.cur := rfl
@[simp] theorem setQueue_cycle (s : State) (q : Nat) (x : Queue) : (setQueue s q x).cycle = s.cycle := rfl
@[simp] theorem setQueue_dtime (s : State) (q : Nat) (x : Queue) : (setQueue s q x).dtime = s.dtime := rfl
@[simp] theorem setQueue_mem (s : State) (q : Nat) (x : Queue) : (setQueue s q x).mem = s.mem := rfl
@[simp] theorem setQueue_full (s : State) (q : Nat) (x : Queue) : (setQueue s q x).full = s.full := rfl
@[simp] theorem setQueue_poison (s : State) (q : Nat) (x : Queue) : (setQueue s q x).poison = s.poison := rfl
@[simp] theorem setQueue_uncorr (s : State) (q : Nat) (x : Queue) : (setQueue s q x).uncorr = s.uncorr := rfl
@[simp] theorem setQueue_ctxs (s : State) (q : Nat) (x : Queue) : (setQueue s q x).ctxs = s.ctxs := rfl
@[simp] theorem setQueue_physT (s : State) (q : Nat) (x : Queue) : (setQueue s q x).physT = s.physT := rfl
@[simp] theorem setQueue_flights (s : State) (q : Nat) (x : Queue) : (setQueue s q x).flights = s.flights := rfl
@[simp] theorem setQueue_accs (s : State) (q : Nat) (x : Queue) : (setQueue s q x).accs = s.accs := rfl
@[simp] theorem setQueue_nextAcc (s : State) (q : Nat) (x : Queue) : (setQueue s q x).nextAcc = s.nextAcc := rfl
@[simp] theorem setQueue_gens (s : State) (q : Nat) (x : Queue) : (setQueue s q x).gens = s.gens := rfl
@[simp] theorem setQueue_ces (s : State) (q : Nat) (x : Queue) : (setQueue s q x).ces = s.ces := rfl
@[simp] theorem setQueue_sports (s : State) (q : Nat) (x : Queue) : (setQueue s q x).sports = s.sports := rfl
@[simp] theorem setQueue_rings (s : State) (q : Nat) (x : Queue) : (setQueue s q x).rings = s.rings := rfl
@[simp] theorem setQueue_devOverflow (s : State) (q : Nat) (x : Queue) : (setQueue s q x).devOverflow = s.devOverflow := rfl
@[simp] theorem setQueue_sched (s : State) (q : Nat) (x : Queue) : (setQueue s q x).sched = s.sched := rfl
@[simp] theorem setQueue_straits (s : State) (q : Nat) (x : Queue) : (setQueue s q x).straits = s.straits := rfl
@[simp] theorem setQueue_link (s : State) (q : Nat) (x : Queue) : (setQueue s q x).link = s.link := rfl
@[simp] theorem setQueue_pcie (s : State) (q : Nat) (x : Queue) : (setQueue s q x).pcie = s.pcie := rfl
@[simp] theorem setQueue_fh (s : State) (q : Nat) (x : Queue) : (setQueue s q x).fh = s.fh := rfl
@[simp] theorem setQueue_time (s : State) (q : Nat) (x : Queue) : (setQueue s q x).time = s.time := rfl
@[simp] theorem setQueue_fw (s : State) (q : Nat) (x : Queue) : (setQueue s q x).fw = s.fw := rfl
@[simp] theorem setQueue_flash (s : State) (q : Nat) (x : Queue) : (setQueue s q x).flash = s.flash := rfl
@[simp] theorem setQueue_pkg (s : State) (q : Nat) (x : Queue) : (setQueue s q x).pkg = s.pkg := rfl
@[simp] theorem setQueue_xl (s : State) (q : Nat) (x : Queue) : (setQueue s q x).xl = s.xl := rfl
@[simp] theorem setQueue_faults (s : State) (q : Nat) (x : Queue) : (setQueue s q x).faults = s.faults := rfl
@[simp] theorem setQueue_rel (s : State) (q : Nat) (x : Queue) : (setQueue s q x).rel = s.rel := rfl
@[simp] theorem setQueue_out (s : State) (q : Nat) (x : Queue) : (setQueue s q x).out = s.out := rfl

/-! ### setRing -/

@[simp] theorem setRing_agenda (s : State) (e : Nat) (x : Ring) : (setRing s e x).agenda = s.agenda := rfl
@[simp] theorem setRing_freeCount (s : State) (e : Nat) (x : Ring) : (setRing s e x).freeCount = s.freeCount := rfl
@[simp] theorem setRing_cur (s : State) (e : Nat) (x : Ring) : (setRing s e x).cur = s.cur := rfl
@[simp] theorem setRing_cycle (s : State) (e : Nat) (x : Ring) : (setRing s e x).cycle = s.cycle := rfl
@[simp] theorem setRing_dtime (s : State) (e : Nat) (x : Ring) : (setRing s e x).dtime = s.dtime := rfl
@[simp] theorem setRing_mem (s : State) (e : Nat) (x : Ring) : (setRing s e x).mem = s.mem := rfl
@[simp] theorem setRing_full (s : State) (e : Nat) (x : Ring) : (setRing s e x).full = s.full := rfl
@[simp] theorem setRing_poison (s : State) (e : Nat) (x : Ring) : (setRing s e x).poison = s.poison := rfl
@[simp] theorem setRing_uncorr (s : State) (e : Nat) (x : Ring) : (setRing s e x).uncorr = s.uncorr := rfl
@[simp] theorem setRing_ctxs (s : State) (e : Nat) (x : Ring) : (setRing s e x).ctxs = s.ctxs := rfl
@[simp] theorem setRing_physT (s : State) (e : Nat) (x : Ring) : (setRing s e x).physT = s.physT := rfl
@[simp] theorem setRing_flights (s : State) (e : Nat) (x : Ring) : (setRing s e x).flights = s.flights := rfl
@[simp] theorem setRing_accs (s : State) (e : Nat) (x : Ring) : (setRing s e x).accs = s.accs := rfl
@[simp] theorem setRing_nextAcc (s : State) (e : Nat) (x : Ring) : (setRing s e x).nextAcc = s.nextAcc := rfl
@[simp] theorem setRing_gens (s : State) (e : Nat) (x : Ring) : (setRing s e x).gens = s.gens := rfl
@[simp] theorem setRing_ces (s : State) (e : Nat) (x : Ring) : (setRing s e x).ces = s.ces := rfl
@[simp] theorem setRing_sports (s : State) (e : Nat) (x : Ring) : (setRing s e x).sports = s.sports := rfl
@[simp] theorem setRing_queues (s : State) (e : Nat) (x : Ring) : (setRing s e x).queues = s.queues := rfl
@[simp] theorem setRing_devOverflow (s : State) (e : Nat) (x : Ring) : (setRing s e x).devOverflow = s.devOverflow := rfl
@[simp] theorem setRing_sched (s : State) (e : Nat) (x : Ring) : (setRing s e x).sched = s.sched := rfl
@[simp] theorem setRing_straits (s : State) (e : Nat) (x : Ring) : (setRing s e x).straits = s.straits := rfl
@[simp] theorem setRing_link (s : State) (e : Nat) (x : Ring) : (setRing s e x).link = s.link := rfl
@[simp] theorem setRing_pcie (s : State) (e : Nat) (x : Ring) : (setRing s e x).pcie = s.pcie := rfl
@[simp] theorem setRing_fh (s : State) (e : Nat) (x : Ring) : (setRing s e x).fh = s.fh := rfl
@[simp] theorem setRing_time (s : State) (e : Nat) (x : Ring) : (setRing s e x).time = s.time := rfl
@[simp] theorem setRing_fw (s : State) (e : Nat) (x : Ring) : (setRing s e x).fw = s.fw := rfl
@[simp] theorem setRing_flash (s : State) (e : Nat) (x : Ring) : (setRing s e x).flash = s.flash := rfl
@[simp] theorem setRing_pkg (s : State) (e : Nat) (x : Ring) : (setRing s e x).pkg = s.pkg := rfl
@[simp] theorem setRing_xl (s : State) (e : Nat) (x : Ring) : (setRing s e x).xl = s.xl := rfl
@[simp] theorem setRing_faults (s : State) (e : Nat) (x : Ring) : (setRing s e x).faults = s.faults := rfl
@[simp] theorem setRing_rel (s : State) (e : Nat) (x : Ring) : (setRing s e x).rel = s.rel := rfl
@[simp] theorem setRing_out (s : State) (e : Nat) (x : Ring) : (setRing s e x).out = s.out := rfl

/-! ### sendTo -/

@[simp] theorem sendTo_agenda (s : State) (i k p : Nat) (d : Dest) (t : Tok) : (sendTo s i k p d t).agenda = s.agenda := rfl
@[simp] theorem sendTo_freeCount (s : State) (i k p : Nat) (d : Dest) (t : Tok) : (sendTo s i k p d t).freeCount = s.freeCount := rfl
@[simp] theorem sendTo_cur (s : State) (i k p : Nat) (d : Dest) (t : Tok) : (sendTo s i k p d t).cur = s.cur := rfl
@[simp] theorem sendTo_cycle (s : State) (i k p : Nat) (d : Dest) (t : Tok) : (sendTo s i k p d t).cycle = s.cycle := rfl
@[simp] theorem sendTo_dtime (s : State) (i k p : Nat) (d : Dest) (t : Tok) : (sendTo s i k p d t).dtime = s.dtime := rfl
@[simp] theorem sendTo_mem (s : State) (i k p : Nat) (d : Dest) (t : Tok) : (sendTo s i k p d t).mem = s.mem := rfl
@[simp] theorem sendTo_full (s : State) (i k p : Nat) (d : Dest) (t : Tok) : (sendTo s i k p d t).full = s.full := rfl
@[simp] theorem sendTo_poison (s : State) (i k p : Nat) (d : Dest) (t : Tok) : (sendTo s i k p d t).poison = s.poison := rfl
@[simp] theorem sendTo_uncorr (s : State) (i k p : Nat) (d : Dest) (t : Tok) : (sendTo s i k p d t).uncorr = s.uncorr := rfl
@[simp] theorem sendTo_ctxs (s : State) (i k p : Nat) (d : Dest) (t : Tok) : (sendTo s i k p d t).ctxs = s.ctxs := rfl
@[simp] theorem sendTo_physT (s : State) (i k p : Nat) (d : Dest) (t : Tok) : (sendTo s i k p d t).physT = s.physT := rfl
@[simp] theorem sendTo_accs (s : State) (i k p : Nat) (d : Dest) (t : Tok) : (sendTo s i k p d t).accs = s.accs := rfl
@[simp] theorem sendTo_nextAcc (s : State) (i k p : Nat) (d : Dest) (t : Tok) : (sendTo s i k p d t).nextAcc = s.nextAcc := rfl
@[simp] theorem sendTo_gens (s : State) (i k p : Nat) (d : Dest) (t : Tok) : (sendTo s i k p d t).gens = s.gens := rfl
@[simp] theorem sendTo_ces (s : State) (i k p : Nat) (d : Dest) (t : Tok) : (sendTo s i k p d t).ces = s.ces := rfl
@[simp] theorem sendTo_sports (s : State) (i k p : Nat) (d : Dest) (t : Tok) : (sendTo s i k p d t).sports = s.sports := rfl
@[simp] theorem sendTo_queues (s : State) (i k p : Nat) (d : Dest) (t : Tok) : (sendTo s i k p d t).queues = s.queues := rfl
@[simp] theorem sendTo_rings (s : State) (i k p : Nat) (d : Dest) (t : Tok) : (sendTo s i k p d t).rings = s.rings := rfl
@[simp] theorem sendTo_devOverflow (s : State) (i k p : Nat) (d : Dest) (t : Tok) : (sendTo s i k p d t).devOverflow = s.devOverflow := rfl
@[simp] theorem sendTo_sched (s : State) (i k p : Nat) (d : Dest) (t : Tok) : (sendTo s i k p d t).sched = s.sched := rfl
@[simp] theorem sendTo_straits (s : State) (i k p : Nat) (d : Dest) (t : Tok) : (sendTo s i k p d t).straits = s.straits := rfl
@[simp] theorem sendTo_link (s : State) (i k p : Nat) (d : Dest) (t : Tok) : (sendTo s i k p d t).link = s.link := rfl
@[simp] theorem sendTo_pcie (s : State) (i k p : Nat) (d : Dest) (t : Tok) : (sendTo s i k p d t).pcie = s.pcie := rfl
@[simp] theorem sendTo_fh (s : State) (i k p : Nat) (d : Dest) (t : Tok) : (sendTo s i k p d t).fh = s.fh := rfl
@[simp] theorem sendTo_time (s : State) (i k p : Nat) (d : Dest) (t : Tok) : (sendTo s i k p d t).time = s.time := rfl
@[simp] theorem sendTo_fw (s : State) (i k p : Nat) (d : Dest) (t : Tok) : (sendTo s i k p d t).fw = s.fw := rfl
@[simp] theorem sendTo_flash (s : State) (i k p : Nat) (d : Dest) (t : Tok) : (sendTo s i k p d t).flash = s.flash := rfl
@[simp] theorem sendTo_pkg (s : State) (i k p : Nat) (d : Dest) (t : Tok) : (sendTo s i k p d t).pkg = s.pkg := rfl
@[simp] theorem sendTo_xl (s : State) (i k p : Nat) (d : Dest) (t : Tok) : (sendTo s i k p d t).xl = s.xl := rfl
@[simp] theorem sendTo_faults (s : State) (i k p : Nat) (d : Dest) (t : Tok) : (sendTo s i k p d t).faults = s.faults := rfl
@[simp] theorem sendTo_rel (s : State) (i k p : Nat) (d : Dest) (t : Tok) : (sendTo s i k p d t).rel = s.rel := rfl
@[simp] theorem sendTo_out (s : State) (i k p : Nat) (d : Dest) (t : Tok) : (sendTo s i k p d t).out = s.out := rfl

/-! ### pushRecord -/

@[simp] theorem pushRecord_agenda (s : State) (r : FaultRec) : (pushRecord s r).agenda = s.agenda := rfl
@[simp] theorem pushRecord_freeCount (s : State) (r : FaultRec) : (pushRecord s r).freeCount = s.freeCount := rfl
@[simp] theorem pushRecord_cur (s : State) (r : FaultRec) : (pushRecord s r).cur = s.cur := rfl
@[simp] theorem pushRecord_cycle (s : State) (r : FaultRec) : (pushRecord s r).cycle = s.cycle := rfl
@[simp] theorem pushRecord_dtime (s : State) (r : FaultRec) : (pushRecord s r).dtime = s.dtime := rfl
@[simp] theorem pushRecord_mem (s : State) (r : FaultRec) : (pushRecord s r).mem = s.mem := rfl
@[simp] theorem pushRecord_full (s : State) (r : FaultRec) : (pushRecord s r).full = s.full := rfl
@[simp] theorem pushRecord_poison (s : State) (r : FaultRec) : (pushRecord s r).poison = s.poison := rfl
@[simp] theorem pushRecord_uncorr (s : State) (r : FaultRec) : (pushRecord s r).uncorr = s.uncorr := rfl
@[simp] theorem pushRecord_ctxs (s : State) (r : FaultRec) : (pushRecord s r).ctxs = s.ctxs := rfl
@[simp] theorem pushRecord_physT (s : State) (r : FaultRec) : (pushRecord s r).physT = s.physT := rfl
@[simp] theorem pushRecord_flights (s : State) (r : FaultRec) : (pushRecord s r).flights = s.flights := rfl
@[simp] theorem pushRecord_accs (s : State) (r : FaultRec) : (pushRecord s r).accs = s.accs := rfl
@[simp] theorem pushRecord_nextAcc (s : State) (r : FaultRec) : (pushRecord s r).nextAcc = s.nextAcc := rfl
@[simp] theorem pushRecord_gens (s : State) (r : FaultRec) : (pushRecord s r).gens = s.gens := rfl
@[simp] theorem pushRecord_ces (s : State) (r : FaultRec) : (pushRecord s r).ces = s.ces := rfl
@[simp] theorem pushRecord_sports (s : State) (r : FaultRec) : (pushRecord s r).sports = s.sports := rfl
@[simp] theorem pushRecord_queues (s : State) (r : FaultRec) : (pushRecord s r).queues = s.queues := rfl
@[simp] theorem pushRecord_rings (s : State) (r : FaultRec) : (pushRecord s r).rings = s.rings := rfl
@[simp] theorem pushRecord_devOverflow (s : State) (r : FaultRec) : (pushRecord s r).devOverflow = s.devOverflow := rfl
@[simp] theorem pushRecord_sched (s : State) (r : FaultRec) : (pushRecord s r).sched = s.sched := rfl
@[simp] theorem pushRecord_straits (s : State) (r : FaultRec) : (pushRecord s r).straits = s.straits := rfl
@[simp] theorem pushRecord_link (s : State) (r : FaultRec) : (pushRecord s r).link = s.link := rfl
@[simp] theorem pushRecord_pcie (s : State) (r : FaultRec) : (pushRecord s r).pcie = s.pcie := rfl
@[simp] theorem pushRecord_fh (s : State) (r : FaultRec) : (pushRecord s r).fh = s.fh := rfl
@[simp] theorem pushRecord_time (s : State) (r : FaultRec) : (pushRecord s r).time = s.time := rfl
@[simp] theorem pushRecord_fw (s : State) (r : FaultRec) : (pushRecord s r).fw = s.fw := rfl
@[simp] theorem pushRecord_flash (s : State) (r : FaultRec) : (pushRecord s r).flash = s.flash := rfl
@[simp] theorem pushRecord_pkg (s : State) (r : FaultRec) : (pushRecord s r).pkg = s.pkg := rfl
@[simp] theorem pushRecord_xl (s : State) (r : FaultRec) : (pushRecord s r).xl = s.xl := rfl
@[simp] theorem pushRecord_rel (s : State) (r : FaultRec) : (pushRecord s r).rel = s.rel := rfl
@[simp] theorem pushRecord_out (s : State) (r : FaultRec) : (pushRecord s r).out = s.out := rfl

theorem wrByte_sets (s : State) (a : Nat) (b : Byte) : (wrByte s a b).mem = memSet s.mem a b := rfl
theorem setFull_sets (s : State) (a : Nat) (v : Bool) : (setFull s a v).full = s.full.set false (a / 4) v := rfl
theorem wholeLine_sets (s : State) (a : Nat) : (wholeLine s a).uncorr = s.uncorr.set false (a / 64) false := rfl
theorem setCtx_sets (s : State) (i k : Nat) (c : Ctx) : (setCtx s i k c).ctxs = s.ctxs.set {} (ctxKey i k) c := rfl
theorem setQueue_sets (s : State) (q : Nat) (x : Queue) : (setQueue s q x).queues = s.queues.set {} q x := rfl
theorem setRing_sets (s : State) (e : Nat) (x : Ring) : (setRing s e x).rings = s.rings.set {} e x := rfl
theorem setThread_sets (s : State) (t : Nat) (th : Thread) : (setThread s t th).sched.threads = s.sched.threads.set {} t th := rfl
theorem modCtx_eq (s : State) (i k : Nat) (f : Ctx → Ctx) : modCtx s i k f = setCtx s i k (f (ctxAt s i k)) := rfl
theorem modThread_eq (s : State) (t : Nat) (f : Thread → Thread) : modThread s t f = setThread s t (f (threadAt s t)) := rfl
theorem modQueue_eq (s : State) (q : Nat) (f : Queue → Queue) : modQueue s q f = setQueue s q (f (queueAt s q)) := rfl

end Sys2Proof.Laws
end

