-- ==== Sys2Proof/Laws/Memory.lean ====
section
/-! SUPPORT. Sparse tables and memory: the canonical form is kept by every operation, a read after a write gives the value
written, and a write leaves every other address alone. -/
namespace Sys2Proof.Laws
open Sys2Proof.Machine

/-! ## Tables -/

theorem risingFrom_mono {α : Type} {t : Tab α} {lo lo' : Nat} (h : lo' ≤ lo) (ht : Tab.risingFrom lo t = true) :
    Tab.risingFrom lo' t = true := by
  cases t with
  | nil => rfl
  | cons e t =>
    simp only [Tab.risingFrom, Bool.and_eq_true, decide_eq_true_eq] at ht ⊢
    exact ⟨Nat.le_trans h ht.1, ht.2⟩

theorem put_rising {α : Type} (v : α) : ∀ {t : Tab α} {lo k : Nat}, lo ≤ k → Tab.risingFrom lo t = true →
    Tab.risingFrom lo (Tab.put t k v) = true
  | [], lo, k, hk, _ => by simp [Tab.put, Tab.risingFrom, hk]
  | (j, u) :: t, lo, k, hk, ht => by
    simp only [Tab.risingFrom, Bool.and_eq_true, decide_eq_true_eq] at ht
    simp only [Tab.put]
    split
    · simp only [Tab.risingFrom, Bool.and_eq_true, decide_eq_true_eq]
      exact ⟨hk, by omega, ht.2⟩
    · split
      · next h => subst h; simp [Tab.risingFrom, ht.1, ht.2]
      · simp only [Tab.risingFrom, Bool.and_eq_true, decide_eq_true_eq]
        exact ⟨ht.1, put_rising v (by omega) ht.2⟩

theorem del_rising {α : Type} : ∀ {t : Tab α} {lo : Nat} (k : Nat), Tab.risingFrom lo t = true →
    Tab.risingFrom lo (Tab.del t k) = true
  | [], _, _, _ => rfl
  | (j, u) :: t, lo, k, ht => by
    simp only [Tab.risingFrom, Bool.and_eq_true, decide_eq_true_eq] at ht
    simp only [Tab.del]
    split
    · exact risingFrom_mono (by omega) ht.2
    · simp only [Tab.risingFrom, Bool.and_eq_true, decide_eq_true_eq]
      exact ⟨ht.1, del_rising k ht.2⟩

theorem put_all {α : Type} (q : Nat × α → Bool) (v : α) (k : Nat) (hv : q (k, v) = true) :
    ∀ {t : Tab α}, t.all q = true → (Tab.put t k v).all q = true
  | [], _ => by simp [Tab.put, hv]
  | (j, u) :: t, ht => by
    simp only [List.all_cons, Bool.and_eq_true] at ht
    simp only [Tab.put]
    split
    · simp only [List.all_cons, Bool.and_eq_true]; exact ⟨hv, ht.1, ht.2⟩
    · split
      · simp only [List.all_cons, Bool.and_eq_true]; exact ⟨hv, ht.2⟩
      · simp only [List.all_cons, Bool.and_eq_true]; exact ⟨ht.1, put_all q v k hv ht.2⟩

theorem del_all {α : Type} (q : Nat × α → Bool) (k : Nat) : ∀ {t : Tab α}, t.all q = true → (Tab.del t k).all q = true
  | [], _ => rfl
  | (j, u) :: t, ht => by
    simp only [List.all_cons, Bool.and_eq_true] at ht
    simp only [Tab.del]
    split
    · exact ht.2
    · simp only [List.all_cons, Bool.and_eq_true]; exact ⟨ht.1, del_all q k ht.2⟩

/-- Setting a key keeps a table's canonical form. -/
theorem set_wf {α : Type} [DecidableEq α] (d : α) {t : Tab α} (k : Nat) (v : α) (h : Tab.wf d t = true) :
    Tab.wf d (Tab.set d t k v) = true := by
  simp only [Tab.wf, Bool.and_eq_true] at h ⊢
  unfold Tab.set
  split
  · exact ⟨del_rising k h.1, del_all _ k h.2⟩
  · next hv => exact ⟨put_rising v (Nat.zero_le k) h.1, put_all _ v k (by simp [hv]) h.2⟩

theorem get_put_same {α : Type} (d v : α) (k : Nat) : ∀ t : Tab α, Tab.get d (Tab.put t k v) k = v
  | [] => by simp [Tab.put, Tab.get]
  | (j, u) :: t => by
    simp only [Tab.put]
    split
    · simp [Tab.get]
    · split
      · simp [Tab.get]
      · next h => simp [Tab.get, h, get_put_same d v k t]

theorem get_put_other {α : Type} (d v : α) {k i : Nat} (hi : i ≠ k) : ∀ t : Tab α, Tab.get d (Tab.put t k v) i = Tab.get d t i
  | [] => by simp [Tab.put, Tab.get, hi]
  | (j, u) :: t => by
    simp only [Tab.put]
    split
    · simp [Tab.get, hi]
    · split
      · next h => subst h; simp [Tab.get, hi]
      · simp only [Tab.get, get_put_other d v hi t]

theorem get_del_other {α : Type} (d : α) {k i : Nat} (hi : i ≠ k) : ∀ t : Tab α, Tab.get d (Tab.del t k) i = Tab.get d t i
  | [] => rfl
  | (j, u) :: t => by
    simp only [Tab.del]
    split
    · next h => subst h; simp [Tab.get, hi]
    · simp only [Tab.get, get_del_other d hi t]

/-- A key below every listed one reads the default. -/
theorem get_below {α : Type} (d : α) : ∀ {t : Tab α} {lo k : Nat}, k < lo → Tab.risingFrom lo t = true → Tab.get d t k = d
  | [], _, _, _, _ => rfl
  | (j, u) :: t, lo, k, hk, ht => by
    simp only [Tab.risingFrom, Bool.and_eq_true, decide_eq_true_eq] at ht
    have : k ≠ j := by omega
    have hr := get_below d (k := k) (by omega) ht.2
    simp [Tab.get, this, hr]

theorem get_del_same {α : Type} (d : α) (k : Nat) : ∀ {t : Tab α} {lo : Nat}, Tab.risingFrom lo t = true →
    Tab.get d (Tab.del t k) k = d
  | [], _, _ => rfl
  | (j, u) :: t, lo, ht => by
    simp only [Tab.risingFrom, Bool.and_eq_true, decide_eq_true_eq] at ht
    simp only [Tab.del]
    split
    · next h => subst h; exact get_below d (Nat.lt_succ_self k) ht.2
    · next h => simp [Tab.get, h, get_del_same d k ht.2]

/-- A read after a write gives the value written. -/
theorem get_set_same {α : Type} [DecidableEq α] (d v : α) (k : Nat) {t : Tab α} (h : Tab.wf d t = true) :
    Tab.get d (Tab.set d t k v) k = v := by
  simp only [Tab.wf, Bool.and_eq_true] at h
  unfold Tab.set
  split
  · next hv => rw [hv, get_del_same d k h.1]
  · exact get_put_same d v k t

/-- A write leaves every other key alone. -/
theorem get_set_other {α : Type} [DecidableEq α] (d v : α) {k i : Nat} (hi : i ≠ k) (t : Tab α) :
    Tab.get d (Tab.set d t k v) i = Tab.get d t i := by
  unfold Tab.set
  split
  · exact get_del_other d hi t
  · exact get_put_other d v hi t

/-- Keeping some of the entries keeps the form. -/
theorem filter_rising {α : Type} (q : Nat × α → Bool) : ∀ {t : Tab α} {lo : Nat}, Tab.risingFrom lo t = true →
    Tab.risingFrom lo (t.filter q) = true
  | [], _, _ => rfl
  | (j, u) :: t, lo, ht => by
    simp only [Tab.risingFrom, Bool.and_eq_true, decide_eq_true_eq] at ht
    have ih := filter_rising q ht.2
    rw [List.filter_cons]
    split
    · simp only [Tab.risingFrom, Bool.and_eq_true, decide_eq_true_eq]; exact ⟨ht.1, ih⟩
    · exact risingFrom_mono (by omega) ih

theorem filter_wf {α : Type} [DecidableEq α] (d : α) (q : Nat × α → Bool) {t : Tab α} (h : Tab.wf d t = true) :
    Tab.wf d (t.filter q) = true := by
  simp only [Tab.wf, Bool.and_eq_true] at h ⊢
  refine ⟨filter_rising q h.1, ?_⟩
  rw [List.all_eq_true] at *
  intro e he
  exact h.2 e (List.mem_filter.mp he).1

/-! ## Memory -/

theorem memSet_wf {m : Tab Byte} (a : Nat) (b : Byte) (h : Memory.wf m = true) : Memory.wf (memSet m a b) = true :=
  set_wf 0 a b h

theorem memSets_wf : ∀ (l : List Byte) {m : Tab Byte} (a : Nat), Memory.wf m = true → Memory.wf (memSets m a l) = true
  | [], _, _, h => h
  | b :: t, _, a, h => memSets_wf t (a + 1) (memSet_wf a b h)

/-- Every memory write keeps the canonical form. -/
theorem wrByte_wf {s : State} (a : Nat) (b : Byte) (h : Memory.wf s.mem = true) : Memory.wf (wrByte s a b).mem = true :=
  memSet_wf a b h

theorem wrBytes_wf {s : State} (a : Nat) (l : List Byte) (h : Memory.wf s.mem = true) :
    Memory.wf (wrBytes s a l).mem = true := memSets_wf l a h

theorem wrWord_wf {s : State} (a : Nat) (v : Word) (h : Memory.wf s.mem = true) : Memory.wf (wrWord s a v).mem = true :=
  wrBytes_wf a _ h

theorem wrWords_wf : ∀ (l : List Word) {s : State} (a : Nat), Memory.wf s.mem = true → Memory.wf (wrWords s a l).mem = true
  | [], _, _, h => h
  | v :: t, _, a, h => wrWords_wf t (a + 4) (wrWord_wf a v h)

theorem wrDword_wf {s : State} (a v : Nat) (h : Memory.wf s.mem = true) : Memory.wf (wrDword s a v).mem = true :=
  wrBytes_wf a _ h

/-- Reset's memory lists nothing. -/
theorem reset_mem_wf : Memory.wf State.reset.mem = true := rfl

theorem rdByte_wrByte_same {s : State} (a : Nat) (b : Byte) (h : Memory.wf s.mem = true) :
    rdByte (wrByte s a b) a = b := get_set_same 0 b a h

theorem rdByte_wrByte_other (s : State) {a i : Nat} (b : Byte) (hi : i ≠ a) : rdByte (wrByte s a b) i = rdByte s i :=
  get_set_other 0 b hi s.mem

/-- A write of bytes leaves every byte outside them alone. -/
theorem memSets_other : ∀ (l : List Byte) (m : Tab Byte) (a i : Nat), (i < a ∨ a + l.length ≤ i) →
    Tab.get 0 (memSets m a l) i = Tab.get 0 m i
  | [], _, _, _, _ => rfl
  | b :: t, m, a, i, hi => by
    simp only [List.length_cons] at hi
    simp only [memSets]
    rw [memSets_other t _ (a + 1) i (by omega), memSet, get_set_other 0 b (by omega)]

theorem rdByte_wrBytes_other (s : State) (a i : Nat) (l : List Byte) (hi : i < a ∨ a + l.length ≤ i) :
    rdByte (wrBytes s a l) i = rdByte s i := memSets_other l s.mem a i hi

/-- Updates that change memory only: the rest of the state. -/
theorem wrBytes_frame (s : State) (a : Nat) (l : List Byte) :
    wrBytes s a l = { s with mem := (wrBytes s a l).mem } := rfl

theorem wrWord_frame (s : State) (a : Nat) (v : Word) : wrWord s a v = { s with mem := (wrWord s a v).mem } := rfl

theorem wrWords_frame : ∀ (l : List Word) (s : State) (a : Nat), wrWords s a l = { s with mem := (wrWords s a l).mem }
  | [], _, _ => rfl
  | v :: t, s, a => by
    simp only [wrWords]
    rw [wrWords_frame t (wrWord s a v) (a + 4)]
    rfl

/-- Setting full-empty bits changes nothing else. -/
theorem setFulls_frame (v : Bool) : ∀ (n : Nat) (s : State) (a : Nat), setFulls s a v n = { s with full := (setFulls s a v n).full }
  | 0, _, _ => rfl
  | n + 1, s, a => by
    simp only [setFulls]
    rw [setFulls_frame v n (setFull s a v) (a + 4)]
    rfl

theorem clearPoison_frame : ∀ (n : Nat) (s : State) (a : Nat), clearPoison s a n = { s with poison := (clearPoison s a n).poison }
  | 0, _, _ => rfl
  | n + 1, s, a => by
    simp only [clearPoison]
    rw [clearPoison_frame n _ (a + 4)]

end Sys2Proof.Laws
end

