-- ==== Sys2Proof/Laws/PerInstr.lean ====
section
/-! SUPPORT. Statements made of every instruction as syntax. WordSize: an instruction that has a word has one of the
size of its kind, 2, 4 or 8 bytes; the others (packets and unit events) have none. -/
namespace Sys2Proof.Laws.WordSize

def Statement (i : Instr) : Prop :=
  match encode i with
  | none => True
  | some (k, bs) => bs.length = k.size

theorem hcall (w : OpA) : Statement (.hcall w) := by trivial
theorem hret (w : OpA) : Statement (.hret w) := by trivial
theorem add (w : OpA) : Statement (.add w) := by trivial
theorem sub (w : OpA) : Statement (.sub w) := by trivial
theorem adds (w : OpA) : Statement (.adds w) := by trivial
theorem neg (w : OpA) : Statement (.neg w) := by trivial
theorem abs (w : OpA) : Statement (.abs w) := by trivial
theorem minOp (w : OpA) : Statement (.minOp w) := by trivial
theorem maxOp (w : OpA) : Statement (.maxOp w) := by trivial
theorem mul (w : OpA) : Statement (.mul w) := by trivial
theorem mulh (w : OpA) : Statement (.mulh w) := by trivial
theorem mula (w : OpA) : Statement (.mula w) := by trivial
theorem div (w : OpA) : Statement (.div w) := by trivial
theorem rem (w : OpA) : Statement (.rem w) := by trivial
theorem andOp (w : OpA) : Statement (.andOp w) := by trivial
theorem orOp (w : OpA) : Statement (.orOp w) := by trivial
theorem xorOp (w : OpA) : Statement (.xorOp w) := by trivial
theorem notOp (w : OpA) : Statement (.notOp w) := by trivial
theorem andn (w : OpA) : Statement (.andn w) := by trivial
theorem orn (w : OpA) : Statement (.orn w) := by trivial
theorem shl (w : OpA) : Statement (.shl w) := by trivial
theorem shr (w : OpA) : Statement (.shr w) := by trivial
theorem sar (w : OpA) : Statement (.sar w) := by trivial
theorem rol (w : OpA) : Statement (.rol w) := by trivial
theorem ror (w : OpA) : Statement (.ror w) := by trivial
theorem bfx (w : OpA) : Statement (.bfx w) := by trivial
theorem bfi (w : OpA) : Statement (.bfi w) := by trivial
theorem brev (w : OpA) : Statement (.brev w) := by trivial
theorem clz (w : OpA) : Statement (.clz w) := by trivial
theorem ctz (w : OpA) : Statement (.ctz w) := by trivial
theorem popc (w : OpA) : Statement (.popc w) := by trivial
theorem bswap (w : OpA) : Statement (.bswap w) := by trivial
theorem cmpeq (w : OpA) : Statement (.cmpeq w) := by trivial
theorem cmpne (w : OpA) : Statement (.cmpne w) := by trivial
theorem cmplt (w : OpA) : Statement (.cmplt w) := by trivial
theorem cmple (w : OpA) : Statement (.cmple w) := by trivial
theorem cmpgt (w : OpA) : Statement (.cmpgt w) := by trivial
theorem cmpge (w : OpA) : Statement (.cmpge w) := by trivial
theorem sel (w : OpA) : Statement (.sel w) := by trivial
theorem clamp (w : OpA) : Statement (.clamp w) := by trivial
theorem movi (w : OpW) : Statement (.movi w) := by trivial
theorem addi (w : OpW) : Statement (.addi w) := by trivial
theorem andi (w : OpW) : Statement (.andi w) := by trivial
theorem ori (w : OpW) : Statement (.ori w) := by trivial
theorem xori (w : OpW) : Statement (.xori w) := by trivial
theorem cmplti (w : OpW) : Statement (.cmplti w) := by trivial
theorem fan (w : OpA) : Statement (.fan w) := by trivial
theorem steer (w : OpA) : Statement (.steer w) := by trivial
theorem gate (w : OpA) : Statement (.gate w) := by trivial
theorem merge (w : OpA) : Statement (.merge w) := by trivial
theorem carry (w : OpA) : Statement (.carry w) := by trivial
theorem invar (w : OpA) : Statement (.invar w) := by trivial
theorem sort2 (w : OpA) : Statement (.sort2 w) := by trivial
theorem sink (w : OpA) : Statement (.sink w) := by trivial
theorem ctr (w : OpA) : Statement (.ctr w) := by trivial
theorem iter (w : OpA) : Statement (.iter w) := by trivial
theorem permit (w : OpA) : Statement (.permit w) := by trivial
theorem stopgen (w : OpA) : Statement (.stopgen w) := by trivial
theorem cntstop (w : OpA) : Statement (.cntstop w) := by trivial
theorem stoplvl (w : OpA) : Statement (.stoplvl w) := by trivial
theorem acc (w : OpA) : Statement (.acc w) := by trivial
theorem accmin (w : OpA) : Statement (.accmin w) := by trivial
theorem accmax (w : OpA) : Statement (.accmax w) := by trivial
theorem acccnt (w : OpA) : Statement (.acccnt w) := by trivial
theorem exitOp (w : OpA) : Statement (.exitOp w) := by trivial
theorem exitsel (w : OpA) : Statement (.exitsel w) := by trivial
theorem fadd (w : OpA) : Statement (.fadd w) := by trivial
theorem fsub (w : OpA) : Statement (.fsub w) := by trivial
theorem fmul (w : OpA) : Statement (.fmul w) := by trivial
theorem ffma (w : OpA) : Statement (.ffma w) := by trivial
theorem ffms (w : OpA) : Statement (.ffms w) := by trivial
theorem fmin (w : OpA) : Statement (.fmin w) := by trivial
theorem fmax (w : OpA) : Statement (.fmax w) := by trivial
theorem fabs (w : OpA) : Statement (.fabs w) := by trivial
theorem fneg (w : OpA) : Statement (.fneg w) := by trivial
theorem frcp (w : OpA) : Statement (.frcp w) := by trivial
theorem frsq (w : OpA) : Statement (.frsq w) := by trivial
theorem fsqrt (w : OpA) : Statement (.fsqrt w) := by trivial
theorem fcmpeq (w : OpA) : Statement (.fcmpeq w) := by trivial
theorem fcmpne (w : OpA) : Statement (.fcmpne w) := by trivial
theorem fcmplt (w : OpA) : Statement (.fcmplt w) := by trivial
theorem fcmple (w : OpA) : Statement (.fcmple w) := by trivial
theorem fcmpun (w : OpA) : Statement (.fcmpun w) := by trivial
theorem fclass (w : OpA) : Statement (.fclass w) := by trivial
theorem fcvt (w : OpA) : Statement (.fcvt w) := by trivial
theorem icvt (w : OpA) : Statement (.icvt w) := by trivial
theorem ftoi (w : OpA) : Statement (.ftoi w) := by trivial
theorem frnd (w : OpA) : Statement (.frnd w) := by trivial
theorem vaddmin (w : OpA) : Statement (.vaddmin w) := by trivial
theorem vminidx (w : OpA) : Statement (.vminidx w) := by trivial
theorem vmaxidx (w : OpA) : Statement (.vmaxidx w) := by trivial
theorem vlsh (w : OpA) : Statement (.vlsh w) := by trivial
theorem vlsr (w : OpA) : Statement (.vlsr w) := by trivial
theorem vperm (w : OpA) : Statement (.vperm w) := by trivial
theorem vbcast (w : OpA) : Statement (.vbcast w) := by trivial
theorem vextr (w : OpA) : Statement (.vextr w) := by trivial
theorem vins (w : OpA) : Statement (.vins w) := by trivial
theorem vpack (w : OpA) : Statement (.vpack w) := by trivial
theorem vunpk (w : OpA) : Statement (.vunpk w) := by trivial
theorem vred (w : OpA) : Statement (.vred w) := by trivial
theorem vscan (w : OpA) : Statement (.vscan w) := by trivial
theorem vdot4 (w : OpA) : Statement (.vdot4 w) := by trivial
theorem cmul (w : OpA) : Statement (.cmul w) := by trivial
theorem cmac (w : OpA) : Statement (.cmac w) := by trivial
theorem cconj (w : OpA) : Statement (.cconj w) := by trivial
theorem cmulj (w : OpA) : Statement (.cmulj w) := by trivial
theorem cmag2 (w : OpA) : Statement (.cmag2 w) := by trivial
theorem maxabs (w : OpA) : Statement (.maxabs w) := by trivial
theorem bfpenc (w : OpA) : Statement (.bfpenc w) := by trivial
theorem bfpdec (w : OpA) : Statement (.bfpdec w) := by trivial
theorem planesplit (w : OpA) : Statement (.planesplit w) := by trivial
theorem planejoin (w : OpA) : Statement (.planejoin w) := by trivial
theorem isect (w : OpA) : Statement (.isect w) := by trivial
theorem union (w : OpA) : Statement (.union w) := by trivial
theorem ldc (w : OpA) : Statement (.ldc w) := by trivial
theorem stc (w : OpA) : Statement (.stc w) := by trivial
theorem stcr (w : OpA) : Statement (.stcr w) := by trivial
theorem ldcf (w : OpA) : Statement (.ldcf w) := by trivial
theorem clreCell (w : OpA) : Statement (.clreCell w) := by trivial
theorem lds (w : OpA) : Statement (.lds w) := by trivial
theorem sts (w : OpA) : Statement (.sts w) := by trivial
theorem ldsf (w : OpA) : Statement (.ldsf w) := by trivial
theorem clreSbuf (w : OpA) : Statement (.clreSbuf w) := by trivial
theorem ldg (w : OpA) : Statement (.ldg w) := by trivial
theorem stg (w : OpA) : Statement (.stg w) := by trivial
theorem syrd (w : OpA) : Statement (.syrd w) := by trivial
theorem sywr (w : OpA) : Statement (.sywr w) := by trivial
theorem stream (w : OpA) : Statement (.stream w) := by trivial
theorem copy (w : OpA) : Statement (.copy w) := by trivial
theorem ctradd (w : OpA) : Statement (.ctradd w) := by trivial
theorem waitge (w : OpA) : Statement (.waitge w) := by trivial
theorem ctrrd (w : OpA) : Statement (.ctrrd w) := by trivial
theorem qpush (w : OpA) : Statement (.qpush w) := by trivial
theorem qpop (w : OpA) : Statement (.qpop w) := by trivial
theorem qcount (w : OpA) : Statement (.qcount w) := by trivial
theorem own (w : OpA) : Statement (.own w) := by trivial
theorem atadd (w : OpA) : Statement (.atadd w) := by trivial
theorem atmin (w : OpA) : Statement (.atmin w) := by trivial
theorem atmax (w : OpA) : Statement (.atmax w) := by trivial
theorem atand (w : OpA) : Statement (.atand w) := by trivial
theorem ator (w : OpA) : Statement (.ator w) := by trivial
theorem atxor (w : OpA) : Statement (.atxor w) := by trivial
theorem atxchg (w : OpA) : Statement (.atxchg w) := by trivial
theorem atcas (w : OpA) : Statement (.atcas w) := by trivial
theorem atfadd (w : OpA) : Statement (.atfadd w) := by trivial
theorem atfrd (w : OpA) : Statement (.atfrd w) := by trivial
theorem join (w : OpA) : Statement (.join w) := by trivial
theorem gjoin (w : OpA) : Statement (.gjoin w) := by trivial
theorem gleave (w : OpA) : Statement (.gleave w) := by trivial
theorem garrive (w : OpA) : Statement (.garrive w) := by trivial
theorem gdrop (w : OpA) : Statement (.gdrop w) := by trivial
theorem gwait (w : OpA) : Statement (.gwait w) := by trivial
theorem fenceI (w : OpA) : Statement (.fenceI w) := by trivial
theorem fenceD (w : OpA) : Statement (.fenceD w) := by trivial
theorem fenceP (w : OpA) : Statement (.fenceP w) := by trivial
theorem fenceS (w : OpA) : Statement (.fenceS w) := by trivial
theorem time (w : OpA) : Statement (.time w) := by trivial
theorem slotrd (w : OpA) : Statement (.slotrd w) := by trivial
theorem trap (w : OpA) : Statement (.trap w) := by trivial
theorem tcpyin (w : OpA) : Statement (.tcpyin w) := by trivial
theorem tcpyout (w : OpA) : Statement (.tcpyout w) := by trivial
theorem xlate (w : OpA) : Statement (.xlate w) := by trivial
theorem rdlvl (w : OpA) : Statement (.rdlvl w) := by trivial
theorem qpPass (a : BitVec 4) (i : BitVec 7) : Statement (.qpPass a i) := by trivial
theorem qpSkip (a : BitVec 4) (i : BitVec 7) : Statement (.qpSkip a i) := by trivial
theorem qpFail (a : BitVec 4) (i : BitVec 7) : Statement (.qpFail a i) := by trivial
theorem qpLdi (a : BitVec 4) (i : BitVec 7) : Statement (.qpLdi a i) := by trivial
theorem qpMov (a b : BitVec 4) : Statement (.qpMov a b) := by trivial
theorem qpAdd (a b : BitVec 4) : Statement (.qpAdd a b) := by trivial
theorem qpSub (a b : BitVec 4) : Statement (.qpSub a b) := by trivial
theorem qpAnd (a b : BitVec 4) : Statement (.qpAnd a b) := by trivial
theorem qpOr (a b : BitVec 4) : Statement (.qpOr a b) := by trivial
theorem qpXor (a b : BitVec 4) : Statement (.qpXor a b) := by trivial
theorem qpShl (a b : BitVec 4) : Statement (.qpShl a b) := by trivial
theorem qpShr (a b : BitVec 4) : Statement (.qpShr a b) := by trivial
theorem qpAddi (a : BitVec 4) (i : BitVec 7) : Statement (.qpAddi a i) := by trivial
theorem qpAndi (a : BitVec 4) (i : BitVec 7) : Statement (.qpAndi a i) := by trivial
theorem qpOri (a : BitVec 4) (i : BitVec 7) : Statement (.qpOri a i) := by trivial
theorem qpShli (a : BitVec 4) (i : BitVec 5) : Statement (.qpShli a i) := by trivial
theorem qpShri (a : BitVec 4) (i : BitVec 5) : Statement (.qpShri a i) := by trivial
theorem qpLdp (a b : BitVec 4) : Statement (.qpLdp a b) := by trivial
theorem qpStp (a b : BitVec 4) : Statement (.qpStp a b) := by trivial
theorem qpLdpi (a : BitVec 4) (i : BitVec 7) : Statement (.qpLdpi a i) := by trivial
theorem qpStpi (a : BitVec 4) (i : BitVec 7) : Statement (.qpStpi a i) := by trivial
theorem qpLdq (a b : BitVec 4) : Statement (.qpLdq a b) := by trivial
theorem qpStq (a b : BitVec 4) : Statement (.qpStq a b) := by trivial
theorem qpLdqi (a : BitVec 4) (i : BitVec 6) : Statement (.qpLdqi a i) := by trivial
theorem qpStqi (a : BitVec 4) (i : BitVec 6) : Statement (.qpStqi a i) := by trivial
theorem qpTeq (a b : BitVec 4) : Statement (.qpTeq a b) := by trivial
theorem qpTltu (a b : BitVec 4) : Statement (.qpTltu a b) := by trivial
theorem qpTeqi (a : BitVec 4) (i : BitVec 7) : Statement (.qpTeqi a i) := by trivial
theorem qpBrt (i : BitVec 7) : Statement (.qpBrt i) := by trivial
theorem qpBrf (i : BitVec 7) : Statement (.qpBrf i) := by trivial
theorem qpJmp (i : BitVec 7) : Statement (.qpJmp i) := by trivial
theorem qpLoopn (a : BitVec 4) (n : BitVec 7) : Statement (.qpLoopn a n) := by trivial
theorem mnop : Statement (.mnop) := by trivial
theorem mldw (ta : BitVec 4) (src : Bool) (port : BitVec 2) (row : BitVec 6) (wk pl : BitVec 3) (mid : Bool) : Statement (.mldw ta src port row wk pl mid) := by trivial
theorem mswap : Statement (.mswap) := by trivial
theorem mmul (ta td : BitVec 4) (row nr : BitVec 6) (z alt : Bool) : Statement (.mmul ta td row nr z alt) := by trivial
theorem macc (ta td : BitVec 4) (row nr : BitVec 6) (z alt : Bool) : Statement (.macc ta td row nr z alt) := by trivial
theorem mzero (td : BitVec 4) (row nr : BitVec 6) : Statement (.mzero td row nr) := by trivial
theorem mout (ta : BitVec 4) (dst : Bool) (pq : BitVec 2) (pidx : BitVec 3) (fmt : BitVec 5) (row : BitVec 6) (nr : BitVec 5) : Statement (.mout ta dst pq pidx fmt row nr) := by trivial
theorem mcvt (ta td : BitVec 4) (row : BitVec 6) (nr : BitVec 5) (sk : Bool) (df rm : BitVec 3) : Statement (.mcvt ta td row nr sk df rm) := by trivial
theorem mtrans (ta td : BitVec 4) (row drow : BitVec 6) (es : Bool) : Statement (.mtrans ta td row drow es) := by trivial
theorem mcopy (ta td : BitVec 4) (row nr drow : BitVec 6) : Statement (.mcopy ta td row nr drow) := by trivial
theorem mfill (td : BitVec 4) (row nr : BitVec 6) (pidx : BitVec 3) : Statement (.mfill td row nr pidx) := by trivial
theorem madd (ta tb td : BitVec 4) (row nr : BitVec 6) (kd : BitVec 2) : Statement (.madd ta tb td row nr kd) := by trivial
theorem mlda (td : BitVec 4) (port : BitVec 2) (row nr : BitVec 6) : Statement (.mlda td port row nr) := by trivial
theorem mmask (nact : BitVec 5) (kact : BitVec 7) : Statement (.mmask nact kact) := by trivial
theorem mact (ta td : BitVec 4) (row nr : BitVec 6) (fn : BitVec 3) (ki : Bool) : Statement (.mact ta td row nr fn ki) := by trivial
theorem mbfly (ta : BitVec 4) (nt rad : BitVec 2) (sc : BitVec 3) (inv : Bool) (pidx : BitVec 3) : Statement (.mbfly ta nt rad sc inv pidx) := by trivial
theorem mbrev (ta td : BitVec 4) (nt : BitVec 2) (pidx : BitVec 3) : Statement (.mbrev ta td nt pidx) := by trivial
theorem mtwid (td : BitVec 4) (nt : BitVec 2) (inv : Bool) (pidx : BitVec 3) : Statement (.mtwid td nt inv pidx) := by trivial
theorem mscale (ta : BitVec 4) (row nr : BitVec 6) (sh : BitVec 4) : Statement (.mscale ta row nr sh) := by trivial
theorem mbexpSet (ta : BitVec 4) (v : BitVec 8) : Statement (.mbexpSet ta v) := by trivial
theorem mbexpOut (ta : BitVec 4) (oport : BitVec 2) : Statement (.mbexpOut ta oport) := by trivial
theorem msatclr (ta : BitVec 4) : Statement (.msatclr ta) := by trivial
theorem mcmul (ta tb td : BitVec 4) (row nr : BitVec 6) (cj : Bool) : Statement (.mcmul ta tb td row nr cj) := by trivial
theorem mconj (ta td : BitVec 4) (row nr : BitVec 6) : Statement (.mconj ta td row nr) := by trivial
theorem spacc (td : BitVec 4) (pc pv : BitVec 2) (l : BitVec 3) : Statement (.spacc td pc pv l) := by trivial
theorem spzero (td : BitVec 4) : Statement (.spzero td) := by trivial
theorem spout (ta : BitVec 4) (oc ov : BitVec 2) (l : BitVec 3) (clr : Bool) : Statement (.spout ta oc ov l clr) := by trivial
theorem spmerge (ta td : BitVec 4) : Statement (.spmerge ta td) := by trivial
theorem msig (oport : BitVec 2) (k : Bool) (iport : BitVec 2) : Statement (.msig oport k iport) := by trivial
theorem nopPacket (p : Packet) : Statement (.nopPacket p) := by trivial
theorem launch (p : Packet) : Statement (.launch p) := by trivial
theorem preload (p : Packet) : Statement (.preload p) := by trivial
theorem copyPacket (p : Packet) : Statement (.copyPacket p) := by trivial
theorem signal (p : Packet) : Statement (.signal p) := by trivial
theorem waitgePacket (p : Packet) : Statement (.waitgePacket p) := by trivial
theorem callPacket (p : Packet) : Statement (.callPacket p) := by trivial
theorem returnPacket (p : Packet) : Statement (.returnPacket p) := by trivial
theorem lend (p : Packet) : Statement (.lend p) := by trivial
theorem reclaim (p : Packet) : Statement (.reclaim p) := by trivial
theorem steerPacket (p : Packet) : Statement (.steerPacket p) := by trivial
theorem fencePacket (p : Packet) : Statement (.fencePacket p) := by trivial
theorem waittime (p : Packet) : Statement (.waittime p) := by trivial
theorem mark (p : Packet) : Statement (.mark p) := by trivial
theorem packageReset (b : BootIn) : Statement (.packageReset b) := by trivial
theorem pkgrstGo (v : Word) (b : BootIn) : Statement (.pkgrstGo v b) := by trivial
theorem dierstGo (v : Word) : Statement (.dierstGo v) := by trivial
theorem dieResetDone (die : Nat) : Statement (.dieResetDone die) := by trivial
theorem avsCheck (die : Nat) (margin : Int) : Statement (.avsCheck die margin) := by trivial
theorem powerSample (watts : Nat) : Statement (.powerSample watts) := by trivial
theorem pwrOvercap : Statement (.pwrOvercap) := by trivial
theorem powerLimitLift : Statement (.powerLimitLift) := by trivial
theorem pwrcapWrite (l : Level) (v : Word) : Statement (.pwrcapWrite l v) := by trivial
theorem thermSample (die temp : Nat) : Statement (.thermSample die temp) := by trivial
theorem stripeSend (leg : Nat) : Statement (.stripeSend leg) := by trivial
theorem stripeReceive (hop : Nat) (err : List (Nat × Nat × BitVec 8)) : Statement (.stripeReceive hop err) := by trivial
theorem ackReceive (leg : Nat) : Statement (.ackReceive leg) := by trivial
theorem ackTimer (leg : Nat) : Statement (.ackTimer leg) := by trivial
theorem railRetrain (fin rail : Nat) (ok : Bool) : Statement (.railRetrain fin rail ok) := by trivial
theorem timeProbe (fin : Nat) : Statement (.timeProbe fin) := by trivial
theorem timeReply (fin : Nat) (trip turn : Nat) : Statement (.timeReply fin trip turn) := by trivial
theorem rerouteInstall (what : Reroute) (path : List Nat) : Statement (.rerouteInstall what path) := by trivial
theorem linkSeveredTimeout (leg : Nat) : Statement (.linkSeveredTimeout leg) := by trivial
theorem stqrelLookup (l : Level) (v : Word) : Statement (.stqrelLookup l v) := by trivial
theorem stqrelRelease (l : Level) (v : Word) : Statement (.stqrelRelease l v) := by trivial
theorem cmdLinkChange (port : Nat) (up : Bool) : Statement (.cmdLinkChange port up) := by trivial
theorem notePortSwitch : Statement (.notePortSwitch) := by trivial
theorem kcpFrameReceive (f : KcpFrame) : Statement (.kcpFrameReceive f) := by trivial
theorem kcpReassemblyTimeout (sess msgid : Nat) : Statement (.kcpReassemblyTimeout sess msgid) := by trivial
theorem hello : Statement (.hello) := by trivial
theorem confirm : Statement (.confirm) := by trivial
theorem close (dev : Option Nat) : Statement (.close dev) := by trivial
theorem sessionOpenTimeout (sess : Nat) : Statement (.sessionOpenTimeout sess) := by trivial
theorem sessionTimeout (sess : Nat) : Statement (.sessionTimeout sess) := by trivial
theorem kick : Statement (.kick) := by trivial
theorem regrd : Statement (.regrd) := by trivial
theorem regwr : Statement (.regwr) := by trivial
theorem stage : Statement (.stage) := by trivial
theorem attreq : Statement (.attreq) := by trivial
theorem doorbellWrite (fn off size : Nat) (v : Word) : Statement (.doorbellWrite fn off size v) := by trivial
theorem pcieLinkChange (up : Bool) (rate width : Nat) : Statement (.pcieLinkChange up rate width) := by trivial
theorem vfFlr (vf : Nat) : Statement (.vfFlr vf) := by trivial
theorem pfFlr : Statement (.pfFlr) := by trivial
theorem flrDone (fn : Nat) : Statement (.flrDone fn) := by trivial
theorem hostRequestTimeout (acc : Nat) : Statement (.hostRequestTimeout acc) := by trivial
theorem fhFrameReceive (f : FhFrame) : Statement (.fhFrameReceive f) := by trivial
theorem fhdlyreqGo (l : Level) (v : Word) : Statement (.fhdlyreqGo l v) := by trivial
theorem downlinkSend (entry : Nat) : Statement (.downlinkSend entry) := by trivial
theorem fhstcmdWrite (l : Level) (v : Word) : Statement (.fhstcmdWrite l v) := by trivial
theorem fhstcmdRead (l : Level) (v : Word) : Statement (.fhstcmdRead l v) := by trivial
theorem fhstcmdInvalidate (l : Level) (v : Word) : Statement (.fhstcmdInvalidate l v) := by trivial
theorem fhlpcfgWrite (l : Level) (lp : Nat) (v : Word) : Statement (.fhlpcfgWrite l lp v) := by trivial
theorem ptpMessage (lp : Nat) (m : List Byte) : Statement (.ptpMessage lp m) := by trivial
theorem esmcMessage (lp ql : Nat) : Statement (.esmcMessage lp ql) := by trivial
theorem timeLock (ptp : Nat) : Statement (.timeLock ptp) := by trivial
theorem timeHoldover (cause : Nat) : Statement (.timeHoldover cause) := by trivial
theorem timeSlewEnd : Statement (.timeSlewEnd) := by trivial
theorem queueEnable (l : Level) (q : Nat) (v : Word) : Statement (.queueEnable l q v) := by trivial
theorem queueDisable (l : Level) (q : Nat) (v : Word) : Statement (.queueDisable l q v) := by trivial
theorem qctlRetry (l : Level) (q : Nat) (v : Word) : Statement (.qctlRetry l q v) := by trivial
theorem qctlSkip (l : Level) (q : Nat) (v : Word) : Statement (.qctlSkip l q v) := by trivial
theorem qctlReset (l : Level) (q : Nat) (v : Word) : Statement (.qctlReset l q v) := by trivial
theorem qpwinWrite (l : Level) (q : Nat) (v : Word) : Statement (.qpwinWrite l q v) := by trivial
theorem qpctlLoad (l : Level) (q : Nat) (v : Word) : Statement (.qpctlLoad l q v) := by trivial
theorem packetParse (q : Nat) : Statement (.packetParse q) := by trivial
theorem waitgePacketTimeout (q : Nat) : Statement (.waitgePacketTimeout q) := by trivial
theorem eventRingEnable (l : Level) (e : Nat) (v : Word) : Statement (.eventRingEnable l e v) := by trivial
theorem eventRecordWrite (e : Nat) : Statement (.eventRecordWrite e) := by trivial
theorem eventRingRetry (e : Nat) : Statement (.eventRingRetry e) := by trivial
theorem fwctlStart (w : Writer) (v : Word) : Statement (.fwctlStart w v) := by trivial
theorem fwctlAbort (w : Writer) (v : Word) : Statement (.fwctlAbort w v) := by trivial
theorem fwctlReady (w : Writer) (v : Word) : Statement (.fwctlReady w v) := by trivial
theorem fwctlSerialised (w : Writer) (v : Word) : Statement (.fwctlSerialised w v) := by trivial
theorem fwctlDeltaDone (w : Writer) (v : Word) : Statement (.fwctlDeltaDone w v) := by trivial
theorem fwctlTakenOver (w : Writer) (v : Word) : Statement (.fwctlTakenOver w v) := by trivial
theorem fwctlReplayed (w : Writer) (v : Word) : Statement (.fwctlReplayed w v) := by trivial
theorem handoverBegin : Statement (.handoverBegin) := by trivial
theorem startTimeout : Statement (.startTimeout) := by trivial
theorem serialTimeout : Statement (.serialTimeout) := by trivial
theorem handoverTimeout : Statement (.handoverTimeout) := by trivial
theorem fallbackTimeout : Statement (.fallbackTimeout) := by trivial
theorem fwhbWrite (w : Writer) (v : Word) : Statement (.fwhbWrite w v) := by trivial
theorem heartbeatMiss : Statement (.heartbeatMiss) := by trivial
theorem commit : Statement (.commit) := by trivial
theorem hcqpop (l : Level) (v : Word) : Statement (.hcqpop l v) := by trivial
theorem allot (ticket : Nat) : Statement (.allot ticket) := by trivial
theorem release (ticket : Nat) : Statement (.release ticket) := by trivial
theorem ptmap (ticket : Nat) : Statement (.ptmap ticket) := by trivial
theorem ptunmap (ticket : Nat) : Statement (.ptunmap ticket) := by trivial
theorem pten (ticket : Nat) : Statement (.pten ticket) := by trivial
theorem sbwin (ticket : Nat) : Statement (.sbwin ticket) := by trivial
theorem islown (ticket : Nat) : Statement (.islown ticket) := by trivial
theorem parten (ticket : Nat) : Statement (.parten ticket) := by trivial
theorem keyload (ticket : Nat) : Statement (.keyload ticket) := by trivial
theorem keyclr (ticket : Nat) : Statement (.keyclr ticket) := by trivial
theorem slotClockEnable (l : Level) (c : Nat) (v : Word) : Statement (.slotClockEnable l c v) := by trivial
theorem schedulerSelect : Statement (.schedulerSelect) := by trivial
theorem contextLoadDone (load : Nat) : Statement (.contextLoadDone load) := by trivial
theorem contextSave (thread : Nat) : Statement (.contextSave thread) := by trivial
theorem loadWaitTimeout (load : Nat) : Statement (.loadWaitTimeout load) := by trivial
theorem deadlinePass (thread : Nat) : Statement (.deadlinePass thread) := by trivial
theorem arbiterWindow (isl cell : Nat) : Statement (.arbiterWindow isl cell) := by trivial
theorem tokenAccept (n : Nat) (fails : Nat) : Statement (.tokenAccept n fails) := by trivial
theorem frameCommit (thread : Nat) : Statement (.frameCommit thread) := by trivial
theorem escapeVisit (die : Nat) : Statement (.escapeVisit die) := by trivial
theorem ctrBoundArrival (isl slot unit : Nat) : Statement (.ctrBoundArrival isl slot unit) := by trivial
theorem permitReturn (isl slot unit : Nat) : Statement (.permitReturn isl slot unit) := by trivial
theorem ownerUpdateApply (isl slot cell vc : Nat) : Statement (.ownerUpdateApply isl slot cell vc) := by trivial
theorem spillRefill (isl slot idx : Nat) : Statement (.spillRefill isl slot idx) := by trivial
theorem streamElement (die ag : Nat) : Statement (.streamElement die ag) := by trivial
theorem copyUnit (die ce : Nat) : Statement (.copyUnit die ce) := by trivial
theorem copyResume (die ce : Nat) : Statement (.copyResume die ce) := by trivial
theorem accessComplete (id : Nat) (ecc : Ecc) : Statement (.accessComplete id ecc) := by trivial
theorem fullEmptyWake (id : Nat) : Statement (.fullEmptyWake id) := by trivial
theorem waitgeWake (id : Nat) : Statement (.waitgeWake id) := by trivial
theorem gwaitWake (id : Nat) : Statement (.gwaitWake id) := by trivial
theorem tlbinvGo (l : Level) (v : Word) : Statement (.tlbinvGo l v) := by trivial
theorem tlbinvComplete : Statement (.tlbinvComplete) := by trivial
theorem faultPark (thread : Nat) : Statement (.faultPark thread) := by trivial
theorem threadStop (thread : Nat) : Statement (.threadStop thread) := by trivial
theorem fltpop (l : Level) (v : Word) : Statement (.fltpop l v) := by trivial
theorem faultResume (l : Level) (v : Word) : Statement (.faultResume l v) := by trivial
theorem faultTerminate (l : Level) (v : Word) : Statement (.faultTerminate l v) := by trivial
theorem shadowMove (die row : Nat) : Statement (.shadowMove die row) := by trivial
theorem cellReplay (cell : Nat) (r : ReplayIn) : Statement (.cellReplay cell r) := by trivial
theorem cellMigration (cell : Nat) (r : MigrateIn) : Statement (.cellMigration cell r) := by trivial
theorem suspDecay (cell : Nat) : Statement (.suspDecay cell) := by trivial
theorem relcfgWrite (l : Level) (die : Nat) (v : Word) : Statement (.relcfgWrite l die v) := by trivial
theorem sysRegisterWrite (l : Level) (addr : Nat) (v : Word) : Statement (.sysRegisterWrite l addr v) := by trivial
theorem engineHandlerDispatch (isl e : Nat) : Statement (.engineHandlerDispatch isl e) := by trivial
theorem streamSpecAccept (die ag : Nat) : Statement (.streamSpecAccept die ag) := by trivial
theorem copyRequestStart (die ce : Nat) : Statement (.copyRequestStart die ce) := by trivial
theorem fhLinkTraining (port : Nat) (up : Bool) : Statement (.fhLinkTraining port up) := by trivial
theorem functionBind (part fn : Nat) : Statement (.functionBind part fn) := by trivial
theorem ptpMessageSend (lp : Nat) (m : PtpSend) : Statement (.ptpMessageSend lp m) := by trivial
theorem esmcMessageSend (lp ql : Nat) : Statement (.esmcMessageSend lp ql) := by trivial

end Sys2Proof.Laws.WordSize
end

