-- ==== Sys2Proof/Tests/Slice0.lean ====
section
/-! SUPPORT. Small tests: well-formedness refuses an ill-formed term for each check, decoding of words written out from
the spec's encodings, and one state for the hypotheses of each statement. -/
namespace Sys2Proof.Tests
open Sys2Proof.Machine Sys2Proof.Claims

/-! ## Well-formedness (R330, R343, R344, R442, R98) -/

theorem test_wf_ok : (Instr.add { ib := true, imm := 7, t0 := .operand .a 9 }).wf = true := by decide
theorem test_wf_type : (Instr.bfx {}).wf = true ∧ (Instr.bfx { ty := .vi16 }).wf = false := by decide
theorem test_wf_ib : (Instr.neg { ib := true }).wf = false := by decide
theorem test_wf_pred : (Instr.steer { pred := .ifNonzero }).wf = false := by decide
theorem test_wf_mm : (Instr.neg { mm := .trunc }).wf = false ∧ (Instr.cmul { mm := .pad }).wf = false := by decide
theorem test_wf_mod : (Instr.minOp { md := 1 }).wf = false ∧ (Instr.fadd { ty := .f32, md := 5 }).wf = false := by decide
theorem test_wf_imm : (Instr.carry { imm := 8 }).wf = false ∧ (Instr.add { imm := 1 }).wf = false := by decide
theorem test_wf_part : (Instr.fcvt { ty := .f32, imm := 0x29 }).wf = false := by decide
theorem test_wf_targets : (Instr.exitOp { t0 := .operand .a 1 }).wf = false ∧ (Instr.add { t0 := .exit 1 }).wf = false := by
  decide
theorem test_wf_same_operand :
    (Instr.add { t0 := .operand .a 1, t1 := .operand .a 1 }).wf = false := by decide
theorem test_wf_wide : (Instr.movi { ty := .vi16 }).wf = false ∧ (Instr.movi { mm := .pad }).wf = false := by decide
theorem test_wf_tile_copy : (Instr.tcpyin { imm := 0x7FF0 }).wf = false := by decide
theorem test_wf_micro_rows : (Instr.mzero 1 63 1).wf = false ∧ (Instr.mzero 1 63 0).wf = true := by decide
theorem test_wf_micro_tiles : (Instr.mbrev 1 2 1 0).wf = false ∧ (Instr.mbfly 15 1 0 0 false 0).wf = false := by decide
theorem test_wf_micro_port : (Instr.mlda 0 0 0 0).wf = false ∧ (Instr.spacc 0 0 1 1).wf = false := by decide
theorem test_wf_micro_codes : (Instr.mact 0 0 0 0 2 false).wf = false ∧ (Instr.madd 0 0 0 0 0 3).wf = false := by decide
theorem test_wf_bytecode : (Instr.qpLdi 15 0).wf = false ∧ (Instr.qpStpi 0 0).wf = false ∧ (Instr.qpLoopn 0 0).wf = false := by
  decide

/-! ## Decoding: words of the spec's encodings and examples -/

theorem test_decode_invar : decodeTableWord 64 0x0950081000000001 = some (.invar { t0 := .operand .a 4, imm := 1 }) := by decide
theorem test_decode_micro_out : decodeTableWord 32 0x18888000 = some (.mout 2 false 1 0 16 0 0) := by decide
theorem test_decode_micro_butterfly : decodeTableWord 32 0x40821000 = some (.mbfly 2 0 0 4 false 2) := by decide
theorem test_decode_micro_reverse : decodeTableWord 32 0x44480000 = some (.mbrev 1 2 0 0) := by decide
theorem test_decode_micro_exponent : decodeTableWord 32 0x50B00000 = some (.mbexpOut 2 2) := by decide
theorem test_decode_bytecode_pass : decodeTableWord 16 0 = some (.qpPass 0 0) := by decide
theorem test_decode_bytecode_shift : decodeTableWord 16 0x8098 = some (.qpShri 1 24) := by decide
theorem test_decode_bytecode_test : decodeTableWord 16 0xD881 = some (.qpTeqi 1 1) := by decide
theorem test_decode_bytecode_reserved : decodeTableWord 16 0x78A0 = none := by decide

/-! ## One step: results of the spec's worked examples -/

def tk (v : Nat) : Tok := { data := BitVec.ofNat 256 v }
def st (l : Nat) : Tok := { stop := l }

/-- Slot c0.0 of island 0 executes; buffer key 0 is a, 1 b, 2 c, 3 p; `fmts` their format records. -/
def op (bufs : Tab (List Tok)) (fmts : Tab Nat := []) (words : Tab Word := []) : State :=
  { ctxs := [(0, { st := .active, thread := some 0, bufs := bufs, fmts := fmts, opst := words })] }

/-- Keep k0 of the executing cell after a step whose outputs have passed the check stage. -/
def k0After (i : Instr) (s : State) : Option Word :=
  match exec i s with
  | .next t => some (keepOf (curCtx (passCell t 0 0)) 0 0)
  | _ => none

/-- The data of the token in flight `n` after a step. -/
def tokAfter (i : Instr) (s : State) (n : Nat) : Option (BitVec 256) :=
  match exec i s with
  | .next t => t.flights[n]?.map (fun f => f.tok.data)
  | _ => none

def k : OpA := { t0 := .keep 0 }
def o : OpA := { t0 := .operand .a 1, t1 := .operand .b 1 }
def ab (x y : Nat) (f : Nat := 0) : State := op [(0, [tk x]), (1, [tk y])] [(0, f), (1, f)]

-- R363: -7 by 2, -7 by 0, and 7 by 0 in n32
theorem test_div : k0After (.div k) (ab 0xFFFFFFF9 2 3) = some 0xFFFFFFFD := by decide
theorem test_rem_by_zero : k0After (.rem k) (ab 0xFFFFFFF9 0 3) = some 0xFFFFFFF9 := by decide
theorem test_div_by_zero : k0After (.div k) (ab 7 0 6) = some 0xFFFFFFFF := by decide
-- R362
theorem test_adds : tokAfter (.adds o) (ab 0xFFFFFFF0 0x40 6) 0 = some 0x30 ∧ tokAfter (.adds o) (ab 0xFFFFFFF0 0x40 6) 1 = some 1 := by
  decide
-- R366
theorem test_bfx : k0After (.bfx { k with ib := true, imm := 0x4A8 }) (op [(0, [tk 0x3F00])]) = some 0xFFFFFFFF := by decide
theorem test_brev : k0After (.brev k) (ab 6 3) = some 3 := by decide
-- R367
theorem test_cmplt : k0After (.cmplt { k with ib := true, imm := 1 }) (ab 0xFFFFFFFF 0 3) = some 1 ∧
    k0After (.cmplt { k with ib := true, imm := 1 }) (ab 0xFFFFFFFF 0 6) = some 0 := by decide

/-- Two beats of a vector. -/
def vt (v : Nat) : List Tok := [{ data := BitVec.ofNat 256 v, kind := .vector }, { data := BitVec.ofNat 256 (v / 2 ^ 256), kind := .vector }]

/-- The low `n` bits of the first token that leaves. -/
def lowAfter (i : Instr) (s : State) (n : Nat) : Option Nat := (tokAfter i s 0).map (fun d => d.toNat % 2 ^ n)

-- R389: one rounding in f16
theorem test_ffma : lowAfter (.ffma { o with ty := .vf16 })
    (op [(0, vt 0x3C01), (1, vt 0x3BFF), (2, vt 0xBC00)] [(0, 0x8009), (1, 0x8009), (2, 0x8009)]) 16 = some 0x0FFE := by decide
-- R392: 300, 460, 470 and -2^-10 to e4m3
theorem test_fcvt : lowAfter (.fcvt { o with ty := .vf32, imm := 0x0B })
    (op [(0, vt 0xBA80000043EB000043E6000043960000)] [(0, 0x8008)]) 32 = some 0x807F7E79 := by decide
-- R399: ties to even
theorem test_cmul : lowAfter (.cmul o) (op [(0, [tk 0x40004000]), (1, [tk 0x7FFF0000])] [(0, 16), (1, 16)]) 32 =
    some 0x4000C000 := by decide
-- R402: the group (1600, -24), (300, 0), (0, 0), (-5, 7) with MW 9
theorem test_bfpenc : lowAfter (.bfpenc { o with imm := 9 })
    (op [(0, vt 0x0007FFFB000000000000012CFFE80640)] [(0, 0x8010)]) 128 = some 0x0080FF800000000000001300FE806400 := by decide

/-! ## Witnesses: one state and operands for the hypotheses of each statement -/

def s2 : State := ab 2 3
def abc : State := op [(0, [tk 2]), (1, [tk 3]), (2, [tk 4])]
def a2 : State := op [(0, [tk 2])]
def aStop (l : Nat) : State := op [(0, [st l])]

/-- A context of a thread at level S with one route: VC 0 of cell 0 to generator 0's specification port. -/
def cx (bufs : Tab (List Tok)) (fmts : Tab Nat := []) (words : Tab Word := []) (b : Block := {}) : State :=
  { ctxs := [(0, { st := .active, thread := some 0, bufs := bufs, fmts := fmts, opst := words,
                   block := { b with routes := [3], cells := [{ cell := 0, wbase := 0, wlen := 1, keeps := [], scales := [] }] } })],
    sched := { threads := [(0, { st := .running, level := 1, slots := [(0, 0)] })] } }

/-- The same on the holm island, whose addresses are physical. -/
def holm (bufs : Tab (List Tok)) : State :=
  { cur := { isl := 260 }, ctxs := [(2080, { st := .active, bufs := bufs })] }

theorem witness_pair : (insOf s2).a = .data 2 ∧ dataB {} (insOf s2) 3 ∧ predOn {} (insOf s2) ∧ mayFire s2 = true ∧
    room s2 .none .none (toBoth (.sc 5)) = true :=
  ⟨by decide, fun _ => by decide, .inl rfl, by decide, by decide⟩

theorem witness_alignment :
    ((insOf (ab 0 0)).p = .empty ∧ (insOf (op [(0, [st 1]), (1, [st 1])])).a = .stop 1 ∧
      stopB {} (insOf (op [(0, [st 1]), (1, [st 1])])) 1 ∧ predStop {} (insOf (op [(0, [st 1]), (1, [st 1])])) 1) ∧
    (predOff { pred := .ifNonzero } (insOf (op [(0, [tk 2]), (1, [tk 3]), (3, [tk 0])]))) ∧
    ((insOf (op [(0, [tk 2]), (1, [st 1])])).b = .stop 1 ∧ (insOf (op [(0, [st 1]), (1, [tk 2])])).b = .data 2 ∧
      (insOf (op [(0, [st 1]), (1, [st 2])])).b = .stop 2) :=
  ⟨⟨by decide, by decide, fun _ => by decide, .inl rfl⟩, ⟨by decide, 0, by decide, by decide⟩, by decide⟩

/-- Stops under three operands, of one level and unlike ones, and under a predicate. -/
theorem witness_alignment_three :
    (let i := insOf (op [(0, [st 1]), (1, [st 1]), (2, [st 1])]); i.a = .stop 1 ∧ i.b = .stop 1 ∧ i.c = .stop 1) ∧
    (let i := insOf (op [(0, [st 1]), (1, [st 2]), (2, [st 1])]); i.a = .stop 1 ∧ i.b = .stop 2 ∧ i.c = .stop 1) ∧
    (let i := insOf (op [(0, [st 2]), (1, [st 1]), (2, [st 1])]); i.a = .stop 2 ∧ i.b = .stop 1 ∧ i.c = .stop 1) ∧
    (let i := insOf (op [(0, [st 1]), (3, [st 1])]); i.a = .stop 1 ∧ i.p = .stop 1) := by decide

theorem witness_three : (insOf abc).a = .data 2 ∧ dataB {} (insOf abc) 3 ∧ (insOf abc).c = .data 4 ∧ predOn {} (insOf abc) ∧
    mayFire abc = true ∧ room abc .none .none (toBoth (.sc 5)) = true :=
  ⟨by decide, fun _ => by decide, by decide, .inl rfl, by decide, by decide⟩

theorem witness_wide : (insOf a2).a = .data 2 ∧ (insOf (aStop 1)).a = .stop 1 ∧ mayFire a2 = true ∧ mayFire (aStop 1) = true := by
  decide

theorem witness_flow :
    ((insOf abc).c = .data 4 ∧ decScalar (insOf abc).fc 4 ≠ 0 ∧ decScalar (insOf (op [(2, [tk 0])])).fc 0 = 0) ∧
    ((insOf (op [(0, [st 1]), (1, [st 1]), (2, [st 1])])).c = .stop 1) ∧
    ((insOf abc).st.getD 0 0).toNat % 2 = 0 ∧ ((insOf (op [(1, [tk 3]), (2, [st 1])] [] [(0, 1)])).st.getD 0 0).toNat % 2 = 1 ∧
    ((insOf (op [(0, [st 2]), (2, [st 2])])).a = .stop 2 ∧ (insOf (op [(0, [st 1]), (2, [st 2])])).a = .stop 1) ∧
    (insOf (op [(2, [tk 1])])).a = .empty ∧ (let i := insOf (op [(0, [tk 2]), (1, [st 1])]); i.a = .data 2 ∧ i.b = .stop 1) ∧
    (let i := insOf (op [(0, [st 1]), (2, [tk 1])]); i.c = .data 1 ∧ decScalar i.fc 1 ≠ 0 ∧ i.a = .stop 1) ∧
    (let i := insOf (op [(0, [st 1]), (2, [st 2])]); i.c = .stop 2 ∧ i.a = .stop 1) ∧ (Instr.invar { imm := 7 }).wf = true ∧ (Instr.sink { imm := 8 }).wf = true ∧
    (Instr.sink {}).wf = true := by decide

theorem witness_loops :
    ((insOf (op [])).st.getD 0 0).toNat % 2 = 0 ∧
    (((insOf (op [] [] [(0, 3), (2, 2), (3, 2)])).st.getD 3 0).toNat < ((insOf (op [] [] [(0, 3), (2, 2), (3, 2)])).st.getD 0 0).toNat) ∧
    (((insOf (op [] [] [(0, 3), (2, 2), (3, 3)])).st.getD 0 0).toNat ≤ ((insOf (op [] [] [(0, 3), (2, 2), (3, 3)])).st.getD 3 0).toNat) ∧
    (((insOf (op [(0, [tk 1])] [] [(1, 1), (2, 1)])).st.getD 2 0).toNat = 1 ∧ 0 < ((insOf (op [(0, [tk 1])] [] [(1, 1), (2, 1)])).st.getD 1 0).toNat) ∧
    (((insOf a2).st.getD 0 0).toNat = 0 ∧ 0 < ((insOf (op [(0, [tk 1])] [] [(0, 1)])).st.getD 0 0).toNat) ∧
    ((9 : BitVec 16).toNat / 8 % 2 = 1 ∧ (insOf (aStop 6)).a = .stop 6) ∧
    (insOf (aStop 7)).a = .stop 7 ∧ 7 < 7 + (9 : BitVec 16).toNat % 8 := by decide

/-- CTR with a bound of 0, with none, and with one that arrived in this cycle (first or over another). -/
def boundCtr (words : Tab Word) (early : Tab (Nat × Option Word)) : State :=
  let s := op [(0, [tk 1])] [] words
  { s with ctxs := s.ctxs.map (fun e => (e.1, { e.2 with early := early })) }
theorem witness_loop_bounds :
    (let i := insOf (boundCtr [(2, 1)] []); i.early = none ∧ (i.st.getD 2 0).toNat = 1 ∧ (i.st.getD 1 0).toNat = 0 ∧ i.a = .data 1) ∧
    (let i := insOf (boundCtr [(0, 4)] []); i.early = none ∧ (i.st.getD 2 0).toNat = 0 ∧ 0 < (i.st.getD 0 0).toNat) ∧
    (insOf (boundCtr [(0, 4), (2, 1)] [(0, (1, none))])).early = some none ∧
    (insOf (boundCtr [(2, 1)] [(0, (1, some 6))])).early = some (some 6) ∧
    (let i := insOf (aStop 2); (i.st.getD 2 0).toNat / 2 % 2 = 0 ∧ i.a = .stop 2 ∧ (i.st.getD 0 0).toNat ≠ (0x10 : Nat) / 8) := by decide

/-- CTR with BOUND at c0.0 and a token on c; PERMIT at c0.1 with k = 1 and a permit on b. -/
def bound : State := cx [(2, [tk 5]), (5, [tk 0])] [] [] { insts := [0x0A00080901800041, 0x0A20080800000001] }
theorem witness_bounds : Tab.wf {} bound.ctxs = true ∧ Tab.wf 0 (ctxAt bound 0 0).opst = true ∧ (ctxAt bound 0 0).st = .active ∧
    decodeOp ((ctxAt bound 0 0).block.insts.getD 0 0).toNat =
      .ok (.ctr { t0 := .operand .a 2, t1 := .operand .a 3, imm := 0x41 }) ∧
    operandIn (ctxAt bound 0 0) 0 0 2 = .data 5 ∧
    decodeOp ((ctxAt bound 0 0).block.insts.getD 1 0).toNat = .ok (.permit { t0 := .operand .a 2, imm := 1 }) ∧
    operandIn (ctxAt bound 0 0) 0 1 1 = .data 0 ∧ (opWord (ctxAt bound 0 0) 1 0).toNat ≠ 1 :=
  ⟨by decide, by decide, by decide, rfl, by decide, rfl, by decide, by decide⟩

theorem witness_accumulate :
    (insOf a2).a = .data 2 ∧ tyFloat (OpA.ty {}) = false ∧ tyFloat .f32 = true ∧ (insOf (aStop 1)).a = .stop 1 ∧
    ((insOf (aStop 2)).st.getD 1 0).toNat % 2 = 0 ∧ ((insOf (op [(0, [st 2])] [] [(1, 1)])).st.getD 1 0).toNat % 2 = 1 := by decide

theorem witness_vector :
    (insOf (op [(0, vt 1)] [(0, 0x8002)])).a = .data 1 ∧ (128 : BitVec 16).toNat / 128 % 2 = 1 ∧
    (insOf (op [(0, vt 1), (1, vt 2), (2, vt 3)] [(0, 0x8002), (1, 0x8002), (2, 0x8002)])).c = .data 3 ∧
    tyFloat .vi8 = false ∧ tyFloat .vf16 = true := by decide

theorem witness_complex :
    fmtFMT (insOf (op [(0, [tk 1]), (1, [tk 1])] [(0, 16), (1, 16)])).fa ≠ 17 ∧
    fmtFMT (insOf (op [(0, [tk 1]), (1, [tk 1])] [(0, 17), (1, 17)])).fa = 17 ∧
    (insOf (op [(0, [tk 1]), (1, [tk 1])] [(0, 17), (1, 17)])).b = .data 1 := by decide

theorem witness_planes :
    (insOf (op [(0, vt 1)] [(0, 0x8001)] [(0, 3)])).a = .data 1 ∧
    ((insOf (op [(1, vt 1)] [(1, 0x8004)] [(0, 4)])).st.getD 0 0).toNat = 4 ∧
    beatsOf (curCtx (op [(0, vt 1)] [(0, 0x8114)] [(0, 2)])) 0 0 = vt 1 ∧
    (fmtPL (insOf (op [(0, vt 1)] [(0, 0x8114)] [(0, 2)])).fa = 8) ∧
    ((insOf (op [] [(0, 0x8034)] [(0, 3)])).st.getD 0 0).toNat = 2 + fmtPL (insOf (op [] [(0, 0x8034)] [(0, 3)])).fa := by decide

theorem witness_firing : Tab.wf {} (cx []).ctxs = true ∧ Tab.wf 0 (curCtx (cx [])).opst = true ∧ Tab.wf 0 (curCtx (cx [])).keeps = true ∧
    vcDest (cx []) (curCtx (cx [])) 0 0 0 = some (.gen 0 0 0) ∧ heldBack (cx []) 0 0 3584 256 = false ∧
    heldBack (cx []) 0 0 4 0 = false := by decide

/-- A firing in the check stage of cell 0 that writes keep 2 and names exit 1. -/
def staged : State :=
  let s := modCtx (cx []) 0 0 (fun c => { c with exen := 2 })
  { s with chks := [{ tag := 5, isl := 0, slot := 0, cell := 0, k := 0, firing := 0, cycle := 0, exit := some 1, keeps := [(2, 7)] }] }

theorem witness_check_stage : heldInReset staged = false ∧ cellFailed staged 0 0 = false ∧
    ((unchecked staged 0 0).map (fun r => (r.keeps, r.push.isNone, r.exit))) = [([(2, 7)], true, some 1)] ∧
    Tab.wf {} staged.ctxs = true ∧ Tab.wf 0 (ctxAt staged 0 0).keeps = true ∧ (ctxAt staged 0 0).exen.testBit 1 = true ∧
    (ctxAt staged 0 0).thread = some 0 ∧ Tab.wf {} staged.sched.threads = true ∧ (threadAt staged 0).exit = none ∧
    keepOf (ctxAt (passOldest staged 0 0) 0 0) 0 2 = 7 ∧ (threadAt (passOldest staged 0 0) 0).exit = some 1 := by decide

/-! ### Memory, synchronisation, privileged forms -/

theorem witness_bank : cellOk (cx [(0, [tk 63])]) 0 63 1 ∧ (insOf (cx [(0, [tk 63]), (1, [tk 9])])).b = .data 9 ∧
    mayFire (cx [(0, [tk 63])]) = true ∧ outstanding (cx [(0, [tk 63])]) 0 0 < 16 := by
  unfold cellOk; decide
theorem witness_bank_fault : (2 : Int) % 16 ≠ 0 ∧ (64 : Int) % 1 = 0 ∧ (winLen (curCtx (cx [(0, [tk 64])])) 0 : Int) < 64 + 1 ∧
    (insOf (cx [(0, [tk 64])])).a = .data 64 ∧ slotPending (cx [(0, [tk 64])]) = false ∧
    predOff { pred := .ifZero } (insOf (op [(0, [tk 1]), (3, [tk 1])])) :=
  ⟨by decide, by decide, by decide, by decide, by decide, by decide, 1, by decide, by decide⟩
theorem witness_sbuf : sbufOk (cx [(0, [tk 64])]) 64 1 true ∧ sbufOk (cx [(0, [tk 0x7FFFFFC])]) 0x7FFFFFC 1 false ∧
    (insOf (cx [(0, [tk 64])])).a = .data 64 ∧ mayFire (cx [(0, [tk 64])]) = true := by
  unfold sbufOk; decide
theorem witness_glob : (insOf (holm [(0, [tk 64]), (2, [tk 0])])).c = .data 0 ∧
    translateCell (holm [(0, [tk 64])]) 260 (curCtx (holm [(0, [tk 64])])) 64 .read = (.ok 64 false, holm [(0, [tk 64])]) ∧
    (translateCell (holm []) 260 (curCtx (holm [])) (2 ^ 40) .read).1 = .fault 0x9001 (xDetail 0 .read false) ∧
    mayFire (holm [(0, [tk 64])]) = true ∧ storeGiven { ib := true } (holm []) 0 0 :=
  ⟨by decide, rfl, rfl, by decide, fun h => by simp at h⟩
theorem witness_sys : levelOf (cx []) 0 (curCtx (cx [])) ≠ 0 ∧ levelOf s2 0 (curCtx s2) = 0 ∧
    (insOf (cx [(0, [tk 0x10])])).a = .data 0x10 ∧ mayFire (cx []) = true := by decide
theorem witness_counter : (0x04000100 : Nat).testBit 63 = false ∧ ctrReserved 0x04000100 = false ∧
    sbufOk (cx []) 0x04000100 2 true ∧ sbufOk (cx []) 0x04000100 2 false ∧ ctrReserved (2 ^ 53) = true ∧
    (insOf (cx [(0, [tk 0x04000100]), (2, [tk 0])])).a = .data 0x04000100 := by
  unfold sbufOk; decide
theorem witness_request : groupBusy (cx [(0, [tk 1])]) { t0 := .vc 0 } = false ∧ (insOf (cx [(0, [tk 1])])).a = .data 1 ∧
    ((insOf (cx [(0, [tk 1])] [] [(12, 11)])).st.getD 12 0).toNat + 1 = 12 ∧
    ((insOf (cx [(0, [tk 1])] [] [(12, 10)])).st.getD 12 0).toNat + 1 < 12 ∧
    vcDest (cx [(0, [tk 1])]) (curCtx (cx [(0, [tk 1])])) 0 0 0 = some (.gen 0 0 0) ∧
    room (cx [(0, [tk 1])]) (.vc 0) .none [(false, .sc 0), (true, .sc 0)] = true := by decide

/-- A spill queue of cell 0: VC 0 feeds its QPUSH at c0.0, entries of one word; c0.1 is its QPOP. -/
def spill (q : SpillQ) (bufs : Tab (List Tok)) (k : Nat) (words : Tab Word := []) : State :=
  { cx [] with
    ctxs := [(0, { st := .active, thread := some 0, bufs := bufs, opst := words, spills := [(0, q)],
                   block := { vcs := [0], spills := [(0x28200, 0)],
                              cells := [{ cell := 0, wbase := 0, wlen := 1, keeps := [], scales := [] }] } })],
    cur := { k := k } }
theorem witness_spill :
    pushDesc (curCtx (spill {} [(512, [tk 7])] 0)) 0 0 = some 0 ∧ (insOf (spill {} [(512, [tk 7])] 0)).a = .data 7 ∧
    spW (descAt (curCtx (spill {} [] 0)) 0) ≤ ((insOf (spill {} [] 0)).st.getD 8 0).toNat + 1 ∧
    spillRoom (descAt (curCtx (spill {} [] 0)) 0) {} 0 (pushesHeld (spill {} [] 0) 0 0 0) = true ∧
    spillRoom (descAt (curCtx (spill {} [] 0)) 0) {} 0 1000 = false ∧
    readCheck (spill { nr := 1, rtag := [0] } [] 1) (residentKey (spill { nr := 1, rtag := [0] } [] 1) 0 0 (0x28200, 0) 0) 1 =
      (.good, spill { nr := 1, rtag := [0] } [] 1) ∧
    (insOf (spill {} [(512, [{ stop := 1, src := 512 }])] 0)).a = .stop 1 ∧ mayFire (spill {} [] 0) = true ∧
    popDesc (curCtx (spill { nr := 1, rtag := [0] } [] 1)) 0 1 = some 0 ∧
    spillAt (curCtx (spill { nr := 1, rtag := [2] } [] 1)) 0 = { nr := 1, rtag := [2] } ∧
    ((insOf (spill {} [] 1 [(16, 1)])).st.getD 0 0).toNat ≠ 0 ∧ Tab.wf {} (curCtx (spill { rtail := 1 } [] 1)).spills = true ∧
    ringCount { rtail := 1 } ≠ 0 := by decide

/-- OWN at c0.0 whose operand c takes VC 0, with the range 0 to 15, fired once; c0.1 is free. -/
def owner (bufs : Tab (List Tok)) : State :=
  { cx [] with
    ctxs := [(0, { st := .active, thread := some 0, bufs := bufs, opst := [(1, 16), (14, 1)],
                   block := { insts := [0x47000000004001E0], vcs := [0x2000],
                              cells := [{ cell := 0, wbase := 0, wlen := 1, keeps := [], scales := [] }] } })] }
theorem witness_owner :
    ownFault 64 (insOf (cx [(0, [tk 0])])).st 0 64 = none ∧ ownFault 64 (insOf (cx [(0, [tk 1])])).st 1 64 = some (0x9011, 1) ∧
    0 ∈ ownSlots (curCtx (owner [])) 0 ∧ ownReady (curCtx (owner [])) 0 = true ∧ ownHolder (curCtx (owner [])) 0 15 1 = some 0 ∧
    arcSlot (curCtx (owner [])) 0 0 = 0 ∧ (vcsOf (curCtx (owner [])) 0 0 2).map vcVc = [0] ∧
    bufFull (curCtx (owner [(512, [tk 0x400F, tk 3])])) 0 512 = [tk 0x400F, tk 3] ∧
    cellFailed (owner []) 0 0 = false ∧
    readCheck (owner []) (winKey (owner []) 0 0 (curCtx (owner [])) 0 15) 1 = (.good, owner []) ∧ (updOf 0x400F).addr = 15 ∧ (updOf 0x400F).sub = 1 ∧ (updOf 0x400F).e = false ∧ (updOf 0x400F).rpl = false := by decide
theorem witness_group : predOn {} (insOf a2) ∧ (insOf a2).a = .data 2 ∧ mayFire a2 = true ∧ outstanding a2 0 0 < 16 :=
  ⟨.inl rfl, by decide, by decide, by decide⟩
theorem witness_trap : predOff { pred := .ifNonzero } (insOf (op [(0, [tk 2]), (3, [tk 0])])) ∧
    slotPending (op [(0, [tk 2]), (3, [tk 0])]) = false := ⟨⟨by decide, 0, by decide, by decide⟩, by decide⟩
theorem witness_tile_copy : (32 : Nat) % 32 = 0 ∧ 32 + 32 * (bitsOf (0 : Nat) 14 10 + 1) ≤ winLen (curCtx (cx [(0, [tk 32])])) 0 ∧
    winLen (curCtx (cx [(0, [tk 64])])) 0 < 64 + 32 * (bitsOf (0 : Nat) 14 10 + 1) ∧ (insOf (cx [(0, [tk 32])])).a = .data 32 := by decide
/-- c0.0 and c0.1 feed the JOIN at c0.2. -/
def joined : State :=
  { cx [] with ctxs := [(0, { st := .active, thread := some 0, bufs := [(8, [{ tk 1 with src := 0 }, { tk 10 with src := 2 }])],
                              block := { insts := [0x0100080800000000, 0x0100080800000000, 0x4800000000000002] } })],
               cur := { k := 2 } }
theorem witness_join : (joinArcs (curCtx joined) 2).map (fun a => presents false (arcToks (curCtx joined) 0 a)) =
    [.data 1, .data 10] ∧ mayFire joined = true ∧ groupBusy joined {} = false ∧ room joined .none .none [(true, .sc 0)] = true := by decide
/-- c0.0 to c1.0 feed the JOIN of nine arcs at c1.1. -/
def joined9 : State :=
  { cx [] with ctxs := [(0, { st := .active, thread := some 0, bufs := [(36, (List.range 9).map (fun i => { tk i with src := 2 * i }))],
                              block := { insts := List.replicate 9 0x0100082400000000 ++ [0x4800084000000009] } })],
               cur := { cell := 1, k := 1 } }
theorem witness_wide_join : let w : OpA := { t0 := .operand .a 16, imm := 9 }
    let outs := (List.range 9).map (fun i => (false, OutV.sc i)) ++ [(true, .sc 0)]
    (joinArcs (curCtx joined9) 9).map (fun a => presents false (arcToks (curCtx joined9) 1 a)) = (List.range 9).map Inp.data ∧
    mayFire joined9 = true ∧ groupBusy joined9 w = false ∧ targetPlace joined9 0 0 1 w.t0 = some 64 ∧ canSend joined9 w.t0 w.t1 outs = true ∧
    room joined9 w.t0 w.t1 outs = false ∧ room joined9 w.t0 w.t1 [(false, .sc 0), (true, .sc 0)] = true := by decide
theorem witness_privileged :
    (insOf (cx [(0, [tk 64]), (2, [tk 0])])).c = .data 0 ∧ levelOf (holm []) 260 (curCtx (holm [])) = 2 ∧
    levelOf (cx []) 0 (curCtx (cx [])) = 1 ∧ levelOf s2 0 (curCtx s2) = 0 ∧ notActive (holm []) 260 = false ∧
    (holm []).fw.calls.length + callsOnWay (holm []) < 64 ∧
    (hcallBlock (holm []) 260 (curCtx (holm [])) 64).1 = .ok (rdWords (holm []) 64 16) ∧ mayFire (holm []) = true :=
  ⟨by decide, by decide, by decide, by decide, by decide, by decide, rfl, by decide⟩
/-- A holm call on its way. -/
def calling : State :=
  { holm [] with accs := [{ id := 0, site := { isl := 260 }, thread := 0, firing := 0, kind := .hcall, space := .sys, addr := 3, va := 64, n := 1 }] }
theorem witness_call : (accAt calling 0).map (fun a => (a.kind, a.phase, reaches calling a 8)) = some (.hcall, .issued, true) ∧
    (match (hcallBlock calling 260 (ctxAt calling 260 0) 64).1 with | .ok ws => ws.length | _ => 0) = 16 ∧
    (match exec (.accessComplete 0 .ok) calling with | .next t => t.fw.calls.map (fun c => c.call) | _ => []) = [3] := by decide
theorem test_hret_waits_for_check :
    (match exec (.hret { imm := 5 }) (holm [(0, [tk 7])]) with | .next t => t.chks.map (fun r => r.ret) | _ => []) = [some (5, 7)] := by
  decide

/-! ### Bytecodes, engines, packets -/

/-- Queue 0 runs a program of one bytecode over a packet of two payload words. -/
def prog (r : QRun) : State :=
  { queues := [(0, { en := true, st := .run, plen := 1, pi := 3, run := some r, pkt := some { hdr := 0x204, ws := [7, 8] } })] }
theorem witness_bytecode : (queueAt (prog { steps := 255 }) 0).run = some { steps := 255 } ∧ (255 : Nat) < 256 ∧ 256 ≤ 256 ∧
    (queueAt (prog {}) 0).pkt = some { hdr := 0x204, ws := [7, 8] } ∧ Tab.wf {} (prog {}).queues = true ∧
    Tab.wf {} (prog {}).rings = true ∧ (Packet.mk 0x204 [7, 8]).count = 2 ∧
    ((QRun.regs { regs := [(1, 2)] }).get 0 1).toNat ≤ 2 ∧ 2 < ((QRun.regs { regs := [(1, 3)] }).get 0 1).toNat ∧
    63 < ((QRun.regs { regs := [(1, 64)] }).get 0 1).toNat := by decide

/-- Engine 0 of island 0 works for thread 0. -/
def eng (g : EngCtx) (bufs : Tab (List Tok) := []) : State :=
  { cx [] with
    ctxs := [(0, { st := .active, thread := some 0, bufs := bufs, eng := [(0, { g with busy := true })],
                   block := { cells := [{ cell := 0, wbase := 0, wlen := 1, keeps := [], scales := [] }] } })] }
theorem witness_engine : engMay (eng {}) = true ∧ (engAt (curCtx (eng {})) 0).busy = true ∧
    dV (engAt (curCtx (eng { act := { desc := 0x2000000 } })) 0).act.desc.toNat = true ∧
    outRoom (eng {}) 1 4 = true ∧ portView (eng {} [(1153, [st 2])]) 1 = [st 2] := by decide
theorem witness_engine_ports :
    ((portView (claimTiles (eng {} [(1153, vt 1 ++ vt 2)]) [1]) 1).take 4).length = 4 ∧
    ((portView (claimTiles (eng {} [(1153, [st 1])]) [1]) 1).take 4) = [st 1] ∧
    (0 + 32 * (0 + 1) ≤ winLen (curCtx (claimTiles (eng {}) [1])) (quadCell 0 0)) ∧
    portView (claimTiles (eng {} [(1153, [tk 1919]), (1154, [tk 9])]) [1]) 1 = [tk 1919] ∧
    outRoom2 (eng {}) 1 2 = true ∧ (spCols (claimTiles (eng {}) [1]) 1)[0]? = none := by decide +kernel
/-- Column 5 of the engine's tile 1 holds 7. -/
def sparse : State := spAdd (claimTiles (eng {}) [1]) 1 5 7
theorem witness_sparse : spOcc (claimTiles sparse [1]) 1 5 = true ∧ spVal (claimTiles sparse [1]) 1 5 = 7 ∧
    (spCols (claimTiles sparse [1]) 1)[0]? = some 5 := by decide +kernel
theorem witness_butterfly :
    facList 9 0 = some [2, 2] ∧ [2, 2].prod ≤ 2048 * (0 + 1) ∧
    ((0x4004 : Nat) / 2 ^ 27 = 0 ∧ (0x4004 : Nat) % 2 ^ 14 = 4 ∧ bitsOf 0x4004 26 14 = 1 ∧ 4 % (1 * radixOf 0) = 0) ∧
    (2048 : Nat) % 2 ^ 14 ≤ 2048 * (0 + 1) ∧ (engAt (curCtx (eng { pass2 := true })) 0).pass2 = true := by decide
/-- Tag 5 of engine 0 has a handler of one MNOP, and its header stands at the command port. -/
def dispatch : State :=
  { cx [] with ctxs := [(0, { st := .active, thread := some 0, bufs := [(1152, [tk 5])],
                              block := { hnds := [{ eng := 0, tag := 5, words := [0] }] } })] }
theorem witness_dispatch : Tab.wf {} dispatch.ctxs = true ∧ Tab.wf {} (ctxAt dispatch 0 0).eng = true ∧
    engSlot dispatch 0 0 = some 0 ∧ engMay dispatch = true ∧ (engAt (ctxAt dispatch 0 0) 0).busy = false ∧
    bufOf (ctxAt dispatch 0 0) (engKey 0 0) = [tk 5] ∧
    handlerOf (ctxAt dispatch 0 0) 0 5 = some { eng := 0, tag := 5, words := [0] } := by decide

/-- Queue 0 of partition 0 at level S with a turn for its parsed packet. -/
def turn (x : Queue := {}) : State := { queues := [(0, { x with en := true, level := 1, st := .run, pi := 16 })] }
def pk (hdr : Nat) (ws : List Nat) : Packet := { hdr := BitVec.ofNat 32 hdr, ws := ws.map (BitVec.ofNat 32) }
theorem witness_packet : PacketReady (turn) (pk 0x10D [5]) 1 ∧ mayIssue (turn) (queueAt (turn) 0) = true ∧
    (pk 0x20D [5, 6]).count ≠ 1 ∧ mayIssue { queues := [(0, { en := true, st := .fault })] } (queueAt { queues := [(0, { en := true, st := .fault })] } 0) = false ∧
    leaveBufs (queueAt (turn) 0).stack = [] ∧ (queueAt (turn) 0).nextPkt ∉ (queueAt (turn) 0).pend ∧ Tab.wf {} (turn).queues = true := by
  refine ⟨⟨by decide, by decide, .inl (by decide)⟩, by decide, by decide, by decide, by decide, by decide, by decide⟩
theorem witness_front_end :
    ctrBadWord (pw64 (pk 0x504 [0x100, 0, 1, 0, 0]) 0) = none ∧
    (ctrAt (turn) 0 1 0x100 .rmw).1 = .key (sbufBase + 0x100) ∧ (rdDword (turn) (sbufBase + 0x100)).testBit 63 = false ∧
    (queueAt (turn { pend := [1] }) 0).pend ≠ [] ∧
    (leaveBufs [BufPos.mk 0 2 1, ⟨0, 2, 1⟩, ⟨0, 2, 1⟩, ⟨0, 2, 1⟩]).length = 4 ∧ vaHighBad (pk 0x306 [8, 0, 1]) 1 = false ∧
    resolveSym { (turn) with sched := { clocks := [(0, { en := true, len := 100 })] } } 0 3 0 0 = some 300 ∧
    clockOf (turn) 0 = 0 := by decide
theorem witness_launch :
    firstBad (badEntry (pk 0xD01 [8, 0, 1, 1, 1, 0x10103, 0, 0, 0, 0, 0, 0, 0]) ++ [(5, badShape 0x10103)]) = none ∧
    badClass (turn) (queueAt (turn) 0) 3 = false ∧ freeThread (turn) = some 0 ∧
    partThreads (turn) 0 < (ptcfgAt (turn) 0).maxthr ∧ PacketReady (turn) (pk 0xD01 [8, 0, 1, 1, 1, 0x10103, 0, 0, 0, 0, 0, 0, 0]) 13 :=
  ⟨by decide, by decide, by decide +kernel, by decide, by decide, by decide, .inl (by decide)⟩
theorem witness_units :
    (0, 0) ∈ origins 8 ∧ copyBad (pk 0x903 [0x4000000, 0, 0, 0, 64, 0, 0, 0, 0]) = none ∧
    ((ceAt (turn) 0).pendingQ.length < 16) ∧ steerRefused (turn) [0, 0, 0, 0, 0, 0, 0, 0] = true ∧
    maskIslands (pk 0x908 [1, 1, 0, 0, 0, 0, 0, 0, 0]) = [0] ∧ ownerOf (turn) 0 = 0 ∧ lentOf (turn) 0 = 0 := by decide

/-! ### Events -/

/-- A bulk context of partition 0 runs; `l` the limiting steps that have been taken. -/
def bulk (l : Tab Nat) : State :=
  { ctxs := [(0, { st := .active, thread := some 0, cls := 3 })], pkg := { limits := l }, sched := { threads := [(0, { st := .running, cls := 3 })] } }
theorem witness_package :
    overCap { pkg := { samples := [451], capw := 450 } } = true ∧ overCap { pkg := { samples := [450], capw := 450 } } = false ∧
    nextLimit (bulk []) = some 48 ∧ nextLimit {} = none ∧ nextLimit (bulk [(48, 7)]) = none ∧ lastLimit (bulk [(48, 1)]) = some 48 ∧ anyHot {} = false ∧ (dieAt {} 0).vddc < 680 ∧ (565 ≤ (dieAt {} 0).vddc) ∧
    (680 ≤ (dieAt { pkg := { dies := [(0, { vddc := 680 })] } } 0).vddc) ∧ (100 * [400].sum < 95 * 450 * [400].length) := by decide
theorem witness_held : heldInReset { pkg := { boot := .tripped } } = true ∧ heldInReset {} = false := by decide

/-- Leg 0 from FD0 to FD1 over S1 and S2, a record waiting. -/
def legS (g : Leg := {}) : State :=
  { straits := { legs := [(0, { g with src := 0, dst := 1, path := [2, 4], credit := 128, waiting := [tk 1] })] } }
theorem witness_strait :
    maySend (legS) (legAt (legS) 0) = true ∧ (packRecs 240 (recsOf false (legAt (legS) 0).waiting)).1 = [[tk 1]] ∧
    pathValid (legS) (Machine.posOf 0) (Machine.posOf 1) [2, 4] = true ∧ straitDown (legS) 1 = false ∧ (endAt (legS) 0).railOk = 31 ∧
    badStripe { leg := 0, kind := 0, rsnd := false, seq := 0, len := 240, src := 0, dst := 1 } = false ∧
    badStripe { leg := 0, kind := 0, rsnd := false, seq := 0, len := 241, src := 0, dst := 1 } = true ∧
    (32768 ≤ (40000 + 65536 - 0) % 65536) ∧ ((0 + 65536 - 65535) % 65536 < 32768) ∧
    (30 : Nat).testBit 0 = false ∧ endStrait 0 = 0 ∧ findQueue (legS) none 0 = none ∧
    lookQueue (legS) 0 0 = none ∧ (legAt (legS { pathOk := false }) 0).pathOk = false ∧ (∀ h ∈ [2, 4], h < 16) ∧
    (endAt { straits := { ends := [(0, { reply := some 4 })] } } 0).reply = some 4 ∧
    wireAt { straits := { wires := [(2, [{ leg := 0, kind := 0, rsnd := false, seq := 0, len := 0, src := 0, dst := 1 }])] } } 2 ≠ [] ∧
    (legS { owes := true, lastAccept := some 0 }).straits.legs.length = 1 := by decide
/-- IS0 and one strait of the ring are down: the IOD reaches FD0 only by another way. -/
def isDown : State := { straits := { ends := [(16, { railOk := 7 })] } }
theorem witness_reroute :
    (List.range 8).any (fun a => !pathOpen isDown a 8 && (List.range 24).any (fun h => (List.range 24).any (fun j =>
      pathValid isDown a 8 [h, j]))) = true := by decide +kernel
theorem witness_strait_cut :
    reachable { straits := { ends := (List.range 24).map (fun e => (e, { railOk := 7 })) } } (Machine.posOf 0) (Machine.posOf 1) = false ∧
    (threadAt (legS) 0).stop = none := by decide +kernel
theorem witness_leg_b :
    consumerActive (cx []) { thread := some 0, dest := some (.buf 0 0 512) } = true ∧
    consumerActive (cx []) { thread := some 1, dest := some (.buf 0 0 512) } = false ∧
    consumerActive (cx []) { thread := some 0, dest := some (.buf 0 1 512) } = false := by
  decide

/-- A booted package with session 3, level S, open; message `m` is complete. -/
def linked (m : List KcpMsg := []) (o : Bool := true) : State :=
  { pkg := { boot := .booted }, link := { up0 := true, sessions := [(3, { openS := o, level := .s })], msgs := m } }
def msg (typ : Nat) (b : List Byte) : KcpMsg := { port := 0, typ := typ, sess := 3, msgid := 1, frags := 1, parts := [(0, b)], since := 0 }
theorem witness_link :
    linkEnabled (linked) = true ∧ hasSess (linked) 3 = true ∧ openSess (linked) 3 = true ∧
    frameOk { port := 0, ver := 1, typ := 0x10, sess := 3, seq := 1, len := 1, frag := 0, frags := 1, msgid := 1, payload := [0], tag := [] } = true ∧
    seqOk (sessAt (linked) 3) 1 = true ∧ seqOk { map := [5], high := 5 } 5 = false ∧
    takeMsg (linked [msg 0x10 [0, 0, 0, 0, 0]]) 0x10 = some (msg 0x10 [0, 0, 0, 0, 0], linked) ∧
    (msgPayload (msg 0x10 [0, 0, 0, 0, 0])).length = 5 ∧ hOnlyAt (regAddr [8, 0x14, 0, 0, 0]) = true ∧
    hOnlyAt (regAddr [8, 0x10, 0, 0, 0]) = false ∧ (sessAt (linked [] false) 3).openS = false := by decide

theorem witness_host :
    fnLive { pcie := { up := true } } 0 = true ∧ fnOf { pcie := { up := true } } 0 = some 0 ∧
    (takeKicks 0 ({} : State)) = {} ∧ foreignVf { pcie := { up := true } } 0 0 = false ∧
    foreignVf { pcie := { up := true, vfEn := true } } 1 0 = true ∧ fnLive { pcie := { up := true, vfEn := true } } 1 = true ∧
    ((5 : Word) - 4).toNat = 1 ∧ ((2 ^ 31 : Word) - 0).toNat = 2 ^ 31 ∧
    accReads { id := 1, site := {}, thread := 0, firing := 0, kind := .load, space := .host, addr := 0, va := 0, n := 1 } = true := by
  decide

/-- Port 0 with a link; steering entry 0 is a downlink entry for its ring at SBUF address 0. -/
def port : State := { fh := { ports := [(0, { up := true, cfg := 2 })] } }
theorem witness_fronthaul :
    downFirst port 0 = true ∧ (PtpSend.mk false [0]).body.headD 0 = 0 ∧ ((1 : Byte).toNat % 16 = 1 ∧ (9 : Byte).toNat % 16 = 9) ∧
    portLive port 0 = true ∧ (lport port 0).cfg.toNat % 4 = 2 ∧ fhlpRefused port 4 1 = false ∧
    eV [3, 0, 0, 0, 0, 0, 0, 0] = true ∧ eDown [3, 0, 0, 0, 0, 0, 0, 0] = true ∧ ePlane [3, 0, 0, 0, 0, 0, 0, 0] = 0 ∧
    steerRefused { xl := { sbwin := [(0, 0x3FF)] } } [1, 0, 0xFFF000, 0x34000C00, 0, 0x100, 0, 0] = true ∧
    ((7 : Int) - (5 : Nat) ≠ 0) := by decide

theorem witness_queue :
    (ringAt { rings := [(0, { en := true })] } 0).en = true ∧
    ((10 : Nat) ≤ bitsOf 0x5001 15 11 ∧ bitsOf 0x5001 15 11 ≤ 24 ∧ (0x5001 : Nat).testBit 0 = true) ∧
    verify (readStaged [] 1) = none ∧ verify (readStaged [(0, 0x7FFF)] 1) ≠ none ∧
    wordsLeft { pi := 1 } ≠ 0 ∧ wordsLeft {} = 0 ∧ turnOf (turn) 0 = true ∧
    turnOf { queues := [(0, { en := true, st := .run, pi := 16 }), (1, { en := true, st := .run, pi := 16 })] } 1 = false ∧
    takesTurns (turn) 0 = true ∧
    (readPacket { mem := [] } { ahead := [0x10D] } 1).1.toOption = some [0x10D] ∧ (Packet.mk 0x10D []).count + 1 = 2 ∧
    (¬(({ code := 1, detail := [], time := 0, cycle := 0 } : Event).cycle = 1 ∧ 0 = 0)) ∧ fetchStopped (turn) (queueAt (turn) 0) = false ∧
    nextHeld {} = none := by decide

theorem witness_firmware :
    fwctlAllowed { fw := { lr := .verified } } .old 1 = true ∧ fwctlAllowed {} .old 1 = false ∧
    fwctlAllowed { fw := { lr := .starting } } .new 3 = true ∧ fwctlAllowed { fw := { lr := .serialising } } .old 4 = true ∧
    fwctlAllowed { fw := { lr := .handover, deltaDone := true } } .new 6 = true ∧
    fwctlAllowed { fw := { lr := .fallback } } .old 7 = true ∧ activeWriter { fw := { lr := .probation } } = .new ∧
    (clockAt { sched := { clocks := [(0, { en := true })] } } 0).en = true ∧ scIndex {} 0 = 0 ∧
    checkRecs {} [] (handPa + fullLen) (2 ^ 20) handPa = some ([], false) ∧
    checkRecs { mem := [(handPa, 1)] } [] (handPa + fullLen) (2 ^ 20) handPa = none ∧
    beatMissed { dtime := 5 } = false ∧ beatMissed { dtime := 10 * msec } = true ∧
    takeRecs [{ typ := 1, major := 1, minor := 0, required := true }]
      [⟨1, 1, 0, 5, false, true, 0, 16⟩, ⟨1, 1, 0, 5, true, true, 0, 32⟩, ⟨1, 1, 0, 6, false, true, 0, 48⟩, ⟨2, 1, 0, 6, false, true, 0, 64⟩] [] =
      [{ typ := 1, key := 6, pa := 48 }] ∧
    checkRecs {} [] (handPa + handLen) (2 ^ 15) (handPa + fullLen) = some ([], false) := by decide

def call (n : Nat) (args : List Nat) : HCall := { ticket := 1, call := n, space := 16, args := args.map (BitVec.ofNat 32), acc := none }
def called (n : Nat) (args : List Nat) : State := { fw := { opened := [call n args] } }
theorem witness_calls :
    openCall (called 1 [0, 0, 0, 8192, 0]) 1 1 = some (call 1 [0, 0, 0, 8192, 0]) ∧
    allotStatus (called 1 [0, 8192, 0, 8192, 0]) (call 1 [0, 8192, 0, 8192, 0]) = 0 ∧ rangeOk (call 1 [0, 0, 0, 0, 0]) = false ∧
    releaseStatus (called 2 [0, 8192, 0, 8192, 0]) (call 2 [0, 8192, 0, 8192, 0]) = 0 ∧
    leafOf {} 0 3 0 = none ∧ (rootOf {} 0).isSome = true ∧ sbwinRefused {} 1 0 1 = false ∧ foreignCtx {} 0 1 = false ∧
    holdsThread {} 1 = false ∧ logFull {} = false ∧ tlbInvReady { xl := { inv := 0x80000000#32 } } = true := by decide
theorem witness_ptmap :
    ptmapStatus { fw := { allots := [{ space := 0, host := false, base := 8192, len := 8192 }] } } (call 3 [0x60, 0, 0, 8192, 0]) = 0 ∧
    (mapPage {} 0 3 0 1).isSome = true := by decide +kernel

/-! ### Scheduling, streams, accesses, reliability, steps -/

theorem witness_scheduler :
    clockOk { len := 2 ^ 20, sym := (List.range 14).map (fun i => (i, 1000 * i)) } = true ∧ clockOk {} = false ∧
    waitingThreads {} = [] ∧ before { cls := 1, dl := 9 } { cls := 2 } = true ∧ saveable (cx []) 0 = false ∧
    loadGoes (cx []) { thread := some 0, part := 0, frame := 0, h := 1, w := 1, orow := 0, ocol := 0, slots := [], packet := none, since := 0 } = true ∧
    loadReaches (cx []) { thread := some 0, part := 0, frame := 0, h := 1, w := 1, orow := 0, ocol := 0, slots := [], packet := none, since := 0 } = true ∧
    loadSwitches (cx []) { thread := some 0, part := 0, frame := 0, h := 1, w := 1, orow := 0, ocol := 0, slots := [], packet := none, since := 0 } = false ∧
    unplaced { thread := some 0, part := 0, frame := 0, h := 1, w := 1, orow := 0, ocol := 0, slots := [], packet := none, since := 0 } = [(0, 0)] ∧
    (thRegion (threadAt (cx []) 0)).any (islFailing (cx [])) = false ∧
    unplaced { thread := some 0, part := 0, frame := 0, h := 1, w := 1, orow := 0, ocol := 0, slots := [(0, 0)], packet := none, since := 0 } = [] ∧
    (ctxAt (cx []) 0 0).since + 256 * ((ctxAt (cx []) 0 0).windows.get 0 0 + 1) ≤ 256 ∧
    entersCell { flights := [] } { dest := .buf 0 0 0, tok := tk 1, isl := 0, slot := 0, place := 0 } = some (0, 0) ∧
    nextPlace (cx []) { dest := .buf 0 0 512, tok := tk 1, isl := 0, slot := 0, place := 2048 } = some (0, 0, 512) ∧
    mayPut (cx []) 0 0 512 = true ∧ quiescent (cx []) 0 = true ∧ activeSlot (cx []) 0 = some 0 ∧
    headOf { flights := [{ dest := .buf 0 0 0, tok := tk 1, isl := 0, slot := 0, place := 0 }] } 0
      { dest := .buf 0 0 0, tok := tk 1, isl := 0, slot := 0, place := 0 } = true ∧
    oldBlocked {} 3 0 0 = [] := by decide
theorem witness_save_reads :
    readWins ((recSlots (cx []) 0).flatMap (fun x => (List.range 16).map (fun n => (x.1, x.2, n)))) (cx []) = (none, cx []) := by
  decide +kernel

/-- A PENDING bulk thread on an empty package whose island 0 alone is needed. -/
def pending : State := { sched := { threads := [(5, { st := .pending, cls := 3, h := 8, w := 32, level := 1 })] } }
theorem witness_placement : waitingThreads pending = [(5, threadAt pending 5)] ∧
    (placement pending 5 (threadAt pending 5) [] true).map (fun p => p.savers) = some [] ∧
    (placement pending 5 (threadAt pending 5) [] true).map (fun p => p.victims.any (fun u => replaying pending (threadAt pending u)) ||
      (regionOf 8 32 p.row p.col).any (islFailing pending)) = some false := by decide +kernel

/-- A token of a vertical switchbox waits 1,025 cycles for a full VC buffer. -/
def stuck : State :=
  { cx [(512, (List.range 64).map tk)] with
    flights := [{ dest := .buf 0 0 512, tok := tk 9, isl := 0, slot := 0, place := 2048, age := 1025 }] }
theorem witness_escape : oldest (oldBlocked stuck 0 0 0) = stuck.flights.head?.map (fun f => (0, f)) ∧
    itemOf stuck 0 { dest := .buf 0 0 512, tok := tk 9, isl := 0, slot := 0, place := 2048, age := 1025 } = some [0] ∧
    stuck.flights.length = 1 := by decide

/-- Generator 0 of die 0 has its request for four words of SBUF; its data port is bound for reads. -/
def specToks : List Tok := [1, 0, 64, 0, 4, 0, 0, 0, 4, 0, 0, 0].map tk
def gen (run : Option Stream := none) (w : Bool := false) (data : List Tok := []) : State :=
  let c := cx []
  { c with
    ctxs := c.ctxs.map (fun e => (e.1, { e.2 with block := { e.2.block with routes := [3, if w then 0x6003 else 0x2003] } })),
    gens := [(0, { thread := some 0, specQ := specToks, dataQ := data, run := run })] }
def words : List Word := specToks.map (fun x => BitVec.ofNat 32 x.data.toNat)
theorem witness_generator : specOk words = true ∧ specBound (gen) 0 0 0 words = true ∧ specOk (words.set 0 2) = false ∧
    (∀ x ∈ specToks, x.stop = 0) ∧ spMode words ≠ 1 ∧ lowDim words = 0 ∧ spElem words = 0 ∧ spWrite words = false ∧
    (elemKeys (gen) 0 0 0 words (elemAddr words 3)).1.toOption = some [sbufBase + 76] ∧
    (elemKeys (gen) 0 0 0 (words.set 2 2) (elemAddr (words.set 2 2) 0)).1.toOption = none ∧
    (unitHazards (gen) 0 0 0 (unitNo 0 0) [sbufBase + 64] 4 false []).toOption = some (gen) ∧
    (unitSend (gen) (some (.buf 0 0 512)) [scalarTok 5 []]).isSome = true ∧
    genMoves (gen (some { spec := words })) 0 0 0 ((gen (some { spec := words })).gens.get {} 0) { spec := words } = [.issue] ∧
    (({ spec := words, pipe := [{ keys := [sbufBase], left := [0] }] } : Stream).pipe[0]?).isSome = true ∧
    readCheck (gen) sbufBase 1 = (.good, gen) ∧
    spWrite (words.set 0 5) = true ∧ spSbuf (words.set 0 5) = true ∧ specOk (words.set 0 5) = true := by decide +kernel

/-- A copy of 128 bytes of SBUF that thread 0 asked for. -/
def copy : CopyReq :=
  { src := 0x1000000000000000, dst := 0x1000000000001000, len := 128, waitFull := false, consume := false, ctr := 0, owner := 0,
    packet := 0, site := {} }
theorem witness_copy : epKind copy.src ≠ 3 ∧ copy.unit + 1 < copy.len / 64 ∧ copy.len / 64 ≤ { copy with unit := 2 }.unit ∧
    (unitKeyH (cx []) 0 copy copy.src .read true false).1.toOption = some sbufBase ∧
    (unitKeyH (cx []) 0 copy copy.dst .write false true).1.toOption = some (sbufBase + 4096) ∧
    (ceMoves { cx [] with ces := [(0, { run := some copy })] } 0).length = 1 ∧ toSetAside (cx []) copy = false ∧
    toSetAside (cx []) { copy with stalled := some 0 } = true ∧ reqInactive (cx []) copy = false ∧
    readCheck (cx []) sbufBase 16 = (.good, cx []) ∧
    [copy].find? (fun r => r.fault.isNone && !toSetAside (cx []) r) = some copy := by
  decide +kernel

def acc (k : AccKind) (sp : Space) (ph : AccPhase) (addr : Nat) (val : List Word := []) : Acc :=
  { id := 1, site := {}, thread := 0, firing := 0, kind := k, space := sp, addr := addr, va := 0, n := 1, val := val, phase := ph }
def one (a : Acc) : State := { cx [] with accs := [a] }
theorem witness_access :
    accAt (one (acc .load .cell .issued (2 ^ 41))) 1 = some (acc .load .cell .issued (2 ^ 41)) ∧
    portBehind (one (acc .load .cell .issued (2 ^ 41))) (acc .load .cell .issued (2 ^ 41)) = false ∧
    readCheck (one (acc .load .cell .issued (2 ^ 41))) (2 ^ 41) 1 = (.good, one (acc .load .cell .issued (2 ^ 41))) ∧
    (readCheck { poison := [(2 ^ 39, true)] } (2 ^ 41) 1).1 = .poisoned 0 ∧
    (readCheck { soft := [(2 ^ 39, 3)] } (2 ^ 41) 1).1 = .bad ∧ (readCheck { uncorr := [(1, true)] } 64 1).1 = .bad ∧
    reaches (one (acc .load .cell .issued (2 ^ 41))) (acc .load .cell .issued (2 ^ 41)) (homePlace (acc .load .cell .issued (2 ^ 41))) = true ∧
    reaches (one (acc .gwait .sys .die 3)) (acc .gwait .sys .die 3) 8 = true ∧ reaches (one (acc .load .hbm .die 64)) (acc .load .hbm .die 64) (homePlace (acc .load .hbm .die 64)) = true ∧
    hasFailed (one (acc .load .cell .issued (2 ^ 41))) (acc .load .cell .issued (2 ^ 41)) = false ∧
    (hostAsk { pcie := { up := true } } 0 false 0 4).1 = true ∧ (hostAsk {} 0 false 0 4).1 = false ∧
    portUnsent (one (acc .load .sbuf .issued sbufBase)) (acc .load .sbuf .issued sbufBase) = false ∧
    dieBehind (one (acc .load .sbuf .island sbufBase)) (acc .load .sbuf .island sbufBase) = false ∧
    homeBehind (one (acc .load .hbm .die 64)) (acc .load .hbm .die 64) = false ∧
    allFull (one (acc .loadFull .sbuf .waiting sbufBase)) sbufBase 1 = false ∧
    fullBehind (one (acc .loadFull .sbuf .waiting sbufBase)) (acc .loadFull .sbuf .waiting sbufBase) = false ∧
    fullBehind { accs := [acc .loadFull .sbuf .waiting sbufBase, { acc .loadFull .sbuf .waiting sbufBase with id := 2 }] }
      { acc .loadFull .sbuf .waiting sbufBase with id := 2 } = true ∧
    allFull { full := [(sbufBase / 4, true)] } sbufBase 1 = true ∧
    (rdDword (one (acc .waitGe .sbuf .waiting sbufBase [0, 0])) sbufBase) = 0 ∧
    (rdDword { mem := [(sbufBase + 7, 0x80)] } sbufBase).testBit 63 = true := by decide +kernel
theorem witness_group_wait :
    (match groupWait { sched := { groups := [(3, { valid := true, phase := 2, members := [(0, { seen := 1 })] })] } } 0 3 with
     | .ok (some r) => r.1 == 2
     | _ => false) = true := by decide +kernel

/-- The record of a resumable fault of thread 0, delivered as number 7. -/
def rec7 : FaultRec :=
  { code := 0x9001, resumable := true, atEntry := false, save := false, kind := 0, others := 0, owner := 0, part := 0, frameId := 0,
    firing := 0, block := 0, slot := 0, unit := 0, elem := 0, addr := 0, detail1 := 0, detail2 := 0, time := 0, fseq := 7 }
def faulted (d : List FaultRec) : State :=
  { sched := { threads := [(0, { st := .parked, resumable := [{ code := 0x9001, parked := true, fseq := 7 }] })] },
    faults := { respSeq := 7, delivered := d, queue := [rec7] } }
theorem witness_fault_answer :
    (faulted [rec7]).faults.delivered.find? (fun f => f.fseq == (faulted [rec7]).faults.respSeq.toNat) = some rec7 ∧
    (faulted []).faults.delivered.find? (fun f => f.fseq == (faulted []).faults.respSeq.toNat) = none ∧
    (threadAt (faulted []) 0).resumable.find? (fun r => r.parked && r.fseq == rec7.fseq) =
      some { code := 0x9001, parked := true, fseq := 7 } ∧
    journalSys (faulted [rec7]) .s 0x206010 0 = faulted [rec7] ∧ (threadAt (faulted []) 0).stop = none ∧ (faulted []).fw.paused = false ∧ (0x80000000 : Word).toNat.testBit 31 = true ∧
    faultEntries {} + 2 ≤ 1024 ∧ updatesDue {} 0 = false ∧
    copiesGoing {} 0 = false ∧ writesGoing {} 0 = false := by decide

/-- Firing 3 of slot c0.0 is in the check stage with one token, under the shadow. -/
def fired : ChkRec := { tag := 0, isl := 0, slot := 0, cell := 0, k := 0, firing := 3, cycle := 0, exit := none }
def shadowed : State :=
  { cx [] with chks := [fired], flights := [{ dest := .buf 0 0 0, tok := tk 1, isl := 0, slot := 0, place := 0, chk := some 0 }], cycle := 64 }
def upset (a b : Nat) : ReplayIn :=
  { island := 0, slot := 0, unit := 0, firing := 3, fromShadow := true, errCell := BitVec.ofNat 256 a, errShadow := BitVec.ofNat 256 b }
theorem witness_reliability :
    (cellRelAt {} 0 0 32).state = 0 ∧ (({} : State).rel.cfg.get {} 0).shen = true ∧ (cellRelAt { cycle := 2 ^ 20 } 0 0 32).moved + 2 ^ 20 ≤ 2 ^ 20 ∧
    (firingOf { chks := [fired] } 0 0 0 0 3).isSome = true ∧ hasFail { rel := { fails := [⟨0, 0, 0, 0, 3, []⟩] } } 0 0 0 0 3 = true ∧
    comparing shadowed 0 0 0 = true ∧ mismatch shadowed 1 0 0 = true ∧ mismatch shadowed 0 0 0 = false ∧ shadowFail shadowed 0 0 0 0 3 0 1 0 = true ∧
    shadowFail shadowed 0 0 0 0 3 0 0 0 = false ∧
    stillBroken { rel := { fails := [⟨0, 0, 0, 0, 3, [64]⟩] } } 0 0 0 0 3 = false ∧
    stillBroken { soft := [(16, 3)], rel := { fails := [⟨0, 0, 0, 0, 3, [64]⟩] } } 0 0 0 0 3 = true ∧ shadowed.accs.length = 0 ∧ replayMatch shadowed (upset 1 0) 0 = 0 ∧
    replayMatch shadowed (upset 0 1) 0 = 1 ∧ (∀ y ∈ unchecked shadowed 0 0, y.push = none ∧ y.keeps = [] ∧ y.area = []) ∧
    (∃ f ∈ ({ rel := { fails := [⟨0, 0, 0, 255, 0, []⟩] } } : State).rel.fails, f.isl = 0 ∧ f.cell = 0 ∧ f.k = 255) ∧
    servingRel {} 5 = 5 ∧ (({ rel := { cells := [(32, { state := 1 })] } } : State).rel.cells.get {} 32).state ≠ 0 ∧
    activeWriter {} = .old ∧ activeWriter { fw := { lr := .probation } } = .new ∧ dieFree {} 0 = true ∧ dieFree (cx []) 0 = false ∧ hOnlyAt (8 * 2 ^ 25 + 0x14) = true ∧
    islThreads (cx []) 0 = [0] := by decide +kernel

/-- Slot c0.0 holds MOVI to operand b of c0.2, and a token stands on a. -/
def mover : State :=
  { cx [(0, [tk 2])] [] [] { insts := [0x08000A0812345678] } with agenda := [{ cycles := 0, dt := 0, act := .fire 0 0 0 }] }
theorem witness_step :
    heldInReset mover = false ∧ (fetchFire mover 0 0 0).map (·.2) = some 0x08000A0812345678 ∧ issueCycle mover 0 = true ∧
    arbPick (curCtx mover) 0 (readySlots mover 0 0) = some 0 ∧ (fetchFire (cx []) 0 0 1).isNone = true ∧
    (fetchBytecode { queues := [(0, { run := some {}, prog := [(0, 0x1001)] })] } 0).map (·.2) = some 0x1001 ∧
    (fetchMicro { ctxs := [(0, { st := .active, block := { hnds := [{ eng := 0, tag := 0, words := [0x30500000] }] }, eng := [(0, { busy := true })] })] } 0 0).map (·.2)
      = some 0x30500000 := by decide +kernel
theorem witness_decode_encode : ∃ bytes, (Instr.movi { t0 := .operand .b 2, imm := 0x12345678 }).wf = true ∧
    encode (.movi { t0 := .operand .b 2, imm := 0x12345678 }) = some (.operator, bytes) := ⟨_, by decide, rfl⟩
theorem witness_storage : Machine.Inv State.reset ∧ (∃ t, step State.reset = .next t) := ⟨by unfold Machine.Inv; decide, _, rfl⟩

/-! ### Conditions of single clauses -/

/-- A posted host write of the PF by access 1 of thread 0, of an earlier frame. -/
def posted : State := { pcie := { up := true, posted := [{ id := 1, fn := 0, no := 0, thread := some 0, old := true }], nextPost := 1 } }
theorem witness_posted : hostBehind posted 0 = some 0 ∧ hostBehind {} 0 = none ∧ postedOf posted (some 0) [] = [0] ∧
    hostBehind (readDone posted 0 1) 0 = none ∧ hostBehind (readDone posted 0 0) 0 = some 0 ∧ posted.pcie.abort.get false 0 = false ∧
    invPosted { posted with xl := { inv := 0x80000000#32, invOld := [1] } } = [0] ∧
    tlbInvReady { posted with xl := { inv := 0x80000000#32, invOld := [1] } } = true := by decide

/-- Word 5 of the average over ten samples, at and above the cap. -/
theorem witness_cap : overAvg { pkg := { capw := 300, samples := [300] } } = false ∧ overAvg { pkg := { capw := 300, samples := [301] } } = true ∧
    overCap { pkg := { capw := 300, samples := [301] } } = true ∧ nextLimit { pkg := { capw := 300, samples := [301] } } = none := by decide

/-- A leg A whose strait queue holds as many stripes as it has slots. -/
def data0 : Stripe := { leg := 0, kind := 0, rsnd := false, seq := 0, len := 0, src := 0, dst := 1 }
def full : State :=
  { straits := {
      legs := [(0, { thread := some 0, queue := 1, src := 0, dst := 1 })]
      queues := [{ thread := 0, qid := 1, mdie := 0, base := 0, log2 := 0, fmt := 0, head := 0, held := [data0], kept := false }] } }
theorem witness_stripe_waits :
    stripeWaits (legS) data0 = (queueRoom (legS) none 0 == 0) ∧ stripeWaits (legS) { data0 with kind := 1 } = false ∧
    stripeWaits full data0 = true := by decide

theorem witness_reg_reach : regReach {} (8 * 2 ^ 25) = true ∧ regReach {} (9 * 2 ^ 25) = true ∧
    regReach { straits := { ends := (List.range 24).map (fun e => (e, { railOk := 7 })) } } 0 = false := by decide +kernel

theorem witness_master : hearsMaster {} = false ∧
    hearsMaster { fh := { ports := [(0, { up := true, cfg := 1 })] }, time := { ptp := [(0, 0, [])] } } = true := by decide

theorem witness_ring_order :
    (takeHeld {} [{ code := 1, detail := [], time := 0, cycle := 0 }]).waiting.length = 1 ∧
    (takeHeld { overflow := [{ code := 2, detail := [], time := 5, cycle := 5 }] } [{ code := 1, detail := [], time := 0, cycle := 0 }]).overflow.map
      (fun ev => ev.code) = [1, 2] := by decide

/-- A spill queue with an entry in its ring, inside and outside the windows; an owner word that is no header. -/
theorem witness_refill :
    popBlocked (spill { rtail := 1 } [] 1) (curCtx (spill { rtail := 1 } [] 1)) (descAt (curCtx (spill { rtail := 1 } [] 1)) 0) = false ∧
    ringBarred (spill { rtail := 1 } [] 1) 0 0 (descAt (curCtx (spill { rtail := 1 } [] 1)) 0) 0 = none ∧
    (ringBarred (modThread (spill { rtail := 1 } [] 1) 0 (fun t => { t with level := 0 })) 0 0
      (descAt (curCtx (spill { rtail := 1 } [] 1)) 0) 0).isSome = true := by decide
theorem witness_header : notHeader 0x400F = false ∧ notHeader 0xF = true ∧ notHeader (11 * 2 ^ 14) = true ∧ notHeader (2 ^ 26 + 0x400F) = true ∧
    updHolder (curCtx (owner [])) 0 (updOf 0x400F) = some 0 ∧ updHolder (curCtx (owner [])) 0 (updOf (0x400F + 16)) = none := by decide

/-- Bank areas of a PLANE form: an access of the port meets it, or none does; a firing behind a due read stays in the check stage. -/
theorem witness_area : areaBusy (cx []) cellBase 16 = false ∧
    areaBusy { cx [] with accs := [acc .load .cell .issued cellBase] } cellBase 16 = true ∧
    mayPass (cx []) fired = true ∧ mayPass { cx [] with accs := [acc .load .cell .issued cellBase] } { fired with accNo := 2 } = false := by
  decide

end Sys2Proof.Tests
end

section
/-! SUPPORT. The package: what a reset keeps, what device events leave alone, which limiting step is next, and the
statements about package events, the held state and the values after reset. -/
namespace Sys2Proof.Proofs.Package
open Sys2Proof.Machine

/-! ## The arms of exec for package events -/

@[simp] theorem exec_packageReset (b : BootIn) (s : State) : exec (.packageReset b) s = execPackageReset b s := rfl
@[simp] theorem exec_pkgrstGo (v : Word) (b : BootIn) (s : State) : exec (.pkgrstGo v b) s = execPkgrstGo v b s := rfl
@[simp] theorem exec_dierstGo (v : Word) (s : State) : exec (.dierstGo v) s = execDierstGo v s := rfl
@[simp] theorem exec_dieResetDone (d : Nat) (s : State) : exec (.dieResetDone d) s = execDieResetDone d s := rfl
@[simp] theorem exec_avsCheck (d : Nat) (m : Int) (s : State) : exec (.avsCheck d m) s = execAvsCheck d m s := rfl
@[simp] theorem exec_pwrOvercap (s : State) : exec .pwrOvercap s = execPwrOvercap s := rfl
@[simp] theorem exec_powerLimitLift (s : State) : exec .powerLimitLift s = execPowerLimitLift s := rfl
@[simp] theorem exec_pwrcapWrite (l : Level) (v : Word) (s : State) : exec (.pwrcapWrite l v) s = execPwrcapWrite l v s := rfl
@[simp] theorem exec_thermSample (d t : Nat) (s : State) : exec (.thermSample d t) s = execThermSample d t s := rfl

/-! ## What a package reset keeps (R21, R25) -/

/-- Keeping the entries of some keys: a kept key reads as before, any other key reads the default. -/
theorem get_filter_key {α : Type} (d : α) (q : Nat → Bool) (k : Nat) : ∀ t : Tab α,
    Tab.get d (t.filter (fun e => q e.1)) k = if q k then Tab.get d t k else d
  | [] => by simp [Tab.get]
  | (j, v) :: t => by
    have ih := get_filter_key d q k t
    by_cases hkj : k = j
    · subst hkj
      cases hq : q k <;> simp_all [Tab.get]
    · cases hq : q j <;> simp [hq, Tab.get, hkj, ih]

theorem rdByte_wiped (s : State) (a : Nat) : rdByte (wiped s) a = if hostBase ≤ a then rdByte s a else 0 := by
  simpa [rdByte, wiped] using get_filter_key (0 : Byte) (fun k => decide (hostBase ≤ k)) a s.mem

theorem packageReset_keeps (b : BootIn) (s : State) :
    exec (.packageReset b) s = .next (boot b (wiped s)) ∧ (wiped s).flash = s.flash ∧ (wiped s).sched = {} ∧
      (wiped s).ctxs = [] ∧ (∀ a, hostBase ≤ a → rdByte (wiped s) a = rdByte s a) ∧
      (∀ a, a < hostBase → rdByte (wiped s) a = 0) :=
  ⟨rfl, rfl, rfl, rfl, fun a ha => by rw [rdByte_wiped, if_pos ha],
    fun a ha => by rw [rdByte_wiped, if_neg (Nat.not_le.mpr ha)]⟩

/-! ## Device events change rings and the overflow only (R102) -/

theorem postRings_frame (ev : Event) : ∀ (l : List Nat) (s : State),
    postRings s ev l = { s with rings := (postRings s ev l).rings }
  | [], _ => rfl
  | e :: t, s => by
    simp only [postRings]
    split
    · rw [postRings_frame ev t (setRing s e _)]
      rfl
    · exact postRings_frame ev t s

theorem postDeviceEvent_frame (s : State) (code : Nat) (detail : List Byte) :
    postDeviceEvent s code detail =
      { s with rings := (postDeviceEvent s code detail).rings, devOverflow := (postDeviceEvent s code detail).devOverflow } := by
  simp only [postDeviceEvent]
  split
  · rw [postRings_frame]
  · split <;> rfl

@[simp] theorem postDeviceEvent_mem (s : State) (code : Nat) (detail : List Byte) :
    (postDeviceEvent s code detail).mem = s.mem := by rw [postDeviceEvent_frame]
@[simp] theorem postDeviceEvent_sched (s : State) (code : Nat) (detail : List Byte) :
    (postDeviceEvent s code detail).sched = s.sched := by rw [postDeviceEvent_frame]
@[simp] theorem postDeviceEvent_pkg (s : State) (code : Nat) (detail : List Byte) :
    (postDeviceEvent s code detail).pkg = s.pkg := by rw [postDeviceEvent_frame]

/-! ## Die resets (R22 to R24) -/

theorem dierstGo_begins {s : State} {v : Word} (hgo : v.toNat.testBit 31 = true) (hp : (dieAt s (v.toNat % 4)).absent = false)
    (hr : (dieAt s (v.toNat % 4)).inReset = false) (hq : s.pkg.rstQueue = []) :
    exec (.dierstGo v) s = .next (coreReset { s with pkg := { s.pkg with rstDie := v.toNat % 4, rstQueue := [v.toNat % 4] } }
      (v.toNat % 4)) := by
  simp [execDierstGo, dierstWrite, hgo, hp, hr, hq]

theorem dierstGo_ignored {s : State} {v : Word} (hgo : v.toNat.testBit 31 = true)
    (h : (dieAt s (v.toNat % 4)).absent = true ∨ (dieAt s (v.toNat % 4)).inReset = true) :
    exec (.dierstGo v) s = .next s := by
  simp [execDierstGo, dierstWrite, hgo, h]

/-- The first queued die leaves reset. -/
def dieLeavesReset (s : State) (d : Nat) (r : List Nat) : State :=
  modDie { s with pkg := { s.pkg with rstQueue := r } } d (fun x => { x with inReset := false })

theorem dieResetDone_last {s : State} {d : Nat} (hq : s.pkg.rstQueue = [d]) (ht : s.pkg.rstSince + 200 * usec ≤ s.dtime) :
    exec (.dieResetDone d) s = .next (dieLeavesReset s d []) := by
  simp [execDieResetDone, hq, ht, dieLeavesReset]

theorem dieResetDone_begins_next {s : State} {d e : Nat} {r : List Nat} (hq : s.pkg.rstQueue = d :: e :: r)
    (ht : s.pkg.rstSince + 200 * usec ≤ s.dtime) :
    exec (.dieResetDone d) s = .next (coreReset (dieLeavesReset s d (e :: r)) e) := by
  simp [execDieResetDone, hq, ht, dieLeavesReset]

/-! ## Voltage (R16) -/

theorem avsCheck_raises {s : State} {d : Nat} {margin : Int} (hd : d < 8) (hm : margin < 0) (hv : (dieAt s d).vddc < 680) :
    exec (.avsCheck d margin) s = .next (modDie s d (fun x => { x with vddc := (dieAt s d).vddc + 5 })) := by
  simp [execAvsCheck, Nat.not_le.mpr hd, hm, Nat.not_le.mpr hv]

theorem avsCheck_reports {s : State} {d : Nat} {margin : Int} (hd : d < 8) (hm : margin < 0) (hv : 680 ≤ (dieAt s d).vddc) :
    exec (.avsCheck d margin) s = .next (postDeviceEvent s 0x8030 (leBytes 2 d ++ leBytes 2 (dieAt s d).vddc)) := by
  simp [execAvsCheck, Nat.not_le.mpr hd, hm, hv]

theorem avsCheck_lowers {s : State} {d : Nat} {margin : Int} (hd : d < 8) (hm : 15 ≤ margin) (hv : 565 ≤ (dieAt s d).vddc) :
    exec (.avsCheck d margin) s = .next (modDie s d (fun x => { x with vddc := (dieAt s d).vddc - 5 })) := by
  have hneg : ¬ margin < 0 := by omega
  simp [execAvsCheck, Nat.not_le.mpr hd, hneg, hm, hv]

/-! ## The power envelope (R17, R18) -/

/-- The state once a sample has come in: the last ten samples are kept. -/
def withSample (s : State) (e : Nat) : State :=
  { s with pkg := { s.pkg with samples := (s.pkg.samples ++ [e]).drop (s.pkg.samples.length + 1 - 10) } }

/-- What follows a sample that has come in. -/
def afterSample (u : State) : Out :=
  if overCap u then
    match nextLimit u with
    | some k => .next { u with pkg := { u.pkg with limits := u.pkg.limits.set 0 k (u.pkg.limits.get 0 k + 1), overSince := none } }
    | none => .next { u with pkg := { u.pkg with overSince := if overAvg u then some (u.pkg.overSince.getD u.dtime) else none } }
  else .next { u with pkg := { u.pkg with overSince := none } }

theorem exec_powerSample (e : Nat) (s : State) : exec (.powerSample e) s = afterSample (withSample s e) := by
  show execPowerSample e s = _
  unfold execPowerSample withSample
  simp only [List.length_append, List.length_singleton]
  rfl

theorem powerSample_limits {s : State} {e k : Nat} (ho : overCap (withSample s e) = true)
    (hk : nextLimit (withSample s e) = some k) :
    exec (.powerSample e) s = .next { withSample s e with pkg := { (withSample s e).pkg with
      limits := (withSample s e).pkg.limits.set 0 k ((withSample s e).pkg.limits.get 0 k + 1), overSince := none } } := by
  simp [exec_powerSample, afterSample, ho, hk]

theorem powerSample_exhausted {s : State} {e : Nat} (ho : overCap (withSample s e) = true)
    (hk : nextLimit (withSample s e) = none) :
    exec (.powerSample e) s = .next { withSample s e with pkg := { (withSample s e).pkg with
      overSince := if overAvg (withSample s e) then some (s.pkg.overSince.getD s.dtime) else none } } := by
  simp only [exec_powerSample, afterSample, ho, hk]
  rfl

theorem powerSample_under {s : State} {e : Nat} (ho : overCap (withSample s e) = false) :
    exec (.powerSample e) s = .next { withSample s e with pkg := { (withSample s e).pkg with overSince := none } } := by
  simp [exec_powerSample, afterSample, ho]

theorem pwrOvercap_posts {s : State} {t : Nat} (ho : s.pkg.overSince = some t) (ht : t + msec ≤ s.dtime) :
    ∃ u, exec .pwrOvercap s = .next u ∧ u.pkg.overSince = none ∧ u.mem = s.mem ∧ u.sched = s.sched := by
  simp [execPwrOvercap, ho, ht]

theorem powerLimitLift_lifts {s : State} {k : Nat} (havg : 100 * s.pkg.samples.sum < 95 * s.pkg.capw * s.pkg.samples.length)
    (hhot : anyHot s = false) (hk : lastLimit s = some k) (ht : s.pkg.lifted + 100 * usec ≤ s.dtime) :
    exec .powerLimitLift s = .next { s with pkg := { s.pkg with
      limits := s.pkg.limits.set 0 k (s.pkg.limits.get 0 k - 1), lifted := s.dtime } } := by
  simp [execPowerLimitLift, havg, hhot, hk, ht]

theorem pwrcapWrite_clamps {s : State} {l : Level} {v : Word} (hl : l ≠ .t) :
    exec (.pwrcapWrite l v) s = .next { journalSys s l 0x10 v with
      pkg := { (journalSys s l 0x10 v).pkg with capw := max 300 (min 600 (v.toNat % 1024)) } } := by
  simp [execPwrcapWrite, pwrcapWrite, hl]

/-! ### The order of the limiting steps (R18) -/

/-- The islands of a partition that run a class can be limited further. -/
def Limitable (s : State) (cls p : Nat) : Prop := classRuns s cls p = true ∧ s.pkg.limits.get 0 (16 * cls + p) < 7

/-- The next limiting step within one class. -/
def classLimit (s : State) (cls : Nat) : Option Nat :=
  (List.range 7).findSome? (fun step =>
    ((List.range 16).reverse.find? (fun p => classRuns s cls p && s.pkg.limits.get 0 (16 * cls + p) == step)).map (16 * cls + ·))

theorem nextLimit_eq (s : State) : nextLimit s = [3, 2, 1].findSome? (classLimit s) := rfl

theorem limitable_of_classLimit {s : State} {cls j : Nat} (h : classLimit s cls = some j) :
    ∃ p, p < 16 ∧ j = 16 * cls + p ∧ Limitable s cls p := by
  obtain ⟨step, hstep, hfound⟩ := List.exists_of_findSome?_eq_some h
  obtain ⟨p, hp, rfl⟩ := Option.map_eq_some_iff.mp hfound
  have hmem := List.mem_of_find?_eq_some hp
  have hsat := List.find?_some hp
  simp only [List.mem_reverse, List.mem_range, Bool.and_eq_true, beq_iff_eq] at hmem hsat hstep
  exact ⟨p, hmem, rfl, hsat.1, by omega⟩

theorem not_limitable_of_classLimit_none {s : State} {cls p : Nat} (h : classLimit s cls = none) (hp : p < 16) :
    ¬ Limitable s cls p := by
  rintro ⟨hruns, hlow⟩
  have hnone := Option.map_eq_none_iff.mp (List.findSome?_eq_none_iff.mp h _ (List.mem_range.mpr hlow))
  have hp' := List.find?_eq_none.mp hnone p (by simpa using hp)
  simp [hruns] at hp'

/-- Bulk (3) comes before lent (2), and lent before firm (1): the next limiting step is taken from a class and partition
that can be limited, while no partition can be of a class that comes before it. -/
theorem nextLimit_spec {s : State} {j : Nat} (h : nextLimit s = some j) :
    ∃ before cls after, [3, 2, 1] = before ++ cls :: after ∧ (∃ p, p < 16 ∧ j = 16 * cls + p ∧ Limitable s cls p) ∧
      ∀ c ∈ before, ∀ p, p < 16 → ¬ Limitable s c p := by
  rw [nextLimit_eq] at h
  obtain ⟨before, cls, after, hsplit, hcls, hbefore⟩ := List.findSome?_eq_some_iff.mp h
  exact ⟨before, cls, after, hsplit, limitable_of_classLimit hcls,
    fun c hc _ hp => not_limitable_of_classLimit_none (hbefore c hc) hp⟩

theorem nextLimit_bulk_first {s : State} {j : Nat} (h : nextLimit s = some j) :
    (j / 16 = 1 ∨ j / 16 = 2 ∨ j / 16 = 3) ∧ classRuns s (j / 16) (j % 16) = true ∧ s.pkg.limits.get 0 j < 7 ∧
      ∀ p, p < 16 → classRuns s 3 p = true → s.pkg.limits.get 0 (48 + p) < 7 → j / 16 = 3 := by
  obtain ⟨before, cls, after, hsplit, ⟨p, hp, rfl, hruns, hlow⟩, hbefore⟩ := nextLimit_spec h
  have hdiv : (16 * cls + p) / 16 = cls := by omega
  have hmod : (16 * cls + p) % 16 = p := by omega
  have hcls : cls = 3 ∨ cls = 2 ∨ cls = 1 := by simpa using (by simp [hsplit] : cls ∈ [3, 2, 1])
  rw [hdiv, hmod]
  refine ⟨by omega, hruns, hlow, fun p' hp' hruns' hlow' => ?_⟩
  cases before with
  | nil => exact (List.cons.inj hsplit).1.symm
  | cons c rest =>
    obtain rfl : 3 = c := (List.cons.inj hsplit).1
    exact absurd ⟨hruns', hlow'⟩ (hbefore 3 List.mem_cons_self p' hp')

/-! ## Temperature (R20) -/

theorem thermSample_cool {s : State} {d temp : Nat} (hd : d < 9) (ht : temp < 100) :
    exec (.thermSample d temp) s = .next (modDie s d (fun x => { x with temp := temp, hot := false })) := by
  have h110 : ¬ 110 ≤ temp := by omega
  simp [execThermSample, Nat.not_le.mpr hd, Nat.not_le.mpr ht, h110]

theorem thermSample_trips {s : State} {d temp : Nat} (hd : d < 9) (ht : 110 ≤ temp) :
    exec (.thermSample d temp) s = .next (thermTrip s d) := by
  simp [execThermSample, Nat.not_le.mpr hd, ht]

theorem thermTrip_vddc (s : State) (d : Nat) : ∀ i, i < 8 → (dieAt (thermTrip s d) i).vddc = 0 := by
  show ∀ i, i < 8 → (Tab.get {} ((List.range 8).map (fun d => (d, ({ vddc := 0 } : Die)))) i).vddc = 0
  decide

/-- Settles O42: each event by the lemma about it above; the order of the limiting steps by `nextLimit_spec`. -/
theorem packageEvents : Obligations.PackageEvents := by
  intro s b v l d e k temp margin r
  refine ⟨packageReset_keeps b s, fun hgo => ?pkgrst, dierstGo_begins, dierstGo_ignored, ?dieResetDone,
    avsCheck_raises, avsCheck_reports, avsCheck_lowers, ⟨powerSample_limits, powerSample_exhausted, powerSample_under⟩,
    fun _ => pwrOvercap_posts, powerLimitLift_lifts, fun _ => nextLimit_bulk_first, pwrcapWrite_clamps, thermSample_cool,
    fun hd ht => ⟨thermTrip s d, thermSample_trips hd ht, rfl, rfl, rfl, thermTrip_vddc s d⟩⟩
  case pkgrst => simp [execPkgrstGo, hgo]
  case dieResetDone =>
    cases r with
    | nil => exact dieResetDone_last
    | cons e r => exact dieResetDone_begins_next

/-! ## Held in reset (R20, R112) -/

theorem heldInReset_passTime (s : State) (n dt : Nat) : heldInReset (passTime s n dt) = heldInReset s := by
  unfold passTime
  split <;> rfl

theorem step_of_agenda {s : State} {m : Move} {rest : List Move} (h : s.agenda = m :: rest) :
    step s = stepAct (passTime { s with agenda := rest } m.cycles m.dt) m.act := by
  simp [step, h]

theorem stepAct_of_held {s : State} {a : Action} (hheld : heldInReset s = true)
    (ha : ∀ b, a ≠ .event (.packageReset b)) : stepAct s a = .next s := by
  cases a with
  | event i =>
    simp only [stepAct]
    split
    · exact absurd rfl (ha _)
    · rw [if_pos hheld]
  | _ => simp [stepAct, hheld]

/-- Settles O43: the held state outlasts the passing of time, and a held state answers no move but a package reset. -/
theorem heldInReset : Obligations.HeldInReset := by
  intro s m rest hagenda hheld hact
  rw [step_of_agenda hagenda]
  exact stepAct_of_held ((heldInReset_passTime _ _ _).trans hheld) hact

/-! ## Values after reset (R21, R25, R46) -/

/-- Settles O44: every table of `State.reset` is empty, so each indexed read gives the default of its record. -/
theorem resetValues : Obligations.ResetValues :=
  ⟨rfl, fun _ => rfl, fun _ => rfl, fun _ => ⟨rfl, rfl, rfl, rfl⟩, fun _ => rfl, fun _ => rfl, fun _ _ => rfl, rfl, rfl, rfl⟩

/-- Settles O60: the storage tables of `State.reset` are empty, and the empty table is in canonical form. -/
theorem resetStorageForm : Obligations.ResetStorageForm := ⟨rfl, rfl, rfl, rfl, rfl⟩

end Sys2Proof.Proofs.Package
end

section
/-! SUPPORT. Straits: what a flit carries, what an end sees of a stripe that no error struck, what retraining and the events
of a rail leave alone, and the statement about the traffic of the straits. -/
namespace Sys2Proof.Proofs.Straits
open Sys2Proof.Machine Sys2Proof.Laws

/-! ## The arms of exec for the straits -/

@[simp] theorem exec_stripeSend (n : Nat) (s : State) : exec (.stripeSend n) s = execStripeSend n s := rfl
@[simp] theorem exec_stripeReceive (h : Nat) (err : List (Nat × Nat × BitVec 8)) (s : State) :
    exec (.stripeReceive h err) s = execStripeReceive h err s := rfl
@[simp] theorem exec_ackReceive (n : Nat) (s : State) : exec (.ackReceive n) s = execAckReceive n s := rfl
@[simp] theorem exec_ackTimer (n : Nat) (s : State) : exec (.ackTimer n) s = execAckTimer n s := rfl
@[simp] theorem exec_railRetrain (e rail : Nat) (ok : Bool) (s : State) :
    exec (.railRetrain e rail ok) s = execRailRetrain e rail ok s := rfl
@[simp] theorem exec_timeProbe (e : Nat) (s : State) : exec (.timeProbe e) s = execTimeProbe e s := rfl
@[simp] theorem exec_timeReply (e trip turn : Nat) (s : State) :
    exec (.timeReply e trip turn) s = execTimeReply e trip turn s := rfl
@[simp] theorem exec_rerouteInstall (what : Reroute) (path : List Nat) (s : State) :
    exec (.rerouteInstall what path) s = execRerouteInstall what path s := rfl
@[simp] theorem exec_linkSeveredTimeout (n : Nat) (s : State) :
    exec (.linkSeveredTimeout n) s = execLinkSeveredTimeout n s := rfl
@[simp] theorem exec_stqrelLookup (l : Level) (v : Word) (s : State) :
    exec (.stqrelLookup l v) s = execStqrelLookup l v s := rfl
@[simp] theorem exec_stqrelRelease (l : Level) (v : Word) (s : State) :
    exec (.stqrelRelease l v) s = execStqrelRelease l v s := rfl

/-! ## Bytes and flits (R31) -/

@[simp] theorem length_leBytes : ∀ n v : Nat, (leBytes n v).length = n
  | 0, _ => rfl
  | n + 1, v => by simp [leBytes, length_leBytes n]

theorem leNat_leBytes : ∀ n v : Nat, leNat (leBytes n v) = v % 256 ^ n
  | 0, v => by simp [leBytes, leNat, Nat.mod_one]
  | n + 1, v => by simp [leBytes, leNat, leNat_leBytes n, Nat.pow_succ', Nat.mod_mul]

theorem crcBits_lt : ∀ (n : Nat) {c : Nat}, c < 2 ^ 16 → crcBits n c < 2 ^ 16
  | 0, _, h => h
  | n + 1, c, h => by
    refine crcBits_lt n ?_
    split
    · exact Nat.xor_lt_two_pow (Nat.mod_lt _ (by decide)) (by decide)
    · next htop =>
      have hlow : c < 2 ^ 15 := by
        rw [Nat.testBit_eq_decide_div_mod_eq, decide_eq_true_eq] at htop
        omega
      omega

theorem crc16_lt (l : List Byte) : crc16 l < 2 ^ 16 := by
  refine List.foldlRecOn l _ (motive := (· < 2 ^ 16)) (by decide) fun c hc b _ => crcBits_lt 8 ?_
  have hb : 256 * b.toNat < 2 ^ 16 := by have := b.isLt; omega
  exact Nat.xor_lt_two_pow hc hb

/-- A flit carries the CRC of its content: the two bytes hold all 16 bits of it. -/
theorem flitOk_flit {c : List Byte} (hc : c.length = 62) : flitOk (flit c) = true := by
  have hcrc : leNat (leBytes 2 (crc16 c)) = crc16 c :=
    (leNat_leBytes 2 _).trans (Nat.mod_eq_of_lt (crc16_lt c))
  simp [flitOk, flit, ← hc, hcrc]

theorem take_flit {c : List Byte} (hc : c.length = 62) : (flit c).take 62 = c := by
  simp [flit, ← hc]

/-! ## A stripe that no error struck arrives as it was sent (R31, R33) -/

@[simp] theorem length_stripeBody (x : Stripe) : (stripeBody x).length = 248 := by
  rw [stripeBody, List.length_take, List.length_append, List.length_replicate]
  omega

theorem length_railContent {body : List Byte} {k : Nat} (hb : body.length = 248) (hk : k < 4) :
    (railContent body k).length = 62 := by
  simp only [railContent, List.length_take, List.length_drop, hb]
  omega

@[simp] theorem length_xorBytes (l : List (List Byte)) : (xorBytes l).length = 62 := by simp [xorBytes]

theorem flitOk_stripeFlits {body : List Byte} (hb : body.length = 248) :
    ∀ k ∈ List.range 5, flitOk ((stripeFlits body).getD k []) = true := by
  have hrail := fun k hk => flitOk_flit (length_railContent (k := k) hb hk)
  have hparity := flitOk_flit (length_xorBytes ([0, 1, 2, 3].map (railContent body)))
  simpa [stripeFlits, List.range_succ, hrail] using hparity

theorem rebuilt_stripeFlits {body : List Byte} (hb : body.length = 248) : rebuilt (stripeFlits body) [] = body := by
  have hrail := fun k hk => take_flit (length_railContent (k := k) hb hk)
  have hsplit : railContent body 0 ++ (railContent body 1 ++ (railContent body 2 ++ railContent body 3)) = body := by
    have hrest : ∀ k, (body.drop (62 * k)).take 62 ++ body.drop (62 * (k + 1)) = body.drop (62 * k) := fun k => by
      rw [Nat.mul_succ, ← List.drop_drop, List.take_append_drop]
    have hlast : railContent body 3 = body.drop (62 * 3) := List.take_of_length_le (by simp [hb])
    rw [hlast]
    simp only [railContent, hrest]
    simp
  simpa [rebuilt, stripeFlits, hrail] using hsplit

theorem missing_stripeFlits {s : State} {e : Nat} {body : List Byte} (hb : body.length = 248)
    (hrails : (endAt s e).railOk = 31) : missing s e (stripeFlits body) = [] := by
  have hup : ∀ k ∈ List.range 5, (31 : Nat).testBit k = true := by decide
  refine List.filter_eq_nil_iff.mpr fun k hk => ?_
  rw [flitOk_stripeFlits hb k hk, hrails, hup k hk]
  simp

@[simp] theorem seenStripe_stripeBody (s : State) (h : Nat) (x : Stripe) : seenStripe s h x (stripeBody x) = x := by
  simp [seenStripe]

/-! ## Ends of straits (R35) -/

theorem endAt_modEnd_same {s : State} (e : Nat) (f : StraitEnd → StraitEnd) (h : Tab.wf {} s.straits.ends = true) :
    endAt (modEnd s e f) e = f (endAt s e) := get_set_same _ _ e h

theorem endAt_modEnd_other (s : State) {e k : Nat} (f : StraitEnd → StraitEnd) (hk : k ≠ e) :
    endAt (modEnd s e f) k = endAt s k := get_set_other _ _ hk _

theorem modEnd_wf {s : State} (e : Nat) (f : StraitEnd → StraitEnd) (h : Tab.wf {} s.straits.ends = true) :
    Tab.wf {} (modEnd s e f).straits.ends = true := set_wf _ e _ h

@[simp] theorem modEnd_legs (s : State) (e : Nat) (f : StraitEnd → StraitEnd) :
    (modEnd s e f).straits.legs = s.straits.legs := rfl
@[simp] theorem modEnd_queues (s : State) (e : Nat) (f : StraitEnd → StraitEnd) :
    (modEnd s e f).straits.queues = s.straits.queues := rfl
@[simp] theorem modEnd_mem (s : State) (e : Nat) (f : StraitEnd → StraitEnd) : (modEnd s e f).mem = s.mem := rfl
@[simp] theorem wireAt_modEnd (s : State) (e h : Nat) (f : StraitEnd → StraitEnd) :
    wireAt (modEnd s e f) h = wireAt s h := rfl

/-- The two ends of a strait have numbers of their own. -/
theorem endNo_lower_ne_upper (n : Nat) : endNo n false ≠ endNo n true := by
  simp only [endNo]
  split <;> simp

theorem eq_endNo_of_lt {e : Nat} (he : e < 24) : e = endNo (endStrait e) false ∨ e = endNo (endStrait e) true := by
  revert e
  decide

theorem endAt_modStrait {s : State} {e : Nat} (f : StraitEnd → StraitEnd) (he : e < 24)
    (h : Tab.wf {} s.straits.ends = true) : endAt (modStrait s (endStrait e) f) e = f (endAt s e) := by
  have hne := endNo_lower_ne_upper (endStrait e)
  unfold modStrait
  rcases eq_endNo_of_lt he with hlow | hup
  · rw [← hlow] at hne ⊢
    rw [endAt_modEnd_other _ _ hne, endAt_modEnd_same _ _ h]
  · rw [← hup] at hne ⊢
    rw [endAt_modEnd_same _ _ (modEnd_wf _ _ h), endAt_modEnd_other _ _ hne.symm]

theorem modStrait_wf {s : State} (n : Nat) (f : StraitEnd → StraitEnd) (h : Tab.wf {} s.straits.ends = true) :
    Tab.wf {} (modStrait s n f).straits.ends = true := modEnd_wf _ _ (modEnd_wf _ _ h)

/-! ## Five good CRCs (R33) -/

/-- The state once a hop's receiver has taken a stripe off the wire, `rest` still on it, and found all five CRCs good. -/
def checked (s : State) (hop : Nat) (rest : List Stripe) : State :=
  countCrc (setWire s hop rest) (hopEnd hop) ((List.range 5).map (fun k => (k, false)))

theorem countCrc_good_frame (e : Nat) : ∀ (ks : List Nat) (s : State),
    countCrc s e (ks.map (fun k => (k, false))) =
      { s with straits := { s.straits with ends := (countCrc s e (ks.map (fun k => (k, false)))).straits.ends } }
  | [], _ => rfl
  | k :: ks, s => by
    simp only [List.map_cons, countCrc]
    rw [countCrc_good_frame e ks]
    rfl

/-- Good CRCs touch no end but for the failures counted in a row, and keep the table of ends in its form. -/
theorem countCrc_good_ends (e : Nat) : ∀ (ks : List Nat) {s : State}, Tab.wf {} s.straits.ends = true →
    Tab.wf {} (countCrc s e (ks.map (fun k => (k, false)))).straits.ends = true ∧
      ∀ i, ∃ bad, endAt (countCrc s e (ks.map (fun k => (k, false)))) i = { endAt s i with bad := bad }
  | [], s, h => ⟨h, fun i => ⟨(endAt s i).bad, rfl⟩⟩
  | k :: ks, s, h => by
    obtain ⟨hwf, hends⟩ := countCrc_good_ends e ks
      (modEnd_wf (s := s) e (fun x => { x with bad := x.bad.set 0 k 0 }) h)
    refine ⟨hwf, fun i => ?_⟩
    obtain ⟨bad, hi⟩ := hends i
    refine ⟨bad, hi.trans ?_⟩
    by_cases hie : i = e
    · subst hie
      rw [endAt_modEnd_same _ _ h]
    · rw [endAt_modEnd_other _ _ hie]

theorem checked_frame (s : State) (hop : Nat) (rest : List Stripe) :
    checked s hop rest = { setWire s hop rest with
      straits := { (setWire s hop rest).straits with ends := (checked s hop rest).straits.ends } } :=
  countCrc_good_frame _ _ _

@[simp] theorem checked_legs (s : State) (hop : Nat) (rest : List Stripe) :
    (checked s hop rest).straits.legs = s.straits.legs := by rw [checked_frame]; rfl
@[simp] theorem checked_queues (s : State) (hop : Nat) (rest : List Stripe) :
    (checked s hop rest).straits.queues = s.straits.queues := by rw [checked_frame]; rfl
@[simp] theorem checked_mem (s : State) (hop : Nat) (rest : List Stripe) :
    (checked s hop rest).mem = s.mem := by rw [checked_frame]; rfl
@[simp] theorem checked_flights (s : State) (hop : Nat) (rest : List Stripe) :
    (checked s hop rest).flights = s.flights := by rw [checked_frame]; rfl

theorem wireAt_checked {s : State} (hop : Nat) (rest : List Stripe) (h : Tab.wf [] s.straits.wires = true) :
    wireAt (checked s hop rest) hop = rest := by
  rw [checked_frame]
  exact get_set_same _ _ hop h

section
variable {s : State} (hop : Nat) (rest : List Stripe) (hends : Tab.wf {} s.straits.ends = true)
include hends

theorem checked_ends_wf : Tab.wf {} (checked s hop rest).straits.ends = true :=
  (countCrc_good_ends _ _ (s := setWire s hop rest) hends).1

theorem endAt_checked (i : Nat) : ∃ bad, endAt (checked s hop rest) i = { endAt s i with bad := bad } :=
  (countCrc_good_ends _ _ (s := setWire s hop rest) hends).2 i

theorem straitDown_checked (n : Nat) : straitDown (checked s hop rest) n = straitDown s n := by
  obtain ⟨bad, h⟩ := endAt_checked hop rest hends (endNo n false)
  simp [straitDown, h, endState]

theorem badHdr_checked (i : Nat) : (endAt (checked s hop rest) i).badHdr = (endAt s i).badHdr := by
  obtain ⟨bad, h⟩ := endAt_checked hop rest hends i
  rw [h]

end

/-! ## Sending and receiving stripes (R32 to R34, R39 to R41) -/

section
variable {s : State} {n : Nat} (hmay : maySend s (legAt s n) = true)
include hmay

theorem stripeSend_records {recs rest : List (List Tok)} (hleg : (legAt s n).legB = false)
    (hpack : packRecs 240 (recsOf (legAt s n).units (legAt s n).waiting) = (recs, rest)) (hrecs : recs ≠ []) :
    exec (.stripeSend n) s = .next (sendNew s n { legAt s n with waiting := rest.flatten } recs) := by
  cases recs with
  | nil => exact absurd rfl hrecs
  | cons r recs => simp [execStripeSend, hmay, hleg, hpack]

theorem stripeSend_queued {q : SQueue} {x : Stripe} {r : List Stripe} (hleg : (legAt s n).legB = true)
    (hactive : consumerActive s (legAt s n) = true) (hq : findQueue s (legAt s n).thread (legAt s n).queue = some q)
    (hheld : q.held.drop (legAt s n).unacked.length = x :: r) :
    exec (.stripeSend n) s = .next (sendNew s n (legAt s n) x.recs) := by
  simp [execStripeSend, hmay, hleg, hactive, hq, hheld]

end

theorem stripeReceive_waits {s : State} {hop : Nat} {x : Stripe} {r : List Stripe} (hw : wireAt s hop = x :: r)
    (hwait : stripeWaits s x = true) : exec (.stripeReceive hop []) s = .next s := by
  simp [execStripeReceive, hw, hwait]

section
variable {s : State} {hop : Nat} {x : Stripe} {r : List Stripe} (hw : wireAt s hop = x :: r)
  (hwait : stripeWaits s x = false) (hends : Tab.wf {} s.straits.ends = true)
  (hrails : (endAt s (hopEnd hop)).railOk = 31) (hup : straitDown s (hop / 2) = false)
include hw hwait hends hrails hup

/-- A stripe that no error struck is seen as it was sent: only its header decides what becomes of it. -/
theorem stripeReceive_unstruck : exec (.stripeReceive hop []) s =
    if badStripe x then .next (modEnd (checked s hop r) (hopEnd hop) (fun y => { y with badHdr := min 255 (y.badHdr + 1) }))
    else .next (useStripe (checked s hop r) hop x) := by
  have hbody := length_stripeBody x
  have hgood : (List.range 5).map (fun k => (k, !flitOk ((stripeFlits (stripeBody x)).getD k []) &&
      (endAt (setWire s hop r) (hopEnd hop)).railOk.testBit k)) = (List.range 5).map (fun k => (k, false)) :=
    List.map_congr_left fun k hk => by rw [flitOk_stripeFlits hbody k hk]; rfl
  have hdown := (straitDown_checked hop r hends (hop / 2)).trans hup
  simp only [checked] at hdown
  simp only [exec_stripeReceive, execStripeReceive, hw, hwait, strike, List.foldl_nil, missing_stripeFlits hbody hrails,
    hgood, rebuilt_stripeFlits hbody, seenStripe_stripeBody, hdown, checked]
  simp

theorem stripeReceive_uses (hwires : Tab.wf [] s.straits.wires = true) (hx : badStripe x = false) :
    ∃ u, exec (.stripeReceive hop []) s = .next (useStripe u hop x) ∧ wireAt u hop = r ∧
      u.straits.legs = s.straits.legs ∧ u.straits.queues = s.straits.queues ∧ u.mem = s.mem ∧ u.flights = s.flights :=
  ⟨checked s hop r, by rw [stripeReceive_unstruck hw hwait hends hrails hup, hx, if_neg Bool.false_ne_true],
    wireAt_checked hop r hwires, by simp⟩

theorem stripeReceive_countsBadHeader (hwires : Tab.wf [] s.straits.wires = true) (hx : badStripe x = true) :
    ∃ u, exec (.stripeReceive hop []) s = .next u ∧ wireAt u hop = r ∧
      (endAt u (hopEnd hop)).badHdr = min 255 ((endAt s (hopEnd hop)).badHdr + 1) ∧
      u.straits.legs = s.straits.legs ∧ u.straits.queues = s.straits.queues ∧ u.mem = s.mem := by
  rw [stripeReceive_unstruck hw hwait hends hrails hup, if_pos hx]
  exact ⟨_, rfl, (wireAt_modEnd ..).trans (wireAt_checked hop r hwires), by
    rw [endAt_modEnd_same _ _ (checked_ends_wf hop r hends), badHdr_checked hop r hends], by simp⟩

end

/-! ## Acknowledgements (R39, R40) -/

section
variable {s : State} {n : Nat} {x : Stripe} {r : List Stripe} (hin : (legAt s n).ackIn = x :: r)
include hin

theorem ackReceive_old (hold : 32768 ≤ (x.seq + 65536 - (legAt s n).lastAck) % 65536) :
    exec (.ackReceive n) s = .next (setLeg s n { legAt s n with ackIn := r }) := by
  simp [execAckReceive, hin, hold]

theorem ackReceive_frees (hnew : (x.seq + 65536 - (legAt s n).lastAck) % 65536 < 32768) (hx : x.rsnd = false) :
    exec (.ackReceive n) s = .next (freeAcked s n { legAt s n with ackIn := r, credit := x.free } x.seq) := by
  simp [execAckReceive, hin, Nat.not_le.mpr hnew, hx]

end

theorem ackTimer_acknowledges {s : State} {n t : Nat} (ht : (legAt s n).lastAccept = some t)
    (howes : (legAt s n).owes = true) (hdue : t + 2 * usec ≤ s.dtime) :
    exec (.ackTimer n) s = .next (sendAck s n false) := by
  simp [execAckTimer, ht, howes, hdue]

/-! ## Resending changes wires and legs only -/

@[simp] theorem sendStripe_ends (s : State) (h : Nat) (x : Stripe) : (sendStripe s h x).straits.ends = s.straits.ends := by
  unfold sendStripe
  split <;> rfl

@[simp] theorem sendAlong_ends (s : State) (path : List Nat) (x : Stripe) :
    (sendAlong s path x).straits.ends = s.straits.ends := by
  cases path with
  | nil => rfl
  | cons h t => exact sendStripe_ends s h _

@[simp] theorem resendAll_ends (path : List Nat) : ∀ (l : List Stripe) (s : State),
    (resendAll s path l).straits.ends = s.straits.ends
  | [], _ => rfl
  | x :: t, s => (resendAll_ends path t _).trans (sendAlong_ends s path x)

@[simp] theorem restoreLegs_ends : ∀ (l : List (Nat × Leg)) (s : State),
    (restoreLegs s l).straits.ends = s.straits.ends
  | [], _ => rfl
  | (n, g) :: t, s => by
    simp only [restoreLegs, restoreLegs_ends t]
    split
    · exact resendAll_ends _ _ _
    · rfl

theorem endAt_restoreLegs (s : State) (l : List (Nat × Leg)) (e : Nat) : endAt (restoreLegs s l) e = endAt s e := by
  simp only [endAt, restoreLegs_ends]

theorem endAt_postDeviceEvent (s : State) (code : Nat) (detail : List Byte) (e : Nat) :
    endAt (postDeviceEvent s code detail) e = endAt s e := by
  rw [Package.postDeviceEvent_frame]
  rfl

theorem endAt_postDeviceEvent_if (c : Prop) [Decidable c] (s : State) (code : Nat) (detail : List Byte) (e : Nat) :
    endAt (if c then postDeviceEvent s code detail else s) e = endAt s e := by
  split
  · exact endAt_postDeviceEvent s code detail e
  · rfl

/-! ## Retraining (R34) -/

/-- Forgetting when a strait went DOWN leaves its rails alone. -/
theorem railOk_clearDownAt {s : State} {e : Nat} (he : e < 24) (h : Tab.wf {} s.straits.ends = true) :
    (endAt (if straitDown s (endStrait e) then s else modStrait s (endStrait e) (fun x => { x with downAt := none })) e).railOk =
      (endAt s e).railOk := by
  split
  · rfl
  · rw [endAt_modStrait _ he h]

section
variable {s : State} {e rail : Nat} (he : e < 24) (hrail : rail < 5)
include he hrail

theorem railRetrain_inService (hin : (endAt s e).railOk.testBit rail = true) :
    exec (.railRetrain e rail false) s = .next (failRail s e rail) ∧ exec (.railRetrain e rail true) s = .next s := by
  simp [execRailRetrain, Nat.not_le.mpr he, Nat.not_le.mpr hrail, hin]

variable (hout : (endAt s e).railOk.testBit rail = false) (hdue : (endAt s e).failedAt.get 0 rail + 10 * msec ≤ s.dtime)
include hout hdue

theorem railRetrain_fails : exec (.railRetrain e rail false) s =
    .next (modStrait s (endStrait e) (fun x => { x with failedAt := x.failedAt.set 0 rail s.dtime })) := by
  simp [execRailRetrain, Nat.not_le.mpr he, Nat.not_le.mpr hrail, hout, Nat.not_lt.mpr hdue]

theorem railRetrain_restores (hends : Tab.wf {} s.straits.ends = true) :
    ∃ u, exec (.railRetrain e rail true) s = .next u ∧ (endAt u e).railOk = (endAt s e).railOk + 2 ^ rail := by
  simp only [exec_railRetrain, execRailRetrain, Nat.not_le.mpr he, Nat.not_le.mpr hrail, hout, Nat.not_lt.mpr hdue,
    or_self, if_false, Bool.false_eq_true, Bool.not_true]
  refine ⟨_, rfl, ?_⟩
  rw [endAt_restoreLegs, endAt_postDeviceEvent_if, endAt_postDeviceEvent,
    railOk_clearDownAt he (modStrait_wf _ _ hends), endAt_modStrait _ he hends]

end

/-! ## Delay measurement (R47) -/

theorem timeProbe_sends {s : State} {e : Nat} (he : e < 24) (hup : straitDown s (endStrait e) = false) :
    exec (.timeProbe e) s = .next (sendStripe (modEnd s e (fun x => { x with probe := some s.dtime, reply := none }))
      (endHop e) { leg := 0, kind := 2, rsnd := false, seq := 0, len := 0, src := 0, dst := 0 }) := by
  simp [execTimeProbe, Nat.not_le.mpr he, hup]

theorem timeReply_measures {s : State} {e turn : Nat} (trip : Nat) (hreply : (endAt s e).reply = some turn) :
    exec (.timeReply e trip turn) s =
      .next (modEnd s e (fun x => { x with half := halfTrip trip turn, probe := none, reply := none })) := by
  simp [execTimeReply, hreply]

/-! ## Reroute and severing (R44, R45) -/

theorem rerouteInstall_dies {s : State} {a b : Nat} {path : List Nat} (hab : a < b) (hb : b ≤ 8)
    (hcut : pathOpen s a b = false) (hpath : pathValid s a b path = true) :
    exec (.rerouteInstall (.dies a b) path) s =
      .next { s with straits := { s.straits with paths := s.straits.paths.put (16 * a + b) path } } := by
  simp [execRerouteInstall, Nat.not_le.mpr hab, Nat.not_lt.mpr hb, hcut, hpath]

theorem rerouteInstall_leg {s : State} {n : Nat} {path : List Nat} (hcut : (legAt s n).pathOk = false) (hne : path ≠ [])
    (hring : ∀ h ∈ path, h < 16)
    (hpath : pathValid s (Machine.posOf (legAt s n).src) (Machine.posOf (legAt s n).dst) path = true) :
    exec (.rerouteInstall (.leg n) path) s =
      .next (resendAll (setLeg s n { legAt s n with path := path, pathOk := true }) path (legAt s n).unacked) := by
  have hring' : path.any (16 ≤ ·) = false := by simpa using hring
  simp [execRerouteInstall, hcut, hne, hring', hpath]

theorem linkSeveredTimeout_stops {s : State} {n t : Nat} (ht : (legAt s n).thread = some t)
    (hcut : (legAt s n).pathOk = false)
    (hno : reachable s (Machine.posOf (legAt s n).src) (Machine.posOf (legAt s n).dst) = false)
    (hstop : (threadAt s t).stop = none) :
    exec (.linkSeveredTimeout n) s = .next (threadFault s t { code := 0x9030 }) := by
  simp [execLinkSeveredTimeout, ht, hcut, hno, hstop]

/-! ## STQREL (R42) and the journal of its writes (R132) -/

theorem journalOne_frame (s : State) (e : JournalEntry) :
    journalOne s e = { s with fw := (journalOne s e).fw, rings := (journalOne s e).rings,
                              devOverflow := (journalOne s e).devOverflow } := by
  unfold journalOne
  split
  · rfl
  · dsimp only
    split
    · rw [Package.postDeviceEvent_frame]
    · rfl

theorem journalSys_frame (s : State) (l : Level) (off : Nat) (v : Word) :
    journalSys s l off v = { s with fw := (journalSys s l off v).fw, rings := (journalSys s l off v).rings,
                                    devOverflow := (journalSys s l off v).devOverflow } := by
  unfold journalSys
  split
  · exact journalOne_frame s _
  · rfl

@[simp] theorem journalSys_mem (s : State) (l : Level) (off : Nat) (v : Word) : (journalSys s l off v).mem = s.mem := by
  rw [journalSys_frame]
@[simp] theorem journalSys_straits (s : State) (l : Level) (off : Nat) (v : Word) :
    (journalSys s l off v).straits = s.straits := by rw [journalSys_frame]

section
variable {s : State} {v : Word} (hgo : v.toNat.testBit 31 = true)
include hgo

theorem stqrelWrite_finds {q : SQueue} (hlook : v.toNat.testBit 20 = false)
    (hq : lookQueue s (bitsOf v.toNat 11 0) (bitsOf v.toNat 19 12) = some q) :
    stqrelWrite s v = { s with straits := { s.straits with
      stqrel := v &&& 0x003FFFFF#32,
      stqres := BitVec.ofNat 32 (1 + 2 * q.mdie + 8 * (q.base / 256) + 2 ^ 20 * q.log2 + 2 ^ 24 * (if q.kept then 1 else 0)),
      stqpos := BitVec.ofNat 32 (q.head + 2 ^ 16 * q.held.length) } } := by
  have hq' : lookQueue { s with straits := { s.straits with stqrel := v &&& 0x003FFFFF#32 } }
    (bitsOf v.toNat 11 0) (bitsOf v.toNat 19 12) = some q := hq
  simp [stqrelWrite, hgo, hlook, hq']

theorem stqrelWrite_findsNone (hlook : v.toNat.testBit 20 = false)
    (hq : lookQueue s (bitsOf v.toNat 11 0) (bitsOf v.toNat 19 12) = none) :
    stqrelWrite s v = { s with straits := { s.straits with stqrel := v &&& 0x003FFFFF#32, stqres := 0, stqpos := 0 } } := by
  have hq' : lookQueue { s with straits := { s.straits with stqrel := v &&& 0x003FFFFF#32 } }
    (bitsOf v.toNat 11 0) (bitsOf v.toNat 19 12) = none := hq
  simp [stqrelWrite, hgo, hlook, hq']

theorem stqrelWrite_releases (hrel : v.toNat.testBit 20 = true) (hone : v.toNat.testBit 21 = false) :
    stqrelWrite s v = freeKept { s with straits := { s.straits with stqrel := v &&& 0x003FFFFF#32 } }
      (bitsOf v.toNat 11 0) (fun q => q.qid == bitsOf v.toNat 19 12) := by
  simp [stqrelWrite, hgo, hrel, hone]

end

/-- What is left once the kept queues of a thread that satisfy `p` are free. -/
theorem mem_queues_freeKept {s : State} {t : Nat} {p : SQueue → Bool} {q : SQueue} :
    q ∈ (freeKept s t p).straits.queues ↔ q ∈ s.straits.queues ∧ (q.kept = true → q.thread = t → p q = false) := by
  have hgone : (!(q.kept && q.thread == t && p q)) = true ↔ (q.kept = true → q.thread = t → p q = false) := by
    rw [Bool.not_eq_true', ← Bool.not_eq_true, Bool.and_eq_true, Bool.and_eq_true, beq_iff_eq, ← Bool.not_eq_true (p q)]
    exact ⟨fun hn hk ht hp => hn ⟨⟨hk, ht⟩, hp⟩, fun himp ⟨⟨hk, ht⟩, hp⟩ => himp hk ht hp⟩
  exact List.mem_filter.trans (and_congr_right fun _ => hgone)

theorem stqrelRelease_frees {s : State} {l : Level} {v : Word} (hl : l ≠ .t) (hgo : v.toNat.testBit 31 = true)
    (hrel : v.toNat.testBit 20 = true) (hone : v.toNat.testBit 21 = false) :
    ∃ u, exec (.stqrelRelease l v) s = .next u ∧ u.mem = s.mem ∧
      (∀ q ∈ u.straits.queues, q.thread = bitsOf v.toNat 11 0 → q.qid = bitsOf v.toNat 19 12 → q.kept = false) ∧
      (∀ q ∈ s.straits.queues, q.thread ≠ bitsOf v.toNat 11 0 ∨ q.qid ≠ bitsOf v.toNat 19 12 → q ∈ u.straits.queues) := by
  refine ⟨_, (if_neg hl).trans (congrArg _ (stqrelWrite_releases hgo hrel hone)), journalSys_mem s l 0x48 v, ?_, ?_⟩
  · intro q hq hthread hqid
    have hleft := (mem_queues_freeKept.mp hq).2
    simpa [hthread, hqid] using hleft
  · intro q hq hother
    refine mem_queues_freeKept.mpr ⟨by simpa using hq, fun _ hthread => ?_⟩
    simpa using hother.resolve_left (not_not_intro hthread)

/-! ## The traffic of the straits -/

/-- Settles O45: each kind of traffic by the lemma about it above. What arrives on a hop is used or counted because all five
flits of an unstruck stripe carry good CRCs and the body is rebuilt as sent (`stripeReceive_unstruck`). -/
theorem straitTraffic : Obligations.StraitTraffic := by
  intro s n hop e rail trip turn a b tid0 path l v
  exact ⟨fun recs rest hmay => stripeSend_records hmay, fun c => flitOk_flit, fun q x r hmay => stripeSend_queued hmay,
    fun x r => stripeReceive_waits,
    fun x r hw hwait hends hwires hrails hup => ⟨stripeReceive_uses hw hwait hends hrails hup hwires,
      stripeReceive_countsBadHeader hw hwait hends hrails hup hwires⟩,
    fun x r hin => ⟨ackReceive_old hin, ackReceive_frees hin⟩,
    fun t => ackTimer_acknowledges,
    fun he hrail hout hdue => ⟨railRetrain_fails he hrail hout hdue, railRetrain_restores he hrail hout hdue⟩,
    railRetrain_inService, timeProbe_sends, timeReply_measures trip, rerouteInstall_dies, rerouteInstall_leg,
    linkSeveredTimeout_stops,
    fun hl hgo hlook => ⟨fun q hq => (if_neg hl).trans (congrArg _ (stqrelWrite_finds hgo hlook hq)),
      fun hq => (if_neg hl).trans (congrArg _ (stqrelWrite_findsNone hgo hlook hq))⟩,
    stqrelRelease_frees⟩

end Sys2Proof.Proofs.Straits
end

section
/-! SUPPORT. The command link: what a message that leaves changes, what becomes of a frame, of each request of the host and of
the sessions, and the statement about the events of the link. -/
namespace Sys2Proof.Proofs.CommandLink
open Sys2Proof.Machine Sys2Proof.Laws

/-! ## The arms of exec for the command link -/

@[simp] theorem exec_cmdLinkChange (port : Nat) (up : Bool) (s : State) :
    exec (.cmdLinkChange port up) s = execCmdLinkChange port up s := rfl
@[simp] theorem exec_notePortSwitch (s : State) : exec .notePortSwitch s = execNotePortSwitch s := rfl
@[simp] theorem exec_kcpFrameReceive (f : KcpFrame) (s : State) :
    exec (.kcpFrameReceive f) s = execKcpFrameReceive f s := rfl
@[simp] theorem exec_hello (s : State) : exec .hello s = execHello s := rfl
@[simp] theorem exec_confirm (s : State) : exec .confirm s = execConfirm s := rfl
@[simp] theorem exec_close (dev : Option Nat) (s : State) : exec (.close dev) s = execClose dev s := rfl
@[simp] theorem exec_sessionOpenTimeout (n : Nat) (s : State) :
    exec (.sessionOpenTimeout n) s = execSessionOpenTimeout n s := rfl
@[simp] theorem exec_sessionTimeout (n : Nat) (s : State) : exec (.sessionTimeout n) s = execSessionTimeout n s := rfl
@[simp] theorem exec_kick (s : State) : exec .kick s = execKick s := rfl
@[simp] theorem exec_regrd (s : State) : exec .regrd s = execRegrd s := rfl
@[simp] theorem exec_regwr (s : State) : exec .regwr s = execRegwr s := rfl
@[simp] theorem exec_stage (s : State) : exec .stage s = execStage s := rfl
@[simp] theorem exec_attreq (s : State) : exec .attreq s = execAttreq s := rfl

/-! ## Messages that leave (R50) -/

/-- Outputs that leave one after another. -/
theorem foldl_emitOut {α : Type} (o : α → Output) : ∀ (l : List α) (s : State),
    l.foldl (fun s a => emitOut s (o a)) s = { s with out := s.out ++ l.map o }
  | [], s => by simp
  | a :: l, s => by
    rw [List.foldl_cons, foldl_emitOut o l]
    simp [emitOut]

theorem sendKcp_frame (s : State) (port typ sess msgid : Nat) (payload : List Byte) :
    sendKcp s port typ sess msgid payload =
      { s with link := (sendKcp s port typ sess msgid payload).link, out := (sendKcp s port typ sess msgid payload).out } := by
  simp only [sendKcp, foldl_emitOut]
  split
  · rfl
  · split <;> rfl

@[simp] theorem sendKcp_mem (s : State) (port typ sess msgid : Nat) (payload : List Byte) :
    (sendKcp s port typ sess msgid payload).mem = s.mem := by rw [sendKcp_frame]
@[simp] theorem sendKcp_fw (s : State) (port typ sess msgid : Nat) (payload : List Byte) :
    (sendKcp s port typ sess msgid payload).fw = s.fw := by rw [sendKcp_frame]

/-- A message outside a session uses no sequence number: every session stays as it is. -/
@[simp] theorem sendKcp_outside_link (s : State) (port typ msgid : Nat) (payload : List Byte) :
    (sendKcp s port typ 0 msgid payload).link = s.link := by
  simp only [sendKcp, foldl_emitOut, if_true]

/-! ## Ports (R49) -/

section
variable {s : State} {up : Bool} (hen : linkEnabled s = true)
include hen

theorem cmdLinkChange_port0 (hup : s.link.up0 ≠ up) :
    exec (.cmdLinkChange 0 up) s = .next { s with link := { s.link with up0 := up, since0 := s.dtime } } := by
  simp [execCmdLinkChange, hen, hup]

theorem cmdLinkChange_port1 (hup : s.link.up1 ≠ up) :
    exec (.cmdLinkChange 1 up) s = .next { s with link := { s.link with up1 := up } } := by
  simp [execCmdLinkChange, hen, hup]

end

theorem notePortSwitch_leaves {s : State} (hport : s.link.notePort = 0) (hdown : s.link.up0 = false)
    (hdue : s.link.since0 + 10 * msec ≤ s.dtime) :
    exec .notePortSwitch s = .next { s with link := { s.link with notePort := 1 } } := by
  simp [execNotePortSwitch, hport, hdown, hdue]

theorem notePortSwitch_returns {s : State} (hport : s.link.notePort = 1) (hup : s.link.up0 = true)
    (hdue : s.link.since0 + 1000 * msec ≤ s.dtime) :
    exec .notePortSwitch s = .next { s with link := { s.link with notePort := 0 } } := by
  simp [execNotePortSwitch, hport, hup, hdue]

/-! ## Frames (R50, R51) -/

section
variable {s : State} {f : KcpFrame} (hen : linkEnabled s = true)
  (hport : (if f.port = 0 then s.link.up0 else s.link.up1) = true) (hok : frameOk f = true)
include hen hport hok

theorem kcpFrameReceive_outside (hsess : f.sess = 0) : exec (.kcpFrameReceive f) s = .next (joinMsg s f) := by
  simp [execKcpFrameReceive, hen, hport, hok, hsess]

/-- A frame of a session that is there: its TAG is checked, then its SEQ, then whether it ends the session. -/
theorem kcpFrameReceive_inSession (hsess : f.sess ≠ 0) (hmode : restrictedMode s = false) (hhas : hasSess s f.sess = true) :
    exec (.kcpFrameReceive f) s =
      if f.tag ≠ Config.hmac (sessAt s f.sess).key (kcpBytes f) then .next (badTag s f.sess)
      else if !seqOk (sessAt s f.sess) f.seq then .next { s with link := { s.link with replay := min 4095 (s.link.replay + 1) } }
      else if 2 ^ 40 ≤ f.seq then .next (dropSession s f.sess)
      else .next (joinMsg (setSess s f.sess (noteSeq (sessAt s f.sess) f.seq s.dtime)) f) := by
  simp [execKcpFrameReceive, hen, hport, hok, hsess, hmode, hhas]

end

/-! ## Sessions (R54, R55) -/

section
variable {s s1 : State} {m : KcpMsg}

/-- The number that a HELLO served in a state gives its session (R54). -/
def helloNo (s : State) : Nat := freeSess s 9 ((Config.freeWord s.freeCount).toNat % 0xFFFE + 1)

section
variable (htake : takeMsg s 0x01 = some (m, s1))
include htake

theorem hello_malformed (hlen : (msgPayload m).length ≠ 1217) : exec .hello s = .next (sendNak s1 m 1) := by
  simp [execHello, htake, hlen]

/-- The session that a HELLO begins has the number of `freeSess`, and waits for its CONFIRM. -/
theorem hello_begins {key : KeySlot} (hlen : (msgPayload m).length = 1217)
    (hslot : leNat (takeBytes (msgPayload m) 1216 1) < 8)
    (hkey : s1.link.keys.get none (leNat (takeBytes (msgPayload m) 1216 1)) = some key)
    (hroom : s1.link.sessions.length < 8) (hwf : Tab.wf {} s1.link.sessions = true) :
    ∃ u, exec .hello s = .next u ∧ (sessAt u (helloNo s1)).openS = false ∧ (sessAt u (helloNo s1)).hello = s1.dtime ∧
      (sessAt u (helloNo s1)).level = key.level ∧ (sessAt u (helloNo s1)).part = key.part ∧ u.mem = s1.mem := by
  simp only [exec_hello, execHello, htake, hlen, ne_eq, not_true_eq_false, if_false, if_pos hslot, hkey,
    if_neg (Nat.not_le.mpr hroom)]
  refine ⟨_, rfl, ?_⟩
  simp [helloNo, sessAt, setSess, get_set_same _ _ _ hwf]

end

section
variable (htake : takeMsg s 0x03 = some (m, s1)) (hhas : hasSess s1 m.sess = true)
include htake hhas

theorem confirm_opens (hmac : msgPayload m = Config.hmac (sessAt s1 m.sess).key (1 :: (sessAt s1 m.sess).th)) :
    exec .confirm s = .next (sendKcp
      (setSess s1 m.sess { sessAt s1 m.sess with openS := true, openedAt := s1.dtime, lastFrame := s1.dtime })
      m.port 0x04 m.sess m.msgid (Config.hmac (sessAt s1 m.sess).key (2 :: (sessAt s1 m.sess).th))) := by
  simp [execConfirm, htake, hhas, hmac]

theorem confirm_refuses (hmac : msgPayload m ≠ Config.hmac (sessAt s1 m.sess).key (1 :: (sessAt s1 m.sess).th)) :
    exec .confirm s = .next (dropSession (sendNak s1 m 4) m.sess) := by
  simp only [exec_confirm, execConfirm, htake, hhas, if_neg hmac, Bool.not_true, Bool.false_eq_true, if_false]

end

theorem close_byHost (htake : takeMsg s 0x05 = some (m, s1)) : exec (.close none) s = .next (dropSession s1 m.sess) := by
  simp [execClose, htake]

theorem close_byDevice {n : Nat} (hopen : openSess s n = true) :
    exec (.close (some n)) s = .next (dropSession (sendKcp s s.link.notePort 0x05 n 0 []) n) := by
  simp [execClose, hopen]

theorem sessionOpenTimeout_drops {n : Nat} (hhas : hasSess s n = true) (hopen : (sessAt s n).openS = false)
    (hdue : (sessAt s n).hello + 1000 * msec ≤ s.dtime) :
    exec (.sessionOpenTimeout n) s = .next (dropSession s n) := by
  simp [execSessionOpenTimeout, hhas, hopen, hdue]

theorem sessionTimeout_drops {n : Nat} (hopen : openSess s n = true)
    (hdue : (sessAt s n).lastFrame + 60000 * msec ≤ s.dtime ∨ (sessAt s n).openedAt + 86400000 * msec ≤ s.dtime) :
    exec (.sessionTimeout n) s = .next (dropSession s n) := by
  simp [execSessionTimeout, hopen, hdue]

/-! ## KICK (R52, R53, R81) -/

section
variable (htake : takeMsg s 0x10 = some (m, s1))
include htake

theorem kick_applies (hlen : (msgPayload m).length = 5) (hq : leNat (takeBytes (msgPayload m) 0 1) < 64)
    (hmay : m.level = .s ∨ (queueAt s1 (leNat (takeBytes (msgPayload m) 0 1))).part = m.part) :
    exec .kick s = .next (applyKick s1 (leNat (takeBytes (msgPayload m) 0 1))
      (BitVec.ofNat 32 (leNat (takeBytes (msgPayload m) 1 4)))) := by
  have hbad : ¬ (m.level ≠ .s ∧ (queueAt s1 (leNat (takeBytes (msgPayload m) 0 1))).part ≠ m.part) :=
    fun ⟨hl, hp⟩ => hmay.elim hl hp
  simp only [exec_kick, execKick, htake]
  rw [if_neg]
  rintro (h | h | h)
  · exact h hlen
  · exact Nat.not_le.mpr hq h
  · exact hbad h

theorem kick_malformed (hlen : (msgPayload m).length ≠ 5) :
    exec .kick s = .next (if hasSess s1 m.sess then sendNak s1 m 1 else s1) := by
  simp [execKick, htake, hlen]

end

/-! ## REGRD and REGWR (R52) -/

section
variable (hwait : hOnlyAt (regAddr (msgPayload m)) = false) (hcut : regReach s (regAddr (msgPayload m)) = false)
include hwait hcut

theorem regrd_waits (htake : takeMsg s 0x11 = some (m, s1)) (hlen : (msgPayload m).length = 5) :
    exec .regrd s = .next s := by
  simp [execRegrd, htake, hlen, hwait, hcut]

theorem regwr_waits (htake : takeMsg s 0x12 = some (m, s1)) (hlen : (msgPayload m).length = 9) :
    exec .regwr s = .next s := by
  simp [execRegwr, htake, hlen, hwait, hcut]

end

section
variable (hgo : hOnlyAt (regAddr (msgPayload m)) = true ∨ regReach s (regAddr (msgPayload m)) = true)
include hgo

theorem not_waits :
    ¬ (hOnlyAt (regAddr (msgPayload m)) = false ∧ regReach s (regAddr (msgPayload m)) = false) := by
  rintro ⟨honly, hcut⟩
  simp [honly, hcut] at hgo

/-- A request that goes on is journalled, refused for a register of level H only, and served otherwise. -/
theorem regrd_goes (htake : takeMsg s 0x11 = some (m, s1)) (hlen : (msgPayload m).length = 5) :
    exec .regrd s =
      let y := journalOne s1 (.message 0x11 m.sess m.msgid)
      if hOnlyAt (regAddr (msgPayload m)) then .next (sendNak y m 2)
      else .next (sendKcp { y with freeCount := y.freeCount + 1 } m.port 0x13 m.sess m.msgid
        (leBytes 4 (sysRead y false (regAddr (msgPayload m))).toNat)) := by
  simp [execRegrd, htake, hlen, not_waits hgo]

theorem regwr_goes (htake : takeMsg s 0x12 = some (m, s1)) (hlen : (msgPayload m).length = 9) :
    exec .regwr s =
      let y := journalOne s1 (.message 0x12 m.sess m.msgid)
      let t := sysWrite y (activeWriter y) false (regAddr (msgPayload m))
        (BitVec.ofNat 32 (leNat (takeBytes (msgPayload m) 5 4)))
      if hOnlyAt (regAddr (msgPayload m)) then .next (sendNak y m 2)
      else .next (sendKcp { t with freeCount := t.freeCount + 1 } m.port 0x13 m.sess m.msgid
        (leBytes 4 (sysRead t false (regAddr (msgPayload m))).toNat)) := by
  simp [execRegwr, htake, hlen, not_waits hgo]

end

/-! ## STAGE (R117, R118) -/

/-- Whole lines that are written lose their errors: memory and the firmware's state stay. -/
theorem writeLines_frame (s : State) (k n : Nat) :
    (writeLines s k n).mem = s.mem ∧ (writeLines s k n).fw = s.fw := by
  unfold writeLines
  split
  · exact List.foldlRecOn (motive := fun t : State => t.mem = s.mem ∧ t.fw = s.fw) _ _ ⟨rfl, rfl⟩ fun t ht _ _ => ht
  · exact ⟨rfl, rfl⟩

theorem putBytes_mem (s : State) (k : Nat) (l : List Byte) : (putBytes s k l).mem = (wrBytes s k l).mem :=
  (writeLines_frame _ _ _).1

theorem putBytes_fw (s : State) (k : Nat) (l : List Byte) : (putBytes s k l).fw = s.fw :=
  (writeLines_frame _ _ _).2

theorem journalOne_outside_probation {s : State} (e : JournalEntry) (h : s.fw.lr ≠ .probation) : journalOne s e = s := by
  simp [journalOne, h]

theorem lr_ne_probation_of_not_replacing {s : State} (h : replacing s = false) : s.fw.lr ≠ .probation := by
  intro hlr
  simp [replacing, hlr] at h

theorem stageMsg_malformed (hlen : (msgPayload m).length < 8) : stageMsg s m = sendNak s m 1 := by
  simp [stageMsg, hlen]

/-- The bytes of a STAGE without flags are written, and what was verified is no longer. -/
theorem stageMsg_writes (hlen : 8 ≤ (msgPayload m).length) (hsome : (msgPayload m).drop 8 ≠ [])
    (hmax : ((msgPayload m).drop 8).length ≤ 65536)
    (hfit : imgF (msgPayload m) 0 4 + ((msgPayload m).drop 8).length ≤ stageLen) (hflags : imgF (msgPayload m) 4 4 = 0)
    (hnew : replacing s = false) :
    (stageMsg s m).mem = (wrBytes s (stagePa + imgF (msgPayload m) 0 4) ((msgPayload m).drop 8)).mem ∧
      (stageMsg s m).fw.staged = max s.fw.staged (imgF (msgPayload m) 0 4 + ((msgPayload m).drop 8).length) ∧
      (stageMsg s m).fw.stagedOk = false := by
  simp only [stageMsg, hflags, hnew, if_neg (not_or.mpr ⟨Nat.not_lt.mpr hlen, Nat.not_lt.mpr hmax⟩),
    if_neg (not_or.mpr ⟨Nat.not_lt.mpr hfit, (by decide : ¬ 8 ≤ 0)⟩), Nat.zero_testBit, stageFlags, stageAck]
  simp [hsome, putBytes_mem, putBytes_fw]

theorem stage_malformed (htake : takeMsg s 0x30 = some (m, s1)) (hlen : (msgPayload m).length < 8) :
    exec .stage s = .next (sendNak (journalOne s1 (.message 0x30 m.sess m.msgid)) m 1) := by
  simp [execStage, htake, stageMsg_malformed hlen]

theorem exec_stage_unreplaced (htake : takeMsg s 0x30 = some (m, s1)) (hnew : replacing s1 = false) :
    exec .stage s = .next (stageMsg s1 m) := by
  simp [execStage, htake, journalOne_outside_probation _ (lr_ne_probation_of_not_replacing hnew)]

/-! ## ATTREQ (R119, R120) -/

section
variable (htake : takeMsg s 0x40 = some (m, s1)) (hlen : (msgPayload m).length = 38)
include htake hlen

theorem attreq_reports (hboot : s1.pkg.boot = .booted) (hcount : imgF (msgPayload m) 36 2 ≤ 1024) :
    exec .attreq s = .next (sendKcp s1 m.port 0x41 m.sess m.msgid
      (attReport s1 ((msgPayload m).take 32) (imgF (msgPayload m) 32 4) (imgF (msgPayload m) 36 2))) := by
  simp [execAttreq, htake, hlen, hboot, Nat.not_lt.mpr hcount]

theorem attreq_reportsFailure {c d : Nat} (hboot : s1.pkg.boot = .restricted c d) :
    exec .attreq s =
      .next (sendKcp s1 m.port 0x41 m.sess m.msgid (failReport s1 ((msgPayload m).take 32) c d)) := by
  simp [execAttreq, htake, hlen, hboot]

end

end

/-! ## The events of the command link -/

/-- Settles O46: each event by the lemma about it above. A frame of a session goes by `kcpFrameReceive_inSession`, the request
of a register by `regrd_goes` and `regwr_goes`, and a STAGE is not journalled because no image is being replaced. -/
theorem commandLinkEvents : Obligations.CommandLinkEvents := by
  intro s s1 m f n msgid up
  refine ⟨fun hen => ⟨cmdLinkChange_port0 hen, cmdLinkChange_port1 hen⟩, notePortSwitch_leaves, notePortSwitch_returns,
    fun hen hport hok => ⟨kcpFrameReceive_outside hen hport hok, fun hsess hmode hhas => ?frame⟩, rfl,
    fun htake => ⟨hello_malformed htake, fun key hlen hslot hkey hroom hwf => ?hello⟩,
    fun htake hhas => ⟨confirm_opens htake hhas, confirm_refuses htake hhas⟩, close_byHost, close_byDevice,
    sessionOpenTimeout_drops, sessionTimeout_drops, fun htake => ⟨kick_applies htake, kick_malformed htake⟩, ?wait,
    fun htake hlen hgo => ?regrd, fun htake hlen hgo => ?regwr, fun htake => ⟨stage_malformed htake, ?stage⟩,
    fun htake hlen => ⟨attreq_reports htake hlen, fun c d => attreq_reportsFailure htake hlen⟩⟩
  case frame =>
    rw [kcpFrameReceive_inSession hen hport hok hsess hmode hhas]
    exact ⟨fun htag => if_pos htag, fun htag hseq => by simp [htag, hseq],
      fun htag hseq hend => by rw [if_neg (not_not_intro htag), if_neg (by simp [hseq]), if_neg (Nat.not_le.mpr hend)]⟩
  case hello =>
    obtain ⟨u, hu⟩ := hello_begins htake hlen hslot hkey hroom hwf
    exact ⟨u, helloNo s1, hu⟩
  case wait =>
    intro i hi htake hlen honly hcut
    rcases List.mem_cons.mp hi with rfl | hi
    · exact regrd_waits honly hcut htake hlen
    · obtain rfl := List.mem_singleton.mp hi
      exact regwr_waits honly hcut htake hlen
  case regrd =>
    rw [regrd_goes hgo htake hlen]
    exact ⟨fun honly => if_pos honly, fun honly => if_neg (Bool.not_eq_true _ ▸ honly)⟩
  case regwr =>
    rw [regwr_goes hgo htake hlen]
    exact ⟨fun honly => if_pos honly, fun honly => if_neg (Bool.not_eq_true _ ▸ honly)⟩
  case stage =>
    intro hlen hsome hmax hfit hflags hnew
    exact ⟨_, exec_stage_unreplaced htake hnew, stageMsg_writes hlen hsome hmax hfit hflags hnew⟩

end Sys2Proof.Proofs.CommandLink
end

section
/-! SUPPORT. The PCIe endpoint: what a kick and a doorbell do, link changes, function-level resets and bindings, and the
statement about the events of the endpoint. -/
namespace Sys2Proof.Proofs.HostAttachment
open Sys2Proof.Machine Sys2Proof.Laws

/-! ## The arms of exec for the PCIe endpoint -/

@[simp] theorem exec_doorbellWrite (fn off size : Nat) (v : Word) (s : State) :
    exec (.doorbellWrite fn off size v) s = execDoorbellWrite fn off size v s := rfl
@[simp] theorem exec_pcieLinkChange (up : Bool) (rate width : Nat) (s : State) :
    exec (.pcieLinkChange up rate width) s = execPcieLinkChange up rate width s := rfl
@[simp] theorem exec_vfFlr (vf : Nat) (s : State) : exec (.vfFlr vf) s = execVfFlr vf s := rfl
@[simp] theorem exec_pfFlr (s : State) : exec .pfFlr s = execPfFlr s := rfl
@[simp] theorem exec_flrDone (fn : Nat) (s : State) : exec (.flrDone fn) s = execFlrDone fn s := rfl
@[simp] theorem exec_functionBind (part fn : Nat) (s : State) :
    exec (.functionBind part fn) s = execFunctionBind part fn s := rfl
@[simp] theorem exec_hostRequestTimeout (id : Nat) (s : State) :
    exec (.hostRequestTimeout id) s = execHostRequestTimeout id s := rfl

/-! ## Kicks (R81) -/

section
variable {s : State} {q : Nat} {v : Word}

theorem applyKick_stale (h : (v - (queueAt s q).pi).toNat = 0 ∨ 2 ^ 31 ≤ (v - (queueAt s q).pi).toNat ∨
      (queueAt s q).st = .disabled) :
    applyKick s q v = setQueue s q { queueAt s q with stale := min 255 ((queueAt s q).stale + 1) } :=
  if_pos (or_assoc.mpr h |>.symm)

section
variable (hst : (queueAt s q).st ≠ .disabled) (hahead : 0 < (v - (queueAt s q).pi).toNat)
  (hnear : (v - (queueAt s q).pi).toNat < 2 ^ 31)
include hst hahead hnear

theorem applyKick_fresh : applyKick s q v =
    if 2 ^ (queueAt s q).sizeLog2 < (v - (queueAt s q).ci).toNat then
      postQueueEvent s q 0x010D (queueAt s q).ci.toNat 0 (leBytes 4 v.toNat) 0 false
    else setQueue s q { queueAt s q with pi := v, st := if (queueAt s q).st = .idle then .run else (queueAt s q).st } := by
  refine if_neg ?_
  rintro (h | h | h)
  · exact hst h
  · exact Nat.ne_of_gt hahead h
  · exact Nat.not_le.mpr hnear h

theorem applyKick_moves (hfit : (v - (queueAt s q).ci).toNat ≤ 2 ^ (queueAt s q).sizeLog2) : applyKick s q v =
    setQueue s q { queueAt s q with pi := v, st := if (queueAt s q).st = .idle then .run else (queueAt s q).st } :=
  (applyKick_fresh hst hahead hnear).trans (if_neg (Nat.not_lt.mpr hfit))

theorem applyKick_beyond (hover : 2 ^ (queueAt s q).sizeLog2 < (v - (queueAt s q).ci).toNat) : applyKick s q v =
    postQueueEvent s q 0x010D (queueAt s q).ci.toNat 0 (leBytes 4 v.toNat) 0 false :=
  (applyKick_fresh hst hahead hnear).trans (if_pos hover)

end

end

/-! ## Doorbells (R53, R59) -/

/-- The state once the kicks that have been accepted have reached the front end. -/
def kicked (s : State) : State := takeKicks (s.link.msgs.filter (fun m => m.typ == 0x10)).length s

theorem kicked_of_no_kick {s : State} (h : ∀ m ∈ s.link.msgs, m.typ ≠ 0x10) : kicked s = s := by
  have hnone : s.link.msgs.filter (fun m => m.typ == 0x10) = [] := by simpa using h
  rw [kicked, hnone]
  rfl

section
variable {s : State} {fn : Nat} (hfn : fn ≤ 16) (hlive : fnLive s fn = true)
include hfn hlive

/-- A doorbell follows the accepted kicks. It is bad by its size, its place in its page or its function, or else a kick. -/
theorem doorbellWrite_live {off size : Nat} (v : Word) (hoff : off < 64 * 4096) :
    exec (.doorbellWrite fn off size v) s =
      if size ≠ 4 ∨ off % 4096 ≠ 0 ∨ foreignVf (kicked s) fn off then .next (badDoorbell (kicked s))
      else .next (applyKick (kicked s) (off / 4096) v) := by
  rw [exec_doorbellWrite, execDoorbellWrite, if_neg]
  · rfl
  · simp [hlive, hfn, hoff]

theorem doorbellWrite_kicks {q : Nat} (v : Word) (hq : q < 64) (hown : foreignVf (kicked s) fn (4096 * q) = false) :
    exec (.doorbellWrite fn (4096 * q) 4 v) s = .next (applyKick (kicked s) q v) := by
  rw [doorbellWrite_live hfn hlive v (by omega)]
  simp [hown]

theorem doorbellWrite_bad {off size : Nat} (v : Word) (hoff : off < 64 * 4096)
    (hbad : size ≠ 4 ∨ off % 4096 ≠ 0 ∨ foreignVf (kicked s) fn off = true) :
    exec (.doorbellWrite fn off size v) s = .next (badDoorbell (kicked s)) :=
  (doorbellWrite_live hfn hlive v hoff).trans (if_pos hbad)

theorem barRead_doorbell {q : Nat} (hq : q < 64) : barRead s fn (4096 * q) 4 = (queueAt s q).pi := by
  have hpage : 4096 * q < 0x40000 := by omega
  simp [barRead, hlive, Nat.not_lt.mpr hfn, hpage]

end

/-! ## The link (R57, R60) -/

section
variable {s : State} (hboot : s.pkg.boot = .booted)
include hboot

theorem pcieLinkChange_down (rate width : Nat) :
    exec (.pcieLinkChange false rate width) s = .next { s with pcie := { s.pcie with up := false, rate := 0, width := 0 } } := by
  simp [execPcieLinkChange, hboot]

theorem pcieLinkChange_trains {rate width : Nat} (h1 : 1 ≤ rate) (h6 : rate ≤ 6) (hw : width ∈ [1, 2, 4, 8, 16]) :
    exec (.pcieLinkChange true rate width) s =
      .next { s with pcie := { s.pcie with up := true, rate := rate, width := width } } := by
  have hwidth : trainedWidth width = true := List.contains_iff_mem.mpr hw
  simp [execPcieLinkChange, hboot, trainedRate, h1, h6, hwidth]

end

/-! ## Function-level resets (R62, R63) -/

/-- Setting a list of keys to one value that is not the default. -/
theorem get_foldl_set {α : Type} [DecidableEq α] {d v : α} (k : Nat → Nat) {i : Nat} : ∀ (l : List Nat) {t : Tab α},
    Tab.wf d t = true → (i ∈ l ∨ t.get d (k i) = v) → (l.foldl (fun t j => t.set d (k j) v) t).get d (k i) = v
  | [], _, _, h => h.resolve_left List.not_mem_nil
  | j :: l, t, hwf, h => by
    refine get_foldl_set k l (set_wf d (k j) v hwf) ?_
    by_cases hkey : k i = k j
    · exact .inr (hkey ▸ get_set_same d v (k i) hwf)
    · rw [get_set_other d v hkey]
      exact h.imp_left fun hmem => (List.mem_cons.mp hmem).resolve_left fun hij => hkey (congrArg k hij)

theorem get_maskAll {s : State} {fn j : Nat} (hj : j < vectorsOf fn) (h : Tab.wf false s.pcie.masked = true) :
    (maskAll s fn).get false (64 * fn + j) = true :=
  get_foldl_set (fun j => 64 * fn + j) _ h (.inl (List.mem_range.mpr hj))

/-- Resets of VFs touch nothing beyond the endpoint, and leave VF Enable and a reset of the PF as they are. -/
theorem vfResets_frame (s : State) : ∀ n, vfResets s n = { s with pcie := { s.pcie with
    flr := (vfResets s n).pcie.flr, masked := (vfResets s n).pcie.masked, unbound := (vfResets s n).pcie.unbound } }
  | 0 => rfl
  | n + 1 => by
    rw [vfResets, vfReset, vfResets_frame s n]

theorem vfResets_flr {s : State} (h : Tab.wf false s.pcie.flr = true) : ∀ n,
    Tab.wf false (vfResets s n).pcie.flr = true ∧ ∀ k, 1 ≤ k → k ≤ n → (vfResets s n).pcie.flr.get false k = true
  | 0 => ⟨h, fun k h1 h0 => by omega⟩
  | n + 1 => by
    obtain ⟨hwf, hset⟩ := vfResets_flr h n
    have hflr : (vfResets s (n + 1)).pcie.flr = (vfResets s n).pcie.flr.set false (n + 1) true := rfl
    rw [hflr]
    refine ⟨set_wf _ _ _ hwf, fun k h1 hk => ?_⟩
    by_cases hlast : k = n + 1
    · rw [hlast, get_set_same _ _ _ hwf]
    · rw [get_set_other _ _ hlast, hset k h1 (by omega)]

theorem vfFlr_begins {s : State} {vf : Nat} (h1 : 1 ≤ vf) (h16 : vf ≤ 16) : exec (.vfFlr vf) s = .next (vfReset s vf) :=
  if_pos ⟨h1, h16⟩

theorem pfFlr_resets {s : State} (h : Tab.wf false s.pcie.flr = true) :
    ∃ u, exec .pfFlr s = .next u ∧ u.pcie.pfFlr = true ∧ u.pcie.vfEn = false ∧
      (∀ k, 1 ≤ k → k ≤ 16 → u.pcie.flr.get false k = true) ∧
      u.queues = s.queues ∧ u.mem = s.mem ∧ u.sched = s.sched := by
  refine ⟨_, rfl, ?_, ?_, (vfResets_flr (s := { s with pcie := _ }) h 16).2, ?_, ?_, ?_⟩ <;> rw [vfResets_frame]

/-! ## Bindings (R58) and requests that time out (R61) -/

theorem functionBind_binds {s : State} {part fn : Nat} (h1 : 1 ≤ part) (h16 : part < 16) (hfn : fn ≤ 16) :
    exec (.functionBind part fn) s = .next { s with pcie := { s.pcie with
      bound := s.pcie.bound.set 0 part (fn + 1), unbound := s.pcie.unbound.set false fn false } } := by
  simp [execFunctionBind, Nat.not_le.mpr h16, Nat.not_lt.mpr hfn, Nat.ne_of_gt h1]

theorem hostRequestTimeout_fails {s : State} {id : Nat} {a : Acc} (ha : accAt s id = some a)
    (hwaits : (a.space = .host ∧ accReads a = true ∧ a.phase = .die) ∨ a.asked ≠ none)
    (hdue : a.since + 50 * msec ≤ s.dtime) :
    exec (.hostRequestTimeout id) s = .next (failAcc s a 0x9005 a.va 0) := by
  simp only [exec_hostRequestTimeout, execHostRequestTimeout, ha]
  exact if_pos ⟨hwaits, hdue⟩

/-! ## The events of the PCIe endpoint -/

/-- Settles O47: a doorbell is a kick after the kicks that came before it (`doorbellWrite_live`), and the outcomes of a kick are
those of `applyKick`; the other events by the lemma about each above. -/
theorem hostAttachmentEvents : Obligations.HostAttachmentEvents := by
  intro s fn q off size vf part id rate width v a
  refine ⟨fun hfn hlive hq hown => ?kick, fun hfn hlive hoff => doorbellWrite_bad hfn hlive v hoff, kicked_of_no_kick,
    fun hfn hlive hq => by rw [takeInput, barRead_doorbell hfn hlive hq],
    fun hboot => ⟨pcieLinkChange_down hboot rate width, pcieLinkChange_trains hboot⟩,
    fun h1 h16 => ⟨vfFlr_begins h1 h16, fun hwf j hj => get_maskAll ?vectors hwf⟩, pfFlr_resets, rfl,
    fun hvf => if_neg hvf, functionBind_binds, rfl, hostRequestTimeout_fails⟩
  case kick =>
    rw [doorbellWrite_kicks hfn hlive v hq hown]
    exact ⟨fun h => congrArg _ (applyKick_stale h),
      fun hst hahead hnear hfit => congrArg _ (applyKick_moves hst hahead hnear hfit),
      fun hst hahead hnear hover => congrArg _ (applyKick_beyond hst hahead hnear hover)⟩
  case vectors => rwa [vectorsOf, if_neg (Nat.ne_of_gt h1)]

end Sys2Proof.Proofs.HostAttachment
end

section
/-! SUPPORT. The fronthaul and the time unit: what leaves and what a received frame does, the turns of downlink records, the
registers of steering entries and ports, lock, holdover and slew, and the statement about their events. -/
namespace Sys2Proof.Proofs.Fronthaul
open Sys2Proof.Machine Sys2Proof.Laws

/-! ## The arms of exec for the fronthaul and the time unit -/

@[simp] theorem exec_fhFrameReceive (f : FhFrame) (s : State) : exec (.fhFrameReceive f) s = execFhFrameReceive f s := rfl
@[simp] theorem exec_fhdlyreqGo (l : Level) (v : Word) (s : State) : exec (.fhdlyreqGo l v) s = execFhdlyreqGo l v s := rfl
@[simp] theorem exec_downlinkSend (i : Nat) (s : State) : exec (.downlinkSend i) s = execDownlinkSend i s := rfl
@[simp] theorem exec_fhstcmdWrite (l : Level) (v : Word) (s : State) : exec (.fhstcmdWrite l v) s = execFhstcmdWrite l v s := rfl
@[simp] theorem exec_fhstcmdRead (l : Level) (v : Word) (s : State) : exec (.fhstcmdRead l v) s = execFhstcmdRead l v s := rfl
@[simp] theorem exec_fhstcmdInvalidate (l : Level) (v : Word) (s : State) :
    exec (.fhstcmdInvalidate l v) s = execFhstcmdInvalidate l v s := rfl
@[simp] theorem exec_fhlpcfgWrite (l : Level) (lp : Nat) (v : Word) (s : State) :
    exec (.fhlpcfgWrite l lp v) s = execFhlpcfgWrite l lp v s := rfl
@[simp] theorem exec_ptpMessage (lp : Nat) (m : List Byte) (s : State) : exec (.ptpMessage lp m) s = execPtpMessage lp m s := rfl
@[simp] theorem exec_esmcMessage (lp ql : Nat) (s : State) : exec (.esmcMessage lp ql) s = execEsmcMessage lp ql s := rfl
@[simp] theorem exec_ptpMessageSend (lp : Nat) (m : PtpSend) (s : State) :
    exec (.ptpMessageSend lp m) s = execPtpMessageSend lp m s := rfl
@[simp] theorem exec_esmcMessageSend (lp ql : Nat) (s : State) :
    exec (.esmcMessageSend lp ql) s = execEsmcMessageSend lp ql s := rfl
@[simp] theorem exec_fhLinkTraining (port : Nat) (up : Bool) (s : State) :
    exec (.fhLinkTraining port up) s = execFhLinkTraining port up s := rfl
@[simp] theorem exec_timeLock (ptp : Nat) (s : State) : exec (.timeLock ptp) s = execTimeLock ptp s := rfl
@[simp] theorem exec_timeHoldover (cause : Nat) (s : State) : exec (.timeHoldover cause) s = execTimeHoldover cause s := rfl
@[simp] theorem exec_timeSlewEnd (s : State) : exec .timeSlewEnd s = execTimeSlewEnd s := rfl

/-! ## Ports (R64, R75) -/

theorem lport_modPort_same {s : State} (lp : Nat) (f : LPort → LPort) (h : Tab.wf {} s.fh.ports = true) :
    lport (modPort s lp f) lp = f (lport s lp) := get_set_same _ _ lp h

theorem lport_modPort_other (s : State) {lp k : Nat} (f : LPort → LPort) (hk : k ≠ lp) :
    lport (modPort s lp f) k = lport s k := get_set_other _ _ hk _

theorem modPort_wf {s : State} (lp : Nat) (f : LPort → LPort) (h : Tab.wf {} s.fh.ports = true) :
    Tab.wf {} (modPort s lp f).fh.ports = true := set_wf _ lp _ h

/-- A change that keeps whether a port has a link keeps it of every port. -/
theorem up_modPort {s : State} (lp k : Nat) (f : LPort → LPort) (h : Tab.wf {} s.fh.ports = true)
    (hf : ∀ p, (f p).up = p.up) : (lport (modPort s lp f) k).up = (lport s k).up := by
  by_cases hk : k = lp
  · rw [hk, lport_modPort_same lp f h, hf]
  · rw [lport_modPort_other s f hk]

/-! ## Received frames (R64, R65, R70, R76) -/

section
variable {s : State} {f : FhFrame} (hlive : portLive s f.lp = true)
include hlive

theorem fhFrameReceive_tooLong (hsize : 9000 < f.size) : exec (.fhFrameReceive f) s = .next (dropFrame s f.lp) := by
  simp [execFhFrameReceive, hlive, hsize]

section
variable (hsize : f.size ≤ 9000)
include hsize

section
variable (hecpri : f.ethertype = 0xAEFE)
include hecpri

theorem fhFrameReceive_badHeader (hbad : f.revision ≠ 1 ∨ f.concat = true) :
    exec (.fhFrameReceive f) s = .next (dropFrame s f.lp) := by
  have hdrop : f.revision ≠ 1 ∨ f.concat = true ∨ f.msgType ≠ 5 ∧ (!f.eBit) = true := hbad.imp_right .inl
  simp only [exec_fhFrameReceive, execFhFrameReceive, hlive, if_neg (Nat.not_lt.mpr hsize), if_pos hecpri, if_pos hdrop,
    Bool.not_true, Bool.false_eq_true, if_false]

theorem fhFrameReceive_steers (hrev : f.revision = 1) (hconcat : f.concat = false) (hE : f.eBit = true)
    (htype : f.msgType = 0) : exec (.fhFrameReceive f) s = .next (steerSections s f f.sections) := by
  simp [execFhFrameReceive, hlive, Nat.not_lt.mpr hsize, hecpri, hrev, hconcat, hE, htype]

end

theorem fhFrameReceive_ptp (hether : f.ethertype = 0x88F7) :
    exec (.fhFrameReceive f) s = .next (takePtp s f.lp f.body) := by
  simp [execFhFrameReceive, hlive, Nat.not_lt.mpr hsize, hether]

end

end

theorem steerSections_noMatch {s : State} {f : FhFrame} {c : FhSection} (hnone : steerMatch s f c = none) :
    steerSections s f [c] = modPort s f.lp (fun p => { p with noMatch := min 65535 (p.noMatch + 1) }) := by
  simp [steerSections, steerSection, hnone]

theorem takePtp_keeps {s : State} {lp : Nat} (m : List Byte) (hrole : (lport s lp).cfg.toNat % 4 ≠ 0) :
    takePtp s lp m = { s with time := { s.time with ptp := s.time.ptp ++ [(lp, s.dtime - phyLatency s lp, m)] } } :=
  if_neg hrole

/-! ## Delay measurement (R66, R75) -/

/-- A mask whose low n bits are set keeps the low n bits. -/
theorem and_mod_of_mask {a b n : Nat} (h : b % 2 ^ n = 2 ^ n - 1) : (a &&& b) % 2 ^ n = a % 2 ^ n := by
  rw [Nat.and_mod_two_pow, h, Nat.and_two_pow_sub_one_eq_mod, Nat.mod_mod]

/-- The mask of FHDLYREQ keeps GO, MEAS and the port, and the second mask clears GO of what the first has kept. -/
theorem dlyreq_fields (v : Word) :
    (v &&& 0x8000FF0F#32).toNat.testBit 31 = v.toNat.testBit 31 ∧ (v &&& 0x8000FF0F#32).toNat % 16 = v.toNat % 16 ∧
      bitsOf (v &&& 0x8000FF0F#32).toNat 15 8 = bitsOf v.toNat 15 8 ∧
      v &&& 0x8000FF0F#32 &&& 0x0000FF0F#32 = v &&& 0x0000FF0F#32 := by
  refine ⟨?_, ?_, ?_, by rw [BitVec.and_assoc]; rfl⟩ <;> rw [BitVec.toNat_and]
  · rw [Nat.testBit_and, show (0x8000FF0F#32).toNat.testBit 31 = true by decide, Bool.and_true]
  · exact and_mod_of_mask (n := 4) (by decide)
  · rw [bitsOf, Nat.shiftRight_and_distrib]
    exact and_mod_of_mask (n := 8) (by decide)

theorem dlyreqWrite_sends {s : State} {v : Word} (hgo : v.toNat.testBit 31 = true)
    (hlive : portLive s (v.toNat % 16) = true) :
    dlyreqWrite s v = sendDelayReq { s with fh := { s.fh with dlyreq := v &&& 0x0000FF0F#32 } }
      (v.toNat % 16) (bitsOf v.toNat 15 8) := by
  obtain ⟨hbit, hport, hmeas, hmask⟩ := dlyreq_fields v
  have hlive' : portLive { s with fh := { s.fh with dlyreq := v &&& 0x8000FF0F#32 } } (v.toNat % 16) = true := hlive
  simp only [dlyreqWrite, pendingDelay, hbit, hport, hmeas, hmask, hgo, hlive', and_self, if_true]

theorem dlyreqWrite_waits {s : State} {v : Word} (hdead : portLive s (v.toNat % 16) = false) :
    dlyreqWrite s v = { s with fh := { s.fh with dlyreq := v &&& 0x8000FF0F#32 } } := by
  obtain ⟨-, hport, -, -⟩ := dlyreq_fields v
  have hdead' : portLive { s with fh := { s.fh with dlyreq := v &&& 0x8000FF0F#32 } } (v.toNat % 16) = false := hdead
  simp only [dlyreqWrite, pendingDelay, hport, hdead', Bool.false_eq_true, and_false, if_false]

theorem sendDelayReq_up {s : State} (lp meas k : Nat) (h : Tab.wf {} s.fh.ports = true) :
    (lport (sendDelayReq s lp meas) k).up = (lport s k).up :=
  up_modPort lp k (fun p => { p with measStamp := s.dtime }) h fun _ => rfl

/-- A request that waits for its port changes what a port remembers of it, and nothing of links or memory. -/
theorem pendingDelay_keeps {s : State} (h : Tab.wf {} s.fh.ports = true) :
    (∀ k, (lport (pendingDelay s) k).up = (lport s k).up) ∧ (pendingDelay s).mem = s.mem := by
  simp only [pendingDelay]
  split
  · exact ⟨fun k => sendDelayReq_up _ _ k h, rfl⟩
  · exact ⟨fun _ => rfl, rfl⟩

/-! ## Downlink records (R74) -/

@[simp] theorem length_rdBytes (s : State) : ∀ n a, (rdBytes s a n).length = n
  | 0, _ => rfl
  | n + 1, a => by simp [rdBytes, length_rdBytes s n]

@[simp] theorem length_readUnits (s : State) (e : List Word) (pos : Nat) : ∀ n, (readUnits s e pos n).length = 64 * n
  | 0 => rfl
  | n + 1 => by simp [readUnits, length_readUnits s e pos n, Nat.mul_succ]

/-- A field that lies in unit u of a record. -/
theorem hdrField_readUnits (s : State) (e : List Word) (pos : Nat) {u i k : Nat} (hik : i + k ≤ 64) : ∀ {n}, u < n →
    hdrField (readUnits s e pos n) (64 * u + i) k = hdrField (rdBytes s (unitKey e pos u) 64) i k
  | n + 1, hu => by
    by_cases hlast : u = n
    · subst hlast
      rw [readUnits, hdrField, ← List.drop_drop, List.drop_left' (length_readUnits s e pos u)]
      rfl
    · have hlen : 64 * u + i + k ≤ 64 * n := by omega
      rw [← hdrField_readUnits s e pos hik (show u < n by omega), readUnits, hdrField, hdrField,
        List.drop_append_of_le_length (by rw [length_readUnits]; omega),
        List.take_append_of_le_length (by rw [List.length_drop, length_readUnits]; omega)]

/-- The header of the record at the position of an entry's ring. -/
def recHead (s : State) (i : Nat) : List Byte := rdBytes s (unitKey (steerEntry s i) (steerRt s i).pos 0) 64
/-- The units of that record. -/
def recUnits (s : State) (i : Nat) : Nat := 1 + (hdrField (recHead s i) 20 4 + 63) / 64
/-- The record itself. -/
def recBytes (s : State) (i : Nat) : List Byte := readUnits s (steerEntry s i) (steerRt s i).pos (recUnits s i)

/-- The entry is one of the downlink, and its next record stands whole in its ring. -/
def RecordStands (s : State) (i : Nat) : Prop :=
  eV (steerEntry s i) = true ∧ eDown (steerEntry s i) = true ∧
    allFull s (unitKey (steerEntry s i) (steerRt s i).pos 0) 16 = true ∧
    ∀ u < recUnits s i, allFull s (unitKey (steerEntry s i) (steerRt s i).pos u) 16 = true

/-- The record is of the entry's eAxC, and one that can be sent. -/
def RecordFits (s : State) (i : Nat) : Prop :=
  Nat.land (Nat.xor (hdrField (recHead s i) 8 2) (eEaxc (steerEntry s i))) (eMask (steerEntry s i)) = 0 ∧
    (ePlane (steerEntry s i) ≠ 1 ∨ (6 ≤ hdrField (recHead s i) 20 4 ∧ hdrField (recHead s i) 20 4 + 8 ≤ 9000 ∧
      (hdrField (recBytes s i) 69 1 = 1 ∨ hdrField (recBytes s i) 69 1 = 3)))

section
variable {s : State} {i : Nat}

/-- The section type of a C-plane payload that is long enough to have one. -/
def sectionType (s : State) (i : Nat) : Nat :=
  if hdrField (recHead s i) 20 4 < 6 then 0
  else hdrField (rdBytes s (unitKey (steerEntry s i) (steerRt s i).pos 1) 64) 5 1

theorem sectionType_eq (h : 6 ≤ hdrField (recHead s i) 20 4) : sectionType s i = hdrField (recBytes s i) 69 1 := by
  have hsecond : 1 < recUnits s i := by
    unfold recUnits
    omega
  exact (if_neg (Nat.not_lt.mpr h)).trans (hdrField_readUnits s _ _ (by decide : 5 + 1 ≤ 64) hsecond).symm

/-- Only the launch time and the port decide about a record that stands and fits. -/
theorem downTurn_of_fits (hstands : RecordStands s i) (hfits : RecordFits s i) :
    downTurn s i =
      if hdrField (recHead s i) 0 8 + lateBy < s.dtime then .drop (recUnits s i)
      else if s.dtime < hdrField (recHead s i) 0 8 ∨ !portLive s (eLport (steerEntry s i)) then .wait
      else .send (recUnits s i) := by
  obtain ⟨hv, hdown, hhead, hunits⟩ := hstands
  obtain ⟨haxc, hplane⟩ := hfits
  have hsent : ¬ (ePlane (steerEntry s i) = 1 ∧
      ((sectionType s i ≠ 1 ∧ sectionType s i ≠ 3) ∨ 9000 < hdrField (recHead s i) 20 4 + 8)) := by
    rintro ⟨hcplane, hbad⟩
    obtain ⟨hlong, hshort, htype⟩ := hplane.resolve_left (not_not_intro hcplane)
    rw [sectionType_eq hlong] at hbad
    omega
  have hwhole : (!(List.range (recUnits s i)).all
      (fun u => allFull s (unitKey (steerEntry s i) (steerRt s i).pos u) 16)) = false := by simpa using hunits
  unfold downTurn
  exact (if_neg (by simp [hv, hdown, hhead])).trans ((if_neg (Bool.eq_false_iff.mp hwhole)).trans
    (ite_congr (propext ((or_iff_right (not_not_intro haxc)).trans (or_iff_right hsent)))
      (fun _ => rfl) (fun _ => rfl)))

section
variable (hstands : RecordStands s i) (hfits : RecordFits s i)
include hstands hfits

theorem downTurn_due (hearly : hdrField (recHead s i) 0 8 ≤ s.dtime) (hlate : s.dtime ≤ hdrField (recHead s i) 0 8 + lateBy)
    (hlive : portLive s (eLport (steerEntry s i)) = true) : downTurn s i = .send (recUnits s i) := by
  rw [downTurn_of_fits hstands hfits, if_neg (Nat.not_lt.mpr hlate), if_neg (by simp [hlive, hearly])]

theorem downTurn_late (hlate : hdrField (recHead s i) 0 8 + lateBy < s.dtime) : downTurn s i = .drop (recUnits s i) :=
  (downTurn_of_fits hstands hfits).trans (if_pos hlate)

theorem downTurn_early (hearly : s.dtime < hdrField (recHead s i) 0 8) : downTurn s i = .wait := by
  rw [downTurn_of_fits hstands hfits, if_neg (by omega), if_pos (.inl hearly)]

end

section
variable (hfirst : downFirst s i = true)
include hfirst

theorem downlinkSend_sends {n : Nat} (hturn : downTurn s i = .send n) :
    exec (.downlinkSend i) s = .next (leaveRecord (sendRecord { s with fh := { s.fh with turn := (i + 1) % 4096 } }
      (steerEntry s i) (readUnits s (steerEntry s i) (steerRt s i).pos n)) i (steerEntry s i) n true) := by
  simp [execDownlinkSend, hfirst, hturn]

theorem downlinkSend_drops {n : Nat} (hturn : downTurn s i = .drop n) :
    exec (.downlinkSend i) s =
      .next (leaveRecord { s with fh := { s.fh with turn := (i + 1) % 4096 } } i (steerEntry s i) n false) := by
  simp [execDownlinkSend, hfirst, hturn]

theorem downlinkSend_waits (hturn : downTurn s i = .wait) : exec (.downlinkSend i) s = .next s := by
  simp [execDownlinkSend, hfirst, hturn]

end

end

/-! ## The steering table and the port registers (R69, R75) -/

@[simp] theorem journalSys_fh (s : State) (l : Level) (off : Nat) (v : Word) : (journalSys s l off v).fh = s.fh := by
  rw [Straits.journalSys_frame]

/-- Reading an entry fills the register's words, and changes nothing else. -/
theorem writeStw_frame (s : State) (e : List Word) : ∀ n,
    writeStw s e n = { s with fh := { s.fh with stw := (writeStw s e n).fh.stw } }
  | 0 => rfl
  | n + 1 => by
    rw [writeStw, writeStw_frame s e n]

theorem writeStw_stw {s : State} (e : List Word) (h : Tab.wf 0 s.fh.stw = true) : ∀ n,
    Tab.wf 0 (writeStw s e n).fh.stw = true ∧ ∀ j < n, (writeStw s e n).fh.stw.get 0 j = e.getD j 0
  | 0 => ⟨h, fun j hj => by omega⟩
  | n + 1 => by
    obtain ⟨hwf, hwords⟩ := writeStw_stw e h n
    have hstw : (writeStw s e (n + 1)).fh.stw = (writeStw s e n).fh.stw.set 0 n (e.getD n 0) := rfl
    rw [hstw]
    refine ⟨set_wf _ _ _ hwf, fun j hj => ?_⟩
    by_cases hlast : j = n
    · rw [hlast, get_set_same _ _ _ hwf]
    · rw [get_set_other _ _ hlast, hwords j (by omega)]

/-- The state once FHSTCMD has stored its fields. -/
def commanded (s : State) (v : Word) : State :=
  { s with fh := { s.fh with index := v.toNat % 2 ^ 12, op := bitsOf v.toNat 13 12 } }

/-- The state once FHSTHITS and FHSTPOS show an entry's runtime, without an error. -/
def showRt (s : State) (i : Nat) : State :=
  { s with fh := { s.fh with hits := (steerRt s i).hits, stpos := (steerRt s i).pos, err := false } }

@[simp] theorem showRt_stw (s : State) (i : Nat) : (showRt s i).fh.stw = s.fh.stw := rfl

theorem showRt_writeStw {s : State} (e : List Word) (i n : Nat) (h : Tab.wf 0 s.fh.stw = true) :
    (showRt (writeStw s e n) i).fh.err = false ∧ (showRt (writeStw s e n) i).fh.hits = (steerRt s i).hits ∧
      (showRt (writeStw s e n) i).fh.stpos = (steerRt s i).pos ∧
      (∀ j < n, (showRt (writeStw s e n) i).fh.stw.get 0 j = e.getD j 0) ∧ (showRt (writeStw s e n) i).mem = s.mem := by
  refine ⟨rfl, ?_, ?_, by simpa using (writeStw_stw e h n).2, ?_⟩ <;> rw [writeStw_frame] <;> rfl

section
variable {s : State} {v : Word} (hgo : v.toNat.testBit 31 = true)
include hgo

/-- What each OP does once GO is written. -/
theorem fhstcmd_go : fhstcmd s v =
    let i := v.toNat % 2 ^ 12
    let t := commanded s v
    if bitsOf v.toNat 13 12 = 0 then
      (if steerRefused t (readStw t) then setFhErr t true else setFhErr (setSteer t i (readStw t)) false)
    else if bitsOf v.toNat 13 12 = 1 then showRt (writeStw t (steerEntry t i) 8) i
    else if bitsOf v.toNat 13 12 = 2 then setFhErr (setSteer t i (invalidEntry (steerEntry t i))) false
    else setFhErr t true :=
  if_neg (by simp [hgo])

theorem fhstcmd_writes (hop : bitsOf v.toNat 13 12 = 0)
    (hok : steerRefused (commanded s v) (readStw (commanded s v)) = false) :
    fhstcmd s v = setFhErr (setSteer (commanded s v) (v.toNat % 2 ^ 12) (readStw (commanded s v))) false := by
  simp [fhstcmd_go hgo, hop, hok]

theorem fhstcmd_refuses (hop : bitsOf v.toNat 13 12 = 0)
    (hbad : steerRefused (commanded s v) (readStw (commanded s v)) = true) :
    fhstcmd s v = setFhErr (commanded s v) true := by
  simp [fhstcmd_go hgo, hop, hbad]

theorem fhstcmd_reads (hop : bitsOf v.toNat 13 12 = 1) (h : Tab.wf 0 s.fh.stw = true) :
    (fhstcmd s v).fh.err = false ∧ (fhstcmd s v).fh.hits = (steerRt s (v.toNat % 2 ^ 12)).hits ∧
      (fhstcmd s v).fh.stpos = (steerRt s (v.toNat % 2 ^ 12)).pos ∧
      (∀ j < 8, (fhstcmd s v).fh.stw.get 0 j = (steerEntry s (v.toNat % 2 ^ 12)).getD j 0) ∧
      (fhstcmd s v).mem = s.mem := by
  have hread : fhstcmd s v = showRt (writeStw (commanded s v) (steerEntry (commanded s v) (v.toNat % 2 ^ 12)) 8)
      (v.toNat % 2 ^ 12) := by
    simp [fhstcmd_go hgo, hop]
  rw [hread]
  exact showRt_writeStw (s := commanded s v) (steerEntry s (v.toNat % 2 ^ 12)) (v.toNat % 2 ^ 12) 8 h

theorem fhstcmd_invalidates (hop : bitsOf v.toNat 13 12 = 2) :
    fhstcmd s v = setFhErr (setSteer (commanded s v) (v.toNat % 2 ^ 12)
      (invalidEntry (steerEntry (commanded s v) (v.toNat % 2 ^ 12)))) false := by
  simp [fhstcmd_go hgo, hop]

end

theorem fhlpcfgWrite_sets {s : State} {lp : Nat} {v : Word} (hok : fhlpRefused s lp v.toNat = false) :
    fhlpcfgWrite s lp v = modPort s lp (fun p => { p with cfg := v &&& (if lp % 4 = 0 then 0xF#32 else 0x7#32) }) := by
  simp [fhlpcfgWrite, hok]

/-- Training brings all the ports of a link to the same state. -/
theorem trainPort_up {s : State} (port : Nat) (up : Bool) (h : Tab.wf {} s.fh.ports = true) : ∀ n,
    Tab.wf {} (trainPort port up n s).fh.ports = true ∧ (trainPort port up n s).mem = s.mem ∧
      ∀ k < n, (lport (trainPort port up n s) (4 * port + k)).up = up
  | 0 => ⟨h, rfl, fun k hk => by omega⟩
  | n + 1 => by
    obtain ⟨hwf, hmem, hup⟩ := trainPort_up port up h n
    refine ⟨modPort_wf _ _ hwf, hmem, fun k hk => ?_⟩
    rw [trainPort]
    by_cases hlast : k = n
    · rw [hlast, lport_modPort_same _ _ hwf]
    · rw [lport_modPort_other _ _ (by omega), hup k (by omega)]

theorem fhLinkTraining_trains {s : State} {port : Nat} (up : Bool) (hport : port < 4) (h : Tab.wf {} s.fh.ports = true) :
    ∃ u, exec (.fhLinkTraining port up) s = .next u ∧ (∀ k < 4, (lport u (4 * port + k)).up = up) ∧ u.mem = s.mem := by
  obtain ⟨hwf, hmem, hup⟩ := trainPort_up port up h 4
  obtain ⟨hkeeps, hkeepsMem⟩ := pendingDelay_keeps hwf
  exact ⟨_, if_pos hport, fun k hk => (hkeeps _).trans (hup k hk), hkeepsMem.trans hmem⟩

/-! ## Time and frequency messages (R76) -/

section
variable {s : State} {lp : Nat} (hlive : portLive s lp = true)
include hlive

theorem ptpMessage_taken (m : List Byte) : exec (.ptpMessage lp m) s = .next (takePtp s lp m) := if_pos hlive

theorem esmcMessage_taken (ql : Nat) :
    exec (.esmcMessage lp ql) s = .next { s with fh := { s.fh with ql := s.fh.ql.set 0 lp ql } } := if_pos hlive

theorem esmcMessageSend_sends (ql : Nat) : exec (.esmcMessageSend lp ql) s =
    .next (emitOut s (.fh (fhHead s lp 0x8809 esmcAddr) (.other (0x0A :: leBytes 1 ql)))) := if_pos hlive

section
variable {k : PtpSend} (hrole : (lport s lp).cfg.toNat % 4 = 2 ∧ (k.body.headD 0).toNat % 16 ≠ 1 ∨
  (lport s lp).cfg.toNat % 4 = 1 ∧ (k.body.headD 0).toNat % 16 = 1)
include hrole

theorem ptpMaySend_of_role : ptpMaySend s lp k = true := by
  simpa [ptpMaySend, hlive] using hrole

theorem ptpMessageSend_event (hevent : (k.body.headD 0).toNat % 16 < 4) :
    exec (.ptpMessageSend lp k) s = .next (emitOut
      { s with time := { s.time with sent := s.time.sent ++ [(lp, s.dtime + phyLatency s lp, k.body)] } }
      (.fh (fhHead s lp 0x88F7 (ptpAddr k.forwardable)) (.other k.body))) := by
  simp only [exec_ptpMessageSend, execPtpMessageSend, ptpMaySend_of_role hlive hrole, if_pos hevent]
  rfl

theorem ptpMessageSend_general (hgeneral : 4 ≤ (k.body.headD 0).toNat % 16) :
    exec (.ptpMessageSend lp k) s =
      .next (emitOut s (.fh (fhHead s lp 0x88F7 (ptpAddr k.forwardable)) (.other k.body))) := by
  simp only [exec_ptpMessageSend, execPtpMessageSend, ptpMaySend_of_role hlive hrole, if_neg (Nat.not_lt.mpr hgeneral)]
  rfl

end

end

/-! ## Lock, holdover and slew (R46, R77) -/

theorem timeLock_unheard {s : State} (ptp : Nat) (h : hearsMaster s = false) : exec (.timeLock ptp) s = .next s := by
  simp [execTimeLock, h]

section
variable {s : State} {ptp : Nat} (hhears : hearsMaster s = true) (hfree : s.time.locked = false)
include hhears hfree

theorem timeLock_steps (hfirst : s.time.everLocked = false) (hbehind : s.dtime < ptp) :
    ∃ u, exec (.timeLock ptp) s = .next u ∧ u.dtime = ptp ∧ u.time.locked = true ∧ u.time.everLocked = true ∧
      u.mem = s.mem := by
  refine ⟨_, (if_neg (by simp [hhears, hfree])).trans (if_pos ⟨by simp [hfirst], hbehind⟩), ?_⟩
  simp only [postLocked]
  rw [Package.postDeviceEvent_frame]
  exact ⟨rfl, rfl, rfl, rfl⟩

theorem timeLock_slews (hagain : s.time.everLocked = true) (hoff : (ptp : Int) - s.dtime ≠ 0) :
    exec (.timeLock ptp) s = .next { s with time := { s.time with
      everLocked := true, locked := true, holdover := false, relock := true, offset := (ptp : Int) - s.dtime,
      slew := some s.dtime } } := by
  simp [execTimeLock, hhears, hfree, hagain, hoff]

end

theorem timeHoldover_begins {s : State} (cause : Nat) (h : s.time.locked = true) :
    exec (.timeHoldover cause) s = .next (postDeviceEvent
      { s with time := { s.time with locked := false, holdover := true, slew := none } } 0x8050 (leBytes 1 cause)) :=
  if_pos h

theorem timeSlewEnd_reports {s : State} {t : Nat} (hslew : s.time.slew = some t)
    (hdue : t + slewTime s.time.offset ≤ s.dtime) :
    exec .timeSlewEnd s =
      .next (postLocked { s with time := { s.time with slew := none } } s.time.relock s.time.offset) := by
  simp [execTimeSlewEnd, hslew, hdue]

/-! ## The events of the fronthaul and the time unit -/

/-- Settles O48: each event by the lemma about it above. What becomes of a downlink record that stands whole in its ring follows
from its launch time (`downTurn_of_fits`), and what FHSTCMD does from its OP (`fhstcmd_go`). -/
theorem fronthaulAndTimeEvents : Obligations.FronthaulAndTimeEvents := by
  intro s f l v lp port i ptp cause ql m k up
  refine ⟨fun hlive => ⟨fhFrameReceive_tooLong hlive, fhFrameReceive_badHeader hlive, ?steers,
      fun hsize hether hrole => (fhFrameReceive_ptp hlive hsize hether).trans (congrArg _ (takePtp_keeps f.body hrole))⟩,
    fun hl hgo => ⟨fun hlive => (if_neg hl).trans (congrArg _ (dlyreqWrite_sends hgo hlive)),
      fun hdead => (if_neg hl).trans (congrArg _ (dlyreqWrite_waits hdead))⟩,
    fun hfirst hv hdown hhead hunits haxc hplane => ?downlink, fun hl hgo => ?command,
    fun hl hlp hok => ?config,
    fun hlive => ⟨fun hrole => (ptpMessage_taken hlive m).trans (congrArg _ (takePtp_keeps m hrole)),
      esmcMessage_taken hlive ql,
      fun hrole => ⟨ptpMessageSend_event hlive hrole, ptpMessageSend_general hlive hrole⟩, esmcMessageSend_sends hlive ql⟩,
    fhLinkTraining_trains up, timeLock_unheard ptp, timeLock_steps, timeLock_slews, timeHoldover_begins cause,
    fun t => timeSlewEnd_reports⟩
  case steers =>
    intro hsize hecpri hrev hconcat hE htype
    have hsteers := fhFrameReceive_steers hlive hsize hecpri hrev hconcat hE htype
    refine ⟨hsteers, fun c hc hnone => ?_⟩
    rw [hsteers, hc, steerSections_noMatch hnone]
  case downlink =>
    have hstands : RecordStands s i := ⟨hv, hdown, hhead, hunits⟩
    have hfits : RecordFits s i := ⟨haxc, hplane⟩
    exact ⟨fun hearly hlate hlive => downlinkSend_sends hfirst (downTurn_due hstands hfits hearly hlate hlive),
      fun hlate => downlinkSend_drops hfirst (downTurn_late hstands hfits hlate),
      fun hearly => downlinkSend_waits hfirst (downTurn_early hstands hfits hearly)⟩
  case command =>
    refine ⟨fun hop => ⟨fun hok => ?_, fun hbad => ?_⟩, fun hop hwf => ?_, fun hop => ?_⟩
    · exact (if_neg hl).trans (congrArg _ (fhstcmd_writes hgo hop hok))
    · exact (if_neg hl).trans (congrArg _ (fhstcmd_refuses hgo hop hbad))
    · have hread := fhstcmd_reads (s := journalSys s l 0x20A020 v) hgo hop (by simpa using hwf)
      refine ⟨_, if_neg hl, ?_⟩
      simpa [steerRt, steerEntry] using hread
    · exact (if_neg hl).trans (congrArg _ (fhstcmd_invalidates hgo hop))
  case config =>
    exact (if_neg (not_or.mpr ⟨hl, Nat.not_le.mpr hlp⟩)).trans (congrArg _ (fhlpcfgWrite_sets hok))

end Sys2Proof.Proofs.Fronthaul
end

section
/-! SUPPORT. Live replacement of firmware: what the discarding of contexts, the mapping of image areas and the posting of events
leave of the firmware's registers, what each operation of FWCTL, each timeout and each heartbeat does to them, and the statement
about their events. -/
namespace Sys2Proof.Proofs.Replacement
open Sys2Proof.Machine Sys2Proof.Laws

/-! ## The arms of exec for live replacement -/

@[simp] theorem exec_fwctlStart (w : Writer) (v : Word) (s : State) : exec (.fwctlStart w v) s = .next (fwctl s w v) := rfl
@[simp] theorem exec_fwctlAbort (w : Writer) (v : Word) (s : State) : exec (.fwctlAbort w v) s = .next (fwctl s w v) := rfl
@[simp] theorem exec_fwctlReady (w : Writer) (v : Word) (s : State) : exec (.fwctlReady w v) s = .next (fwctl s w v) := rfl
@[simp] theorem exec_fwctlSerialised (w : Writer) (v : Word) (s : State) :
    exec (.fwctlSerialised w v) s = .next (fwctl s w v) := rfl
@[simp] theorem exec_fwctlDeltaDone (w : Writer) (v : Word) (s : State) :
    exec (.fwctlDeltaDone w v) s = .next (fwctl s w v) := rfl
@[simp] theorem exec_fwctlTakenOver (w : Writer) (v : Word) (s : State) :
    exec (.fwctlTakenOver w v) s = .next (fwctl s w v) := rfl
@[simp] theorem exec_fwctlReplayed (w : Writer) (v : Word) (s : State) :
    exec (.fwctlReplayed w v) s = .next (fwctl s w v) := rfl
@[simp] theorem exec_handoverBegin (s : State) : exec .handoverBegin s = execHandoverBegin s := rfl
@[simp] theorem exec_heartbeatMiss (s : State) : exec .heartbeatMiss s = execHeartbeatMiss s := rfl
@[simp] theorem exec_commit (s : State) : exec .commit s = execCommit s := rfl

/-! ## The firmware's view of the state

Discarding contexts, mapping and unmapping areas and posting events change contexts, tables and rings. Of the firmware's
registers they change at most the place of the next table of the pool. -/

/-- The firmware's registers but for the next table of the pool, the device time and the flash. -/
def firmwareView (s : State) : Firmware × Nat × Flash := ({ s.fw with poolNext := 0 }, s.dtime, s.flash)

theorem fw_of_firmwareView {s t : State} (h : firmwareView t = firmwareView s) : ∃ n, t.fw = { s.fw with poolNext := n } :=
  ⟨t.fw.poolNext, congrArg (fun x => { x.1 with poolNext := t.fw.poolNext }) h⟩

theorem dtime_of_firmwareView {s t : State} (h : firmwareView t = firmwareView s) : t.dtime = s.dtime :=
  congrArg (·.2.1) h

theorem flash_of_firmwareView {s t : State} (h : firmwareView t = firmwareView s) : t.flash = s.flash :=
  congrArg (·.2.2) h

/-! ### Discarding contexts -/

@[simp] theorem firmwareView_modCtx (s : State) (isl σ : Nat) (f : Ctx → Ctx) :
    firmwareView (modCtx s isl σ f) = firmwareView s := rfl

@[simp] theorem firmwareView_threadFault (s : State) (t : Nat) (r : StopRec) :
    firmwareView (threadFault s t r) = firmwareView s := rfl

@[simp] theorem firmwareView_wrWords : ∀ (l : List Word) (s : State) (a : Nat),
    firmwareView (wrWords s a l) = firmwareView s
  | [], _, _ => rfl
  | v :: l, s, a => firmwareView_wrWords l (wrWord s a v) (a + 4)

@[simp] theorem firmwareView_writeSpills (s : State) (isl σ : Nat) (c : Ctx) : ∀ n,
    firmwareView (writeSpills s isl σ c n) = firmwareView s
  | 0 => rfl
  | n + 1 => by
    have ih := firmwareView_writeSpills s isl σ c n
    simp only [writeSpills]
    split
    · rw [firmwareView_wrWords, ih]
    · split
      · rw [firmwareView_threadFault, ih]
      · exact ih

@[simp] theorem firmwareView_settleLeg (s : State) (n : Nat) : firmwareView (settleLeg s n) = firmwareView s := by
  simp only [settleLeg]
  split <;> rfl

@[simp] theorem firmwareView_dropLeg (s : State) (n : Nat) : firmwareView (dropLeg s n) = firmwareView s :=
  firmwareView_settleLeg s n

@[simp] theorem firmwareView_dropLegs : ∀ (l : Tab Nat) (s : State), firmwareView (dropLegs s l) = firmwareView s
  | [], _ => rfl
  | (_, n) :: l, s => by
    rw [dropLegs, firmwareView_dropLegs l, firmwareView_dropLeg]
    split
    · rfl
    · exact firmwareView_dropLeg s (n + 1)

@[simp] theorem firmwareView_discardCtx (s : State) (isl σ : Nat) :
    firmwareView (discardCtx s isl σ) = firmwareView s := by
  refine (firmwareView_dropLegs (ctxAt s isl σ).legs _).trans ?_
  split
  · exact firmwareView_writeSpills _ _ _ _ _
  · rfl

@[simp] theorem firmwareView_discardAll : ∀ (l : List (Nat × Nat)) (s : State),
    firmwareView (discardAll s l) = firmwareView s
  | [], _ => rfl
  | (isl, σ) :: l, s => by rw [discardAll, firmwareView_discardAll l, firmwareView_discardCtx]

@[simp] theorem firmwareView_clearBank (b : Nat) (s : State) : firmwareView (clearBank b s) = firmwareView s := by
  simp only [clearBank, dropBank, firmwareView_discardAll]
  rfl

@[simp] theorem firmwareView_serviceReset (s : State) : firmwareView (serviceReset s) = firmwareView s := by
  have hbanks : firmwareView (clearBank 0 (clearBank 1 s)) = firmwareView s := by
    rw [firmwareView_clearBank, firmwareView_clearBank]
  simp only [serviceReset, dropKeys, firmwareView]
  exact hbanks

/-! ### Switching banks (R121, R125) -/

@[simp] theorem firmwareView_mapSlots (f : Ctx → Ctx) (isl : Nat) : ∀ (l : List Nat) (s : State),
    firmwareView (mapSlots f isl l s) = firmwareView s
  | [], _ => rfl
  | σ :: l, s => firmwareView_mapSlots f isl l (modCtx s isl σ f)

@[simp] theorem firmwareView_mapBank (f : Ctx → Ctx) (b : Nat) : ∀ (l : List Nat) (s : State),
    firmwareView (mapBank f b l s) = firmwareView s
  | [], _ => rfl
  | isl :: l, s => by rw [mapBank, firmwareView_mapBank f b l, firmwareView_mapSlots]

@[simp] theorem firmwareView_switchBank (a b : Nat) (s : State) : firmwareView (switchBank a b s) = firmwareView s := by
  simp only [switchBank, firmwareView_mapBank]

@[simp] theorem firmwareView_standby (s : State) : firmwareView (standby s) = firmwareView s :=
  List.foldlRecOn (motive := fun t => firmwareView t = firmwareView s) _ _ rfl fun _ ht _ _ => ht

/-! ### Areas of images and of the hand-over (R121, R124) -/

@[simp] theorem firmwareView_wrDword (s : State) (a v : Nat) : firmwareView (wrDword s a v) = firmwareView s := rfl

@[simp] theorem firmwareView_putBytes (s : State) (k : Nat) (l : List Byte) :
    firmwareView (putBytes s k l) = firmwareView s := by
  unfold putBytes writeLines
  split
  · exact List.foldlRecOn (motive := fun t => firmwareView t = firmwareView s) _ _ rfl fun _ ht _ _ => ht
  · rfl

theorem firmwareView_allocTable {s u : State} {t : Nat} (h : allocTable s = some (t, u)) :
    firmwareView u = firmwareView s := by
  unfold allocTable at h
  split at h
  · cases h
    rfl
  · cases h

theorem firmwareView_rootOf {s u : State} {sp t : Nat} (h : rootOf s sp = some (t, u)) :
    firmwareView u = firmwareView s := by
  simp only [rootOf] at h
  split at h
  · cases h
    rfl
  · split at h
    next t' u' halloc =>
      cases h
      exact firmwareView_allocTable (u := u') halloc
    · cases h

theorem firmwareView_mapFrom {target va pte : Nat} {u : State} : ∀ {n : Nat} {s : State} {t lv : Nat},
    mapFrom target va pte n s t lv = some u → firmwareView u = firmwareView s
  | 0, _, _, _, h => by cases h
  | n + 1, s, t, lv, h => by
    simp only [mapFrom] at h
    split at h
    · split at h
      · cases h
      · cases h
        rfl
    · split at h
      · split at h
        next u' s' halloc =>
          exact (firmwareView_mapFrom h).trans ((firmwareView_wrDword _ _ _).trans (firmwareView_allocTable halloc))
        · cases h
      · split at h
        · cases h
        · exact firmwareView_mapFrom h

theorem firmwareView_mapPage {s u : State} {sp lv va pte : Nat} (h : mapPage s sp lv va pte = some u) :
    firmwareView u = firmwareView s := by
  unfold mapPage at h
  split at h
  next hroot => exact (firmwareView_mapFrom h).trans (firmwareView_rootOf hroot)
  · cases h

@[simp] theorem firmwareView_mapArea (rd wr x : Bool) (va pa : Nat) (s : State) : ∀ n,
    firmwareView (mapArea rd wr x va pa n s) = firmwareView s
  | 0 => rfl
  | n + 1 => by
    have ih := firmwareView_mapArea rd wr x va pa s n
    rw [mapArea]
    cases hpage : mapPage (mapArea rd wr x va pa n s) 16 3 (va + 8192 * n) (leafPte (pa + 8192 * n) rd wr false x) with
    | none => exact ih
    | some u => exact (firmwareView_mapPage hpage).trans ih

@[simp] theorem firmwareView_useSpace16 (s : State) : firmwareView (useSpace16 s) = firmwareView s := rfl

@[simp] theorem firmwareView_mapImage (a : Nat) (s : State) : firmwareView (mapImage a s) = firmwareView s := by
  rw [mapImage, firmwareView_useSpace16, firmwareView_mapArea]

@[simp] theorem firmwareView_unmapArea (va : Nat) (s : State) : ∀ n, firmwareView (unmapArea va n s) = firmwareView s
  | 0 => rfl
  | n + 1 => by
    have ih := firmwareView_unmapArea va s n
    simp only [unmapArea]
    split
    · exact ih
    · exact ih

@[simp] theorem firmwareView_unmapImage (a : Nat) (s : State) : firmwareView (unmapImage a s) = firmwareView s :=
  firmwareView_unmapArea (areaVa a) s 512

@[simp] theorem firmwareView_startImage (a b : Nat) (new : Bool) (s : State) :
    firmwareView (startImage a b new s) = firmwareView s :=
  List.foldlRecOn (motive := fun t => firmwareView t = firmwareView s) _ _ (firmwareView_clearBank b s) fun _ ht _ _ => ht

@[simp] theorem firmwareView_runImage (img : List Byte) (a b : Nat) (new : Bool) (s : State) :
    firmwareView (runImage img a b new s) = firmwareView s := by
  simp only [runImage, firmwareView_startImage, firmwareView_mapImage, firmwareView_putBytes]

/-- What ends a replacement does to the image that does not run: its bank, its area and the hand-over area go. -/
def dropOther (s : State) : State :=
  clearBank (1 - s.fw.bank) (unmapArea handVa 2048 (unmapImage (1 - s.fw.area) s))

@[simp] theorem firmwareView_dropOther (s : State) : firmwareView (dropOther s) = firmwareView s := by
  simp only [dropOther, firmwareView_clearBank, firmwareView_unmapArea, firmwareView_unmapImage]

/-! ## Events and measurements (R102, R111, R129) -/

@[simp] theorem postDeviceEvent_fw (s : State) (code : Nat) (detail : List Byte) :
    (postDeviceEvent s code detail).fw = s.fw := by rw [Package.postDeviceEvent_frame]

@[simp] theorem postEvery_fw (ev : Event) : ∀ (l : List Nat) (s : State), (postEvery s ev l).fw = s.fw
  | [], _ => rfl
  | e :: l, s => by
    rw [postEvery, postEvery_fw ev l]
    split <;> rfl

@[simp] theorem postAll_fw (s : State) (code : Nat) (detail : List Byte) : (postAll s code detail).fw = s.fw :=
  postEvery_fw _ _ s

/-- Measuring changes the measurement registers and the length of the log. -/
theorem extend_fw (s : State) (k kind : Nat) (digest : List Byte) :
    ∃ m n, (extend s k kind digest).fw = { s.fw with m := m, logLen := n } := by
  unfold extend
  split
  · exact ⟨s.fw.m, s.fw.logLen, rfl⟩
  · simp only [CommandLink.putBytes_fw]
    exact ⟨_, _, rfl⟩

theorem remeasure_fw (s : State) (kind logKind : Nat) :
    ∃ m n, (remeasure s kind logKind).fw = { s.fw with fwseq := s.fw.fwseq + 1, m := m, logLen := n } := by
  simp only [remeasure, postAll_fw]
  exact extend_fw _ _ _ _

/-- An entry of the journal changes the journal and, where it fills it, whether intake is paused. -/
theorem journalOne_fw (s : State) (e : JournalEntry) :
    ∃ j p, (journalOne s e).fw = { s.fw with journal := j, paused := p } := by
  unfold journalOne
  split
  · exact ⟨s.fw.journal, s.fw.paused, rfl⟩
  · dsimp only
    split
    · exact ⟨_, _, postDeviceEvent_fw _ _ _⟩
    · exact ⟨_, s.fw.paused, rfl⟩

theorem journalSys_fw (s : State) (l : Level) (off : Nat) (v : Word) :
    ∃ j p, (journalSys s l off v).fw = { s.fw with journal := j, paused := p } := by
  unfold journalSys
  split
  · exact journalOne_fw s _
  · exact ⟨s.fw.journal, s.fw.paused, rfl⟩

/-! ## Abort and SAFE (R126, R132) -/

theorem abortLr_fw (s : State) (code : Nat) :
    (abortLr s code).fw.lr = .steady ∧ (abortLr s code).fw.lastErr = code ∧ (abortLr s code).fw.paused = false ∧
      (abortLr s code).fw.bank = s.fw.bank := by
  have hcleared : firmwareView (if s.fw.lr = .verified then s else dropOther s) = firmwareView s := by
    split
    · rfl
    · exact firmwareView_dropOther s
  obtain ⟨n, hfw⟩ := fw_of_firmwareView hcleared
  rw [dropOther] at hfw
  simp only [abortLr, postDeviceEvent_fw, setLr, hfw, and_self]

theorem enterSafe_fw (s : State) : (enterSafe s).fw.lr = .safe ∧ (enterSafe s).fw.paused = true := by
  simp only [enterSafe, postAll_fw]
  exact ⟨rfl, rfl⟩

/-! ## What a write of FWCTL does (R123, R125) -/

/-- The state once FWCTL has stored its fields. -/
def fwctlStored (s : State) (v : Word) (op : Nat) : State :=
  { s with fw := { s.fw with op := op, align := v.toNat.testBit 3 } }

section
variable {s : State} {w : Writer} {v : Word}

theorem fwctl_ignored (hgo : v.toNat.testBit 31 = true) (hno : fwctlAllowed s w (v.toNat % 8) = false) :
    fwctl s w v = s := by
  simp [fwctl, hgo, hno]

theorem fwctl_performs {op : Nat} (hgo : v.toNat.testBit 31 = true ∧ v.toNat % 8 = op)
    (hallowed : fwctlAllowed s w op = true) : fwctl s w v = fwctlOp (fwctlStored s v op) op := by
  obtain ⟨hbit, rfl⟩ := hgo
  simp [fwctl, hbit, hallowed, fwctlStored]

theorem fwctlStart_performs (hgo : v.toNat.testBit 31 = true ∧ v.toNat % 8 = 1) (hlr : s.fw.lr = .verified)
    (hw : w = .old ∨ w = .holm) : exec (.fwctlStart w v) s = .next (startLr (fwctlStored s v 1)) := by
  have hallowed : fwctlAllowed s w 1 = true := by simpa [fwctlAllowed, hlr] using hw
  rw [exec_fwctlStart, fwctl_performs hgo hallowed, fwctlOp]

theorem fwctlAbort_performs (hgo : v.toNat.testBit 31 = true ∧ v.toNat % 8 = 2)
    (hlr : s.fw.lr = .verified ∨ s.fw.lr = .starting ∨ s.fw.lr = .serialising) (hw : w = .old ∨ w = .holm) :
    exec (.fwctlAbort w v) s = .next (abortLr (fwctlStored s v 2) 6) := by
  have hallowed : fwctlAllowed s w 2 = true := by simpa [fwctlAllowed, or_assoc] using ⟨hlr, hw⟩
  rw [exec_fwctlAbort, fwctl_performs hgo hallowed, fwctlOp]

theorem fwctlReady_performs (hgo : v.toNat.testBit 31 = true ∧ v.toNat % 8 = 3) (hlr : s.fw.lr = .starting)
    (hw : w = .new) : exec (.fwctlReady w v) s = .next (setLr (fwctlStored s v 3) .serialising) := by
  have hallowed : fwctlAllowed s w 3 = true := by simp [fwctlAllowed, hlr, hw]
  rw [exec_fwctlReady, fwctl_performs hgo hallowed, fwctlOp]

theorem fwctlSerialised_performs (hgo : v.toNat.testBit 31 = true ∧ v.toNat % 8 = 4) (hlr : s.fw.lr = .serialising)
    (hw : w = .old) (hmarked : s.fw.marked = none) :
    exec (.fwctlSerialised w v) s = .next (serialised (fwctlStored s v 4)) := by
  have hallowed : fwctlAllowed s w 4 = true := by simp [fwctlAllowed, hlr, hw, hmarked]
  rw [exec_fwctlSerialised, fwctl_performs hgo hallowed, fwctlOp]

theorem fwctlDeltaDone_performs (hgo : v.toNat.testBit 31 = true ∧ v.toNat % 8 = 5) (hlr : s.fw.lr = .handover)
    (hw : w = .old) : exec (.fwctlDeltaDone w v) s = .next (deltaDone (fwctlStored s v 5)) := by
  have hallowed : fwctlAllowed s w 5 = true := by simp [fwctlAllowed, hlr, hw]
  rw [exec_fwctlDeltaDone, fwctl_performs hgo hallowed, fwctlOp]

theorem fwctlTakenOver_performs (hgo : v.toNat.testBit 31 = true ∧ v.toNat % 8 = 6) (hlr : s.fw.lr = .handover)
    (hw : w = .new) (hdelta : s.fw.deltaDone = true) (hlog : logFull s = false) :
    exec (.fwctlTakenOver w v) s = .next (takenOver (fwctlStored s v 6)) := by
  have hallowed : fwctlAllowed s w 6 = true := by simp [fwctlAllowed, hlr, hw, hdelta, hlog]
  rw [exec_fwctlTakenOver, fwctl_performs hgo hallowed, fwctlOp]

theorem fwctlReplayed_performs (hgo : v.toNat.testBit 31 = true ∧ v.toNat % 8 = 7) (hlr : s.fw.lr = .fallback)
    (hw : w = .old) : exec (.fwctlReplayed w v) s = .next (replayed (fwctlStored s v 7)) := by
  have hallowed : fwctlAllowed s w 7 = true := by simp [fwctlAllowed, hlr, hw]
  rw [exec_fwctlReplayed, fwctl_performs hgo hallowed, fwctlOp]

end

/-! ### OP 1: start -/

theorem setLr_fw_of_firmwareView {s t : State} (l : LrState) (h : firmwareView t = firmwareView s) :
    (setLr t l).fw.lr = l ∧ (setLr t l).fw.since = s.dtime ∧ (setLr t l).fw.area = s.fw.area ∧
      (setLr t l).fw.bank = s.fw.bank := by
  obtain ⟨n, hfw⟩ := fw_of_firmwareView h
  have hdtime : t.dtime = s.dtime := dtime_of_firmwareView h
  simp only [setLr, hfw, hdtime, and_self]

theorem startLr_fw (s : State) :
    (startLr s).fw.lr = .starting ∧ (startLr s).fw.since = s.dtime ∧ (startLr s).fw.area = s.fw.area ∧
      (startLr s).fw.bank = s.fw.bank := by
  refine setLr_fw_of_firmwareView .starting ?_
  rw [firmwareView_runImage, firmwareView_mapArea]
  rfl

/-! ### OP 4 and OP 5: the records of the hand-over (R126) -/

section
variable {s : State}

theorem serialised_rejects
    (h : checkRecs s (emitTable (activeImage s)) (handPa + fullLen) (2 ^ 20) handPa = none) :
    serialised s = abortLr s 4 := by
  simp only [serialised, h]

/-- The state once the full records that the new image accepts have been taken. -/
def withFullHand (s : State) (recs : List HandRec) : State :=
  { s with fw := { s.fw with hand := takeRecs (newAccepts s) recs [] } }

section
variable {recs : List HandRec}
  (hrecs : checkRecs s (emitTable (activeImage s)) (handPa + fullLen) (2 ^ 20) handPa = some (recs, false))
include hrecs

theorem serialised_misses {e : TabEntry} (he : e ∈ emitTable (activeImage s)) (hreq : e.required = true)
    (hnone : ∀ r ∈ takeRecs (newAccepts s) recs [], r.typ ≠ e.typ) :
    serialised s = abortLr (withFullHand s recs) 5 := by
  have hmissing : ((emitTable (activeImage s)).filter (fun e => e.required)).any
      (fun e => !(takeRecs (newAccepts s) recs []).any (fun r => r.typ == e.typ)) = true := by
    simp only [List.any_eq_true, List.mem_filter]
    exact ⟨e, ⟨he, hreq⟩, by simpa using hnone⟩
  simp only [serialised, hrecs, hmissing, if_true]
  rfl

section
variable (hall : ∀ e ∈ emitTable (activeImage s), e.required = true →
  ∃ r ∈ takeRecs (newAccepts s) recs [], r.typ = e.typ)
include hall

theorem serialised_complete : serialised s =
    if s.fw.align then { withFullHand s recs with
      fw := { (withFullHand s recs).fw with marked := some (scIndex s (clockOf s 0)) } }
    else beginHandover (withFullHand s recs) := by
  have hcomplete : ((emitTable (activeImage s)).filter (fun e => e.required)).any
      (fun e => !(takeRecs (newAccepts s) recs []).any (fun r => r.typ == e.typ)) = false := by
    simpa using hall
  simp only [serialised, hrecs, hcomplete]
  rfl

theorem serialised_marks (halign : s.fw.align = true) : serialised s = { withFullHand s recs with
    fw := { (withFullHand s recs).fw with marked := some (scIndex s (clockOf s 0)) } } := by
  rw [serialised_complete hrecs hall, if_pos halign]

theorem serialised_begins (halign : s.fw.align = false) : serialised s = beginHandover (withFullHand s recs) := by
  rw [serialised_complete hrecs hall, if_neg (by simp [halign])]

end

end

theorem deltaDone_takes {recs : List HandRec}
    (hrecs : checkRecs s (emitTable (activeImage s)) (handPa + handLen) (2 ^ 15) (handPa + fullLen) = some (recs, false)) :
    deltaDone s =
      { s with fw := { s.fw with deltaDone := true, hand := takeRecs (newAccepts s) recs s.fw.hand } } := by
  simp only [deltaDone, hrecs]

end

/-! ### OP 6 and OP 7: take-over and the end of a fall-back -/

theorem takenOver_fw (s : State) :
    (takenOver s).fw.lr = .probation ∧ (takenOver s).fw.bank = 1 - s.fw.bank ∧ (takenOver s).fw.area = 1 - s.fw.area ∧
      (takenOver s).fw.resident = true ∧ (takenOver s).fw.hb = 0 ∧ (takenOver s).fw.paused = false ∧
      (takenOver s).fw.journal = [] ∧ (takenOver s).fw.fwseq = s.fw.fwseq + 1 := by
  have hswitched : firmwareView (standby (switchBank s.fw.bank (1 - s.fw.bank) s)) = firmwareView s := by
    rw [firmwareView_standby, firmwareView_switchBank]
  obtain ⟨p, hfw⟩ := fw_of_firmwareView hswitched
  simp only [takenOver]
  generalize hmeasured : setLr _ LrState.probation = t
  obtain ⟨m, n, hremeasure⟩ := remeasure_fw t 0 4
  rw [hremeasure, ← hmeasured]
  simp only [setLr, hfw, and_self]

theorem replayed_fw (s : State) :
    (replayed s).fw.lr = .steady ∧ (replayed s).fw.paused = false ∧ (replayed s).fw.resident = false ∧
      (replayed s).fw.replay = [] := ⟨rfl, rfl, rfl, rfl⟩

/-! ## Fall-back and commit (R128, R131, R132) -/

theorem fallBack_fw {s : State} (hlog : logFull s = false) :
    (fallBack s).fw.lr = .fallback ∧ (fallBack s).fw.bank = 1 - s.fw.bank ∧ (fallBack s).fw.area = 1 - s.fw.area ∧
      (fallBack s).fw.paused = true ∧ (fallBack s).fw.lastErr = 7 ∧ (fallBack s).fw.replay = s.fw.journal := by
  obtain ⟨p, hfw⟩ := fw_of_firmwareView (firmwareView_switchBank s.fw.bank (1 - s.fw.bank) s)
  simp only [fallBack, hlog, Bool.false_eq_true, if_false]
  generalize hmeasured : setLr _ LrState.fallback = t
  obtain ⟨m, n, hremeasure⟩ := remeasure_fw t 1 5
  rw [hremeasure, ← hmeasured]
  simp only [setLr, hfw, and_self]

theorem commit_ends {s : State} (hlr : s.fw.lr = .probation) (hdue : s.fw.since + 1000 * msec ≤ s.dtime)
    (hbeat : beatMissed s = false) :
    ∃ u, exec .commit s = .next u ∧ u.fw.lr = .steady ∧ u.fw.resident = false ∧ u.fw.journal = [] ∧
      u.fw.bank = s.fw.bank ∧ (s.fw.newSlot = none → u.flash = s.flash) := by
  -- Behind a variable, so that the unmapping of the hand-over area is never evaluated page by page.
  obtain ⟨t, ht⟩ : ∃ t, dropOther s = t := ⟨_, rfl⟩
  have hview : firmwareView t = firmwareView s := by rw [← ht, firmwareView_dropOther]
  obtain ⟨n, hfw⟩ := fw_of_firmwareView hview
  have hbank : t.fw.bank = s.fw.bank := by rw [hfw]
  have hslot : t.fw.newSlot = s.fw.newSlot := by rw [hfw]
  have hflash : t.flash = s.flash := flash_of_firmwareView hview
  rw [exec_commit, execCommit, if_pos ⟨hlr, hdue, by simp [hbeat]⟩, ← dropOther, ht]
  refine ⟨_, rfl, ?_⟩
  rw [hslot]
  cases s.fw.newSlot with
  | none => exact ⟨rfl, rfl, rfl, hbank, fun _ => hflash⟩
  | some m => exact ⟨rfl, rfl, rfl, hbank, nofun⟩

/-! ## Heartbeats (R128) -/

/-- The state once a write of FWHB has been journalled, which one of the new image is (R132). -/
def beatJournalled (s : State) (w : Writer) (v : Word) : State := if w = .new then journalSys s .s 0x28 v else s

theorem beatJournalled_fw (s : State) (w : Writer) (v : Word) :
    ∃ j p, (beatJournalled s w v).fw = { s.fw with journal := j, paused := p } := by
  unfold beatJournalled
  split
  · exact journalSys_fw s .s 0x28 v
  · exact ⟨s.fw.journal, s.fw.paused, rfl⟩

theorem beatJournalled_dtime (s : State) (w : Writer) (v : Word) : (beatJournalled s w v).dtime = s.dtime := by
  unfold beatJournalled
  split
  · rw [Straits.journalSys_frame]
  · rfl

theorem fwhbWrite_next {t : State} {w : Writer} {v : Word} (hsafe : t.fw.lr ≠ .safe) (hholm : w ≠ .holm)
    (hactive : w = activeWriter t) (hnext : v = t.fw.hb + 1) (hbeat : beatMissed t = false) :
    fwhbWrite t w v = { t with fw := { t.fw with hb := v, lastBeat := t.dtime } } := by
  unfold fwhbWrite
  rw [if_neg hholm, if_neg (not_or.mpr ⟨hsafe, not_not_intro hactive⟩), if_pos ⟨hnext, by simp [hbeat]⟩]

theorem fwhbWrite_counts {s : State} {w : Writer} {v : Word} (hsafe : s.fw.lr ≠ .safe) (hholm : w ≠ .holm)
    (hactive : w = activeWriter s) (hnext : v = s.fw.hb + 1) (hbeat : beatMissed s = false) :
    exec (.fwhbWrite w v) s = .next { beatJournalled s w v with
      fw := { (beatJournalled s w v).fw with hb := v, lastBeat := s.dtime } } := by
  obtain ⟨j, p, hfw⟩ := beatJournalled_fw s w v
  have hdtime := beatJournalled_dtime s w v
  rw [← hdtime]
  refine congrArg _ (fwhbWrite_next (t := beatJournalled s w v) ?_ hholm ?_ ?_ ?_)
  · simpa [hfw] using hsafe
  · simpa [activeWriter, hfw] using hactive
  · simpa [hfw] using hnext
  · rw [beatMissed, beatTime, hfw, hdtime]
    exact hbeat

/-! ## The moments that the hardware watches (R123, R125, R128) -/

section
variable {s : State}

theorem handoverBegin_begins {n : Nat} (hmarked : s.fw.marked = some n) (hlr : s.fw.lr = .serialising)
    (hen : (clockAt s (clockOf s 0)).en = true) (hslot : n ≠ scIndex s (clockOf s 0)) :
    exec .handoverBegin s = .next (beginHandover s) := by
  simp only [exec_handoverBegin, execHandoverBegin, hmarked]
  exact if_pos ⟨hlr, hen, hslot⟩

section
variable (hmiss : beatMissed s = true)
include hmiss

theorem heartbeatMiss_falls (hlr : s.fw.lr = .probation) : exec .heartbeatMiss s = .next (fallBack s) := by
  simp [execHeartbeatMiss, hlr, hmiss]

theorem heartbeatMiss_restarts (hprobation : s.fw.lr ≠ .probation) (hsafe : s.fw.lr ≠ .safe)
    (hfallback : s.fw.lr ≠ .fallback) (hboot : s.pkg.boot = .booted) :
    exec .heartbeatMiss s = .next (restartImage s) := by
  simp [execHeartbeatMiss, hprobation, hsafe, hfallback, hboot, hmiss]

end

theorem beatMissed_in_probation (hlr : s.fw.lr = .probation) (hdue : s.fw.lastBeat + 100 * usec ≤ s.dtime) :
    beatMissed s = true := by
  simp [beatMissed, beatTime, hlr, hdue]

theorem beatMissed_outside_probation (hlr : s.fw.lr ≠ .probation) (hdue : s.fw.lastBeat + 10 * msec ≤ s.dtime) :
    beatMissed s = true := by
  simp [beatMissed, beatTime, hlr, hdue]

end

/-! ## The events of live replacement -/

/-- Settles O50: an operation of FWCTL that its state and writer allow is performed (`fwctl_performs`), and each operation,
timeout and heartbeat is taken by the lemma about it above. -/
theorem firmwareEvents : Obligations.FirmwareEvents := by
  intro s w v
  refine ⟨fun hgo hno => congrArg _ (fwctl_ignored hgo hno),
    fun hgo hlr hw => ⟨_, fwctlStart_performs hgo hlr hw, startLr_fw (fwctlStored s v 1)⟩,
    fun hgo hlr hw => ⟨_, fwctlAbort_performs hgo hlr hw, abortLr_fw (fwctlStored s v 2) 6⟩,
    fwctlReady_performs, ?serialised,
    fun hgo hlr hw recs hrecs => (fwctlDeltaDone_performs hgo hlr hw).trans (congrArg _ (deltaDone_takes hrecs)),
    fun hgo hlr hw hdelta hlog => ⟨_, fwctlTakenOver_performs hgo hlr hw hdelta hlog, takenOver_fw (fwctlStored s v 6)⟩,
    fun hgo hlr hw => ⟨_, fwctlReplayed_performs hgo hlr hw, replayed_fw (fwctlStored s v 7)⟩,
    fun n hmarked hlr hen hslot => ⟨_, handoverBegin_begins hmarked hlr hen hslot, rfl, rfl, rfl, rfl⟩,
    fun hlr hdue => ⟨_, if_pos ⟨hlr, hdue⟩, by simp [abortLr_fw]⟩,
    fun hlr hdue => ⟨_, if_pos ⟨hlr, hdue⟩, by simp [abortLr_fw]⟩,
    fun hlr hdue => ⟨_, if_pos ⟨hlr, hdue⟩, by simp [abortLr_fw]⟩,
    fun hlr hdue => ⟨_, if_pos ⟨hlr, hdue⟩, enterSafe_fw s⟩,
    fwhbWrite_counts,
    fun hlr hdue hlog => ⟨_, heartbeatMiss_falls (beatMissed_in_probation hlr hdue) hlr, fallBack_fw hlog⟩,
    fun hlr hdue hlog => (heartbeatMiss_falls (beatMissed_in_probation hlr hdue) hlr).trans (congrArg _ (if_pos hlog)),
    fun hprobation hsafe hfallback hdue => heartbeatMiss_restarts (beatMissed_outside_probation hprobation hdue) hprobation
      hsafe hfallback,
    commit_ends⟩
  case serialised =>
    intro hgo hlr hw hmarked
    have hop := fwctlSerialised_performs hgo hlr hw hmarked
    refine ⟨fun hrejects => hop.trans (congrArg _ (serialised_rejects hrejects)), fun recs hrecs => ⟨?misses, fun hall =>
      ⟨fun halign => hop.trans (congrArg _ (serialised_marks hrecs hall halign)), ?begins⟩⟩⟩
    case misses =>
      intro e he hreq hnone
      exact hop.trans (congrArg _ (serialised_misses hrecs he hreq hnone))
    case begins =>
      intro halign
      exact ⟨_, hop.trans (congrArg _ (serialised_begins hrecs hall halign)), rfl, rfl, rfl, rfl⟩

end Sys2Proof.Proofs.Replacement
end

section
/-! SUPPORT. Operators over aligned streams: what a plan makes of stops, of unlike levels and of a false predicate, the plan
of each form of the tables, and the statement about alignment. -/
namespace Sys2Proof.Proofs.Alignment
open Sys2Proof.Machine Sys2Proof.Claims

/-! ## Carrying out a plan (R182) -/

section
variable {i : Instr} {s : State} {t0 t1 : Target}

theorem firesAs_of_operate {f : Fire} (h : exec i s = operate s t0 t1 (.fire f)) : FiresAs i s t0 t1 f := by
  intro hmay hroom
  have hsend : canSend s t0 t1 f.outs = true := by simp [canSend, hroom]
  simp [h, operate, operateThen, hmay, hsend]

theorem exec_of_operate_mismatch (h : exec i s = operate s t0 t1 .mismatch) (hmay : mayFire s = true) :
    exec i s = .next (raiseMismatch s) := by
  simp [h, operate, operateThen, hmay]

end

/-! ## The predicate around a firing (R328) -/

section
variable {w : OpA} {ins : Ins} {f : Fire} (heat : Pos.a ∈ f.eat)

@[simp] theorem predicated_always (ins : Ins) (other : Fire → Fire) (pl : Plan) :
    predicated .always ins other pl = pl := rfl

include heat

theorem predicated_stop {l : Nat} (other : Fire → Fire) (ha : ins.a = .stop l) (hp : predStop w ins l) :
    predicated w.pred ins other (.fire f) = .fire { f with eat := withP w.pred f.eat } := by
  cases hm : w.pred with
  | always => rfl
  | ifNonzero | ifZero =>
    have hp : ins.p = .stop l := hp.resolve_left (by simp [hm])
    simp [predicated, withP, heat, ha, hp]

theorem predicated_off {x : Nat} (ha : ins.a = .data x) (hoff : predOff w ins) :
    predicated w.pred ins emitNothing (.fire f) = .fire { eat := withP w.pred f.eat } := by
  obtain ⟨hm, v, hp, hfalse⟩ := hoff
  cases hw : w.pred with
  | always => exact absurd hw hm
  | ifNonzero | ifZero =>
    rw [hw] at hfalse
    simp [predicated, withP, emitNothing, heat, ha, hp, hfalse]

end

theorem a_mem_eatAB (w : OpA) : Pos.a ∈ eatAB w := by
  unfold eatAB
  split <;> simp

/-! ## Aligned streams (R185, R358) -/

section
variable {α : Type} {mm : MisMode} {useB ib useC : Bool} {ins : Ins} {rdA rdB rdC : Nat → α} {idn : α}
  {body : α → α → α → Fire}

theorem align_trap {a b : Inp} {l m x y : Nat}
    (h : (a = .data x ∧ b = .stop l) ∨ (a = .stop l ∧ b = .data y) ∨ (a = .stop l ∧ b = .stop m ∧ l ≠ m)) :
    align .trap a b = .mismatch := by
  obtain ⟨rfl, rfl⟩ | ⟨rfl, rfl⟩ | ⟨rfl, rfl, hne⟩ := h
  · rfl
  · rfl
  · simp [align, hne]

theorem align_trunc_a {a b : Inp} {l m x : Nat}
    (h : (a = .data x ∧ b = .stop l) ∨ (a = .stop l ∧ b = .stop m ∧ l < m)) : align .trunc a b = .drop .a := by
  obtain ⟨rfl, rfl⟩ | ⟨rfl, rfl, hlt⟩ := h
  · rfl
  · simp [align, hlt, Nat.ne_of_lt hlt]

theorem align_trunc_b {a b : Inp} {l m y : Nat}
    (h : (a = .stop l ∧ b = .data y) ∨ (a = .stop l ∧ b = .stop m ∧ m < l)) : align .trunc a b = .drop .b := by
  obtain ⟨rfl, rfl⟩ | ⟨rfl, rfl, hlt⟩ := h
  · rfl
  · simp [align, Nat.ne_of_gt hlt, Nat.lt_asymm hlt]

theorem align_pad_a {l m : Nat} (h : l < m) : align .pad (.stop l) (.stop m) = .stop l [.a] := by
  simp [align, h, Nat.ne_of_lt h]

theorem align_pad_b {l m : Nat} (h : m < l) : align .pad (.stop l) (.stop m) = .stop m [.b] := by
  simp [align, Nat.ne_of_gt h, Nat.lt_asymm h]

theorem align_stops (mm : MisMode) (l : Nat) : align mm (.stop l) (.stop l) = .stop l [.a, .b] := by
  simp [align]

theorem streams_of_mismatch (h : align mm ins.a ins.b = .mismatch) :
    streams mm true false useC ins rdA rdB rdC idn body = .mismatch := by
  simp [streams, h]

theorem streams_of_drop {q : Pos} (h : align mm ins.a ins.b = .drop q) :
    streams mm true false useC ins rdA rdB rdC idn body = .fire { eat := [q] } := by
  simp [streams, h]

theorem streams_of_stop {l : Nat} {eat : List Pos} (h : align mm ins.a ins.b = .stop l eat)
    (hc : useC = true → ins.c = .stop l) :
    streams mm true false useC ins rdA rdB rdC idn body =
      .fire { eat := if useC then eat ++ [.c] else eat, outs := toBoth (.stop l) } := by
  cases useC with
  | false => simp [streams, h, withC]
  | true => simp [streams, h, withC, hc rfl]

theorem streams_of_onlyA {x : Nat} (h : align mm ins.a ins.b = .onlyA x) :
    streams mm true false false ins rdA rdB rdC idn body = .fire { body (rdA x) idn (rdC 0) with eat := [.a] } := by
  simp [streams, h, withC]

theorem streams_of_onlyB {y : Nat} (h : align mm ins.a ins.b = .onlyB y) :
    streams mm true false false ins rdA rdB rdC idn body = .fire { body idn (rdB y) (rdC 0) with eat := [.b] } := by
  simp [streams, h, withC]

theorem streams_of_stop_on_a {l : Nat} (hone : (useB && !ib) = false) (ha : ins.a = .stop l) :
    streams mm useB ib false ins rdA rdB rdC idn body = .fire { eat := [.a], outs := toBoth (.stop l) } := by
  simp [streams, hone, ha, withC]

/-- Stops of one level on a and b, or on a where the immediate stands for b. -/
theorem streams_stop {w : OpA} {l : Nat} (ha : ins.a = .stop l) (hb : stopB w ins l) :
    streams mm true w.ib false ins rdA rdB rdC idn body = .fire { eat := eatAB w, outs := toBoth (.stop l) } := by
  cases hib : w.ib with
  | true => simpa [eatAB, hib] using streams_of_stop_on_a rfl ha
  | false =>
    have halign : align mm ins.a ins.b = .stop l [.a, .b] := by rw [ha, hb hib, align_stops]
    simpa [eatAB, hib] using streams_of_stop (useC := false) halign nofun

/-- Data on a and b, or on a where the immediate stands for b. -/
theorem streams_data {w : OpA} {x y : Nat} (ha : ins.a = .data x) (hb : dataB w ins y) :
    streams mm true w.ib false ins rdA rdB rdC idn body =
      .fire { body (rdA x) (if w.ib then idn else rdB y) (rdC 0) with eat := eatAB w } := by
  cases hib : w.ib with
  | true => simp [streams, withC, eatAB, hib, ha]
  | false => simp [streams, align, withC, eatAB, hib, ha, hb hib]

theorem oneStream_stop {l : Nat} (k : Nat → Fire) (ha : ins.a = .stop l) :
    oneStream ins k = .fire { eat := [.a], outs := toBoth (.stop l) } := by
  simp [oneStream, ha]

end

/-! ## The plan of each form -/

/-- The form `i` with the fields `w` carries out a plan over a, and b if `useB` (the immediate in its place if `ib`), and
operand c if `useC`, under its predicate. What it decodes and computes is left open. -/
def StreamForm (i : Instr) (w : OpA) (useB ib useC : Bool) : Prop :=
  ∀ s : State, ∃ (α : Type) (rdA rdB rdC : Nat → α) (idn : α) (body : α → α → α → Fire),
    exec i s = operate s w.t0 w.t1
      (predicated w.pred (insOf s) emitNothing (streams w.mm useB ib useC (insOf s) rdA rdB rdC idn body))

/-- The form `i` carries out a plan over the one stream a under its predicate. -/
def OneStreamForm (i : Instr) (w : OpA) : Prop :=
  ∀ s : State, ∃ k : Nat → Fire,
    exec i s = operate s w.t0 w.t1 (predicated w.pred (insOf s) emitNothing (oneStream (insOf s) k))

theorem min_eq_ite_gt (a b : Int) : min a b = if b < a then b else a := by
  split <;> omega

theorem max_eq_ite_lt (a b : Int) : max a b = if a < b then b else a := by
  split <;> omega

theorem divRem_fst (t : IntF) (a b : Int) :
    (divRem t a b).1 = if b = 0 then (if 0 ≤ a then t.maxv else t.minv) else a.tdiv b := by
  unfold divRem
  split <;> rfl

theorem divRem_snd (t : IntF) (a b : Int) : (divRem t a b).2 = if b = 0 then a else a - b * a.tdiv b := by
  unfold divRem
  split <;> rfl

theorem ite_eq_flagNat (p : Prop) [Decidable p] : (if p then 1 else 0) = flagNat (decide p) := by
  simp [flagNat]

theorem ite_eq_flagNat_not (p : Prop) [Decidable p] : (if p then 0 else 1) = flagNat (decide ¬p) := by
  by_cases hp : p <;> simp [flagNat, hp]

/-- Each two-operand integer form is `intForm` with the lanes of its row (R361 to R367). -/
theorem exec_intPairs : ∀ e ∈ intPairs, ∀ (w : OpA) (s : State),
    exec (e.1 w) s = operate s w.t0 w.t1 (intForm w true false (insOf s) fun _ a b _ => e.2 w (insOf s) a b) := by
  simp only [intPairs, List.forall_mem_cons, List.not_mem_nil, false_imp_iff, implies_true, and_true]
  refine ⟨?add, ?sub, ?min, ?max, ?mul, ?mulh, ?div, ?rem, ?andOp, ?orOp, ?xorOp, ?andn, ?orn, ?shl, ?shr, ?sar, ?rol, ?ror,
    ?bfx, ?brev, ?cmpeq, ?cmpne, ?cmplt, ?cmple, ?cmpgt, ?cmpge⟩ <;> intro w s
  case min => simp only [min_eq_ite_gt]; rfl
  case max => simp only [max_eq_ite_lt]; rfl
  case div => simp only [← divRem_fst]; rfl
  case rem => simp only [← divRem_snd (tyInt w.ty (insOf s).fa)]; rfl
  case cmpne => simp only [ite_eq_flagNat_not]; rfl
  case cmpeq | cmplt | cmple | cmpgt | cmpge => simp only [ite_eq_flagNat]; rfl
  all_goals rfl

/-- Each two-operand float form is `floatForm` with the exact value of its row (R388, R389). -/
theorem exec_floatPairs : ∀ e ∈ floatPairs, ∀ (w : OpA) (s : State),
    exec (e.1 w) s = operate s w.t0 w.t1 (floatForm w true false (insOf s) fun a b _ => e.2 (rmF w) a b) := by
  simp only [floatPairs, List.forall_mem_cons, List.not_mem_nil, false_imp_iff, implies_true, and_true]
  refine ⟨?fadd, ?fsub, ?fmul, ?fmin, ?fmax⟩
  all_goals exact fun w s => rfl

theorem streamForm_floatCmps : ∀ e ∈ floatCmps, ∀ w : OpA, StreamForm (e.1 w) w true w.ib false := by
  simp only [floatCmps, List.forall_mem_cons, List.not_mem_nil, false_imp_iff, implies_true, and_true]
  refine ⟨?fcmpeq, ?fcmpne, ?fcmplt, ?fcmple, ?fcmpun⟩
  all_goals exact fun w s => ⟨_, _, _, _, _, _, rfl⟩

theorem streamForm_alignedForms : ∀ c ∈ alignedForms, ∀ w : OpA, StreamForm (c w) w true w.ib false := by
  simp only [alignedForms, List.forall_mem_append, List.forall_mem_map, List.forall_mem_singleton]
  exact ⟨⟨⟨fun e he w s => ⟨_, _, _, _, _, _, exec_intPairs e he w s⟩, fun w s => ⟨_, _, _, _, _, _, rfl⟩⟩,
    fun e he w s => ⟨_, _, _, _, _, _, exec_floatPairs e he w s⟩⟩, streamForm_floatCmps⟩

theorem streamForm_clamp (w : OpA) : StreamForm (.clamp w) w true w.ib true := by
  intro s
  have hexec : exec (.clamp w) s = operate s w.t0 w.t1 (planClamp w (insOf s)) := rfl
  rw [hexec, planClamp]
  split <;> exact ⟨_, _, _, _, _, _, rfl⟩

/-- A complex form takes no immediate: w.ib says nothing to it (R399). -/
theorem streamForm_aligners : ∀ e ∈ aligners, ∀ w : OpA, w.ib = false → StreamForm (e.2 w) w true false e.1 := by
  simp only [aligners, List.forall_mem_append, List.forall_mem_map, List.forall_mem_cons, List.not_mem_nil, false_imp_iff,
    implies_true, and_true]
  refine ⟨⟨fun c hc w hib => hib ▸ streamForm_alignedForms c hc w, ?cmul, ?cmulj⟩,
    ?mula, ?bfi, ?sel, fun w hib => hib ▸ streamForm_clamp w, ?ffma, ?ffms, ?vaddmin, ?cmac⟩
  case cmul | cmulj | cmac => exact fun w _ s => ⟨_, _, _, _, _, _, rfl⟩
  all_goals exact fun w hib s => hib ▸ ⟨_, _, _, _, _, _, rfl⟩

theorem exec_oneStreamForms : ∀ c ∈ oneStreamForms, ∀ (w : OpA) (s : State), ∃ k : Nat → Fire,
    exec (c w) s = operate s w.t0 w.t1 (oneStream (insOf s) k) := by
  simp only [oneStreamForms, List.forall_mem_cons, List.not_mem_nil, false_imp_iff, implies_true, and_true]
  refine ⟨?fan, ?stopgen, ?vbcast, ?vextr, ?vunpk, ?vred, ?vscan, ?bfpenc, ?bfpdec, ?rdlvl, ?qcount⟩
  all_goals exact fun w s => ⟨_, rfl⟩

theorem streamForm_intOnes : ∀ e ∈ intOnes, ∀ w : OpA, StreamForm (e.1 w) w false w.ib false := by
  simp only [intOnes, List.forall_mem_cons, List.not_mem_nil, false_imp_iff, implies_true, and_true]
  refine ⟨?neg, ?abs, ?notOp, ?clz, ?ctz, ?popc, ?bswap⟩
  all_goals exact fun w s => ⟨_, _, _, _, _, _, rfl⟩

theorem streamForm_floatOnes : ∀ e ∈ floatOnes, ∀ w : OpA, StreamForm (e.1 w) w false w.ib false := by
  simp only [floatOnes, List.forall_mem_cons, List.not_mem_nil, false_imp_iff, implies_true, and_true]
  refine ⟨?fabs, ?fneg, ?frcp, ?frsq, ?fsqrt⟩
  all_goals exact fun w s => ⟨_, _, _, _, _, _, rfl⟩

/-! ## A stop on the one stream (R187) -/

section
variable {i : Instr} {w : OpA} {s : State} {l : Nat} (ha : (insOf s).a = .stop l) (hp : predStop w (insOf s) l)
include ha hp

theorem firesAs_stop_of_streamForm {ib : Bool} (h : StreamForm i w false ib false) :
    FiresAs i s w.t0 w.t1 { eat := withP w.pred [.a], outs := toBoth (.stop l) } := by
  obtain ⟨α, rdA, rdB, rdC, idn, body, hexec⟩ := h s
  rw [streams_of_stop_on_a rfl ha, predicated_stop (List.mem_singleton_self _) _ ha hp] at hexec
  exact firesAs_of_operate hexec

theorem firesAs_stop_of_oneStreamForm (h : OneStreamForm i w) :
    FiresAs i s w.t0 w.t1 { eat := withP w.pred [.a], outs := toBoth (.stop l) } := by
  obtain ⟨k, hexec⟩ := h s
  rw [oneStream_stop k ha, predicated_stop (List.mem_singleton_self _) _ ha hp] at hexec
  exact firesAs_of_operate hexec

end

theorem predicatedOnes_forward_stop : ∀ c ∈ predicatedOnes, ∀ (w : OpA) (s : State) (l : Nat), (insOf s).a = .stop l →
    predStop w (insOf s) l → FiresAs (c w) s w.t0 w.t1 { eat := withP w.pred [.a], outs := toBoth (.stop l) } := by
  simp only [predicatedOnes, List.forall_mem_append, List.forall_mem_map, List.forall_mem_cons, List.not_mem_nil,
    false_imp_iff, implies_true, and_true]
  refine ⟨⟨fun e he w s l ha hp => firesAs_stop_of_streamForm ha hp (streamForm_intOnes e he w),
    fun e he w s l ha hp => firesAs_stop_of_streamForm ha hp (streamForm_floatOnes e he w)⟩,
    ?fclass, ?fcvt, ?icvt, ?ftoi, ?frnd, ?vminidx, ?vmaxidx, ?cconj, ?cmag2⟩
  all_goals exact fun w s l ha hp => firesAs_stop_of_oneStreamForm ha hp fun s => ⟨_, rfl⟩

theorem oneStreamForms_forward_stop : ∀ c ∈ oneStreamForms, ∀ (w : OpA) (s : State) (l : Nat), (insOf s).a = .stop l →
    FiresAs (c w) s w.t0 w.t1 { eat := [.a], outs := toBoth (.stop l) } := by
  intro c hc w s l ha
  obtain ⟨k, hexec⟩ := exec_oneStreamForms c hc w s
  rw [oneStream_stop k ha] at hexec
  exact firesAs_of_operate hexec

/-! ## Equal stops, a false predicate and unlike levels (R185, R328) -/

theorem firesAs_equal_stops {i : Instr} {w : OpA} {s : State} {l : Nat} (h : StreamForm i w true w.ib false)
    (ha : (insOf s).a = .stop l) (hb : stopB w (insOf s) l) (hp : predStop w (insOf s) l) :
    FiresAs i s w.t0 w.t1 { eat := withP w.pred (eatAB w), outs := toBoth (.stop l) } := by
  obtain ⟨α, rdA, rdB, rdC, idn, body, hexec⟩ := h s
  rw [streams_stop ha hb, predicated_stop (a_mem_eatAB w) _ ha hp] at hexec
  exact firesAs_of_operate hexec

theorem firesAs_predicate_off {i : Instr} {w : OpA} {s : State} {x y : Nat} (h : StreamForm i w true w.ib false)
    (ha : (insOf s).a = .data x) (hb : dataB w (insOf s) y) (hoff : predOff w (insOf s)) :
    FiresAs i s w.t0 w.t1 { eat := withP w.pred (eatAB w) } := by
  obtain ⟨α, rdA, rdB, rdC, idn, body, hexec⟩ := h s
  rw [streams_data ha hb, predicated_off (a_mem_eatAB w) ha hoff] at hexec
  exact firesAs_of_operate hexec

section
variable {i : Instr} {w : OpA} {useC : Bool} {s : State} (h : StreamForm i w true false useC) (hpred : w.pred = .always)
include h hpred

theorem exec_unlike (hmay : mayFire s = true) (halign : align w.mm (insOf s).a (insOf s).b = .mismatch) :
    exec i s = .next (raiseMismatch s) := by
  obtain ⟨α, rdA, rdB, rdC, idn, body, hexec⟩ := h s
  rw [hpred, predicated_always, streams_of_mismatch halign] at hexec
  exact exec_of_operate_mismatch hexec hmay

theorem firesAs_drop {q : Pos} (halign : align w.mm (insOf s).a (insOf s).b = .drop q) :
    FiresAs i s w.t0 w.t1 { eat := [q] } := by
  obtain ⟨α, rdA, rdB, rdC, idn, body, hexec⟩ := h s
  rw [hpred, predicated_always, streams_of_drop halign] at hexec
  exact firesAs_of_operate hexec

theorem firesAs_pass_stop {l : Nat} {eat : List Pos} (halign : align w.mm (insOf s).a (insOf s).b = .stop l eat)
    (hc : useC = true → (insOf s).c = .stop l) :
    FiresAs i s w.t0 w.t1 { eat := if useC then eat ++ [.c] else eat, outs := toBoth (.stop l) } := by
  obtain ⟨α, rdA, rdB, rdC, idn, body, hexec⟩ := h s
  rw [hpred, predicated_always, streams_of_stop halign hc] at hexec
  exact firesAs_of_operate hexec

end

theorem aligns_of_streamForm {useC : Bool} {c : OpA → Instr}
    (h : ∀ w : OpA, w.ib = false → StreamForm (c w) w true false useC) : Aligns useC c := by
  intro w s l m x y ins one hib hpred
  have hform := h w hib
  refine ⟨fun htrap hmay hunlike => ?trap, fun htrunc => ⟨fun hlow => ?truncA, fun hlow => ?truncB⟩,
    fun hpad ha hb => ⟨fun hlt hc => ?padA, fun hlt hc => ?padB⟩, ?equal⟩
  case trap => exact exec_unlike hform hpred hmay (by rw [htrap]; exact align_trap hunlike)
  case truncA => exact firesAs_drop hform hpred (by rw [htrunc]; exact align_trunc_a hlow)
  case truncB => exact firesAs_drop hform hpred (by rw [htrunc]; exact align_trunc_b hlow)
  case padA => exact firesAs_pass_stop (eat := [.a]) hform hpred (by rw [hpad, ha, hb, align_pad_a hlt]) hc
  case padB => exact firesAs_pass_stop (eat := [.b]) hform hpred (by rw [hpad, ha, hb, align_pad_b hlt]) hc
  case equal =>
    rintro rfl ha hb hc
    exact firesAs_pass_stop (eat := [.a, .b]) hform hpred (by rw [ha, hb, align_stops]) fun _ => hc

/-! ## The identity of a form under pad (R185, R186) -/

@[simp] theorem length_lanesOf (w : Nat) : ∀ n v : Nat, (lanesOf w n v).length = n
  | 0, _ => rfl
  | n + 1, v => by simp [lanesOf, length_lanesOf w n]

@[simp] theorem length_intLanes (t : TyCode) (r v : Nat) : (intLanes t r v).length = tyLanes t := by
  cases t <;> simp [intLanes, tyLanes, tyVec]

@[simp] theorem length_floatLanes (t : TyCode) (r h v : Nat) : (floatLanes t r h v).length = tyLanes t := by
  unfold floatLanes
  split
  · rfl
  · split <;> simp

/-- The third list of a form without operand c only has to be long enough. -/
theorem zip3_first_two (g : Nat → Nat → Nat) : ∀ {A B C : List Nat}, A.length ≤ C.length →
    zip3 (fun a b _ => g a b) A B C = List.zipWith g A B
  | [], _, _, _ => by simp [zip3]
  | _ :: _, [], _, _ => by simp [zip3]
  | _ :: _, _ :: _, [], hlen => by simp at hlen
  | _ :: _, _ :: _, _ :: _, hlen => by simp [zip3, zip3_first_two g (Nat.le_of_succ_le_succ hlen)]

theorem zip3F_first_two (g : FVal → FVal → FVal) (d : FloatF) : ∀ {A B C : List Nat}, A.length ≤ C.length →
    zip3F (fun a b _ => g a b) d A B C = List.zipWith g (A.map d.dec) (B.map d.dec)
  | [], _, _, _ => by simp [zip3F]
  | _ :: _, [], _, _ => by simp [zip3F]
  | _ :: _, _ :: _, [], hlen => by simp at hlen
  | _ :: _, _ :: _, _ :: _, hlen => by simp [zip3F, zip3F_first_two g d (Nat.le_of_succ_le_succ hlen)]

theorem genWord_eq_ite (m : RMode) (g : Nat) : genWord m g = if m = .sr then [(13, BitVec.ofNat 32 g)] else [] := by
  cases m <;> rfl

/-- What pad makes of one datum and one stop: the immediate is the other operand. -/
theorem align_pad_onlyA {a b : Inp} {l x : Nat} (ha : a = .data x) (hb : b = .stop l) : align .pad a b = .onlyA x := by
  subst ha hb; rfl

theorem align_pad_onlyB {a b : Inp} {l y : Nat} (ha : a = .stop l) (hb : b = .data y) : align .pad a b = .onlyB y := by
  subst ha hb; rfl

section
variable {w : OpA} {s : State} {l x : Nat} (hib : w.ib = false) (hpad : w.mm = .pad) (hpred : w.pred = .always)
include hib hpad hpred

theorem intPairs_pad_a {e : (OpA → Instr) × (OpA → Ins → Nat → Nat → Nat)} (he : e ∈ intPairs)
    (ha : (insOf s).a = .data x) (hb : (insOf s).b = .stop l) :
    FiresAs (e.1 w) s w.t0 w.t1
      { eat := [.a], outs := toBoth (outLanes w.ty
          (List.zipWith (e.2 w (insOf s)) (intLanes w.ty (insOf s).fa x) (lanesImm w.ty w.imm.toNat))) } := by
  have hexec := exec_intPairs e he w s
  rw [intForm, hpred, predicated_always, hib, hpad, streams_of_onlyA (align_pad_onlyA ha hb),
    zip3_first_two _ (by simp)] at hexec
  exact firesAs_of_operate hexec

theorem intPairs_pad_b {e : (OpA → Instr) × (OpA → Ins → Nat → Nat → Nat)} (he : e ∈ intPairs)
    (ha : (insOf s).a = .stop l) (hb : (insOf s).b = .data x) :
    FiresAs (e.1 w) s w.t0 w.t1
      { eat := [.b], outs := toBoth (outLanes w.ty
          (List.zipWith (e.2 w (insOf s)) (lanesImm w.ty w.imm.toNat) (intLanes w.ty (insOf s).fb x))) } := by
  have hexec := exec_intPairs e he w s
  rw [intForm, hpred, predicated_always, hib, hpad, streams_of_onlyB (align_pad_onlyB ha hb),
    zip3_first_two _ (by simp [lanesImm])] at hexec
  exact firesAs_of_operate hexec

theorem floatPairs_pad_a {e : (OpA → Instr) × (RMode → FVal → FVal → FVal)} (he : e ∈ floatPairs)
    (ha : (insOf s).a = .data x) (hb : (insOf s).b = .stop l) :
    FiresAs (e.1 w) s w.t0 w.t1
      (floatFire w (insOf s) [.a] (List.zipWith (e.2 (rmF w)) (decLanes w (floatLanes w.ty (insOf s).fa (insOf s).ha x))
        (decLanes w (lanesImm w.ty w.imm.toNat)))) := by
  have hexec := exec_floatPairs e he w s
  rw [floatForm, hpred, predicated_always, hib, hpad, streams_of_onlyA (align_pad_onlyA ha hb),
    zip3F_first_two _ _ (by simp)] at hexec
  simp only [genWord_eq_ite] at hexec
  exact firesAs_of_operate hexec

theorem floatPairs_pad_b {e : (OpA → Instr) × (RMode → FVal → FVal → FVal)} (he : e ∈ floatPairs)
    (ha : (insOf s).a = .stop l) (hb : (insOf s).b = .data x) :
    FiresAs (e.1 w) s w.t0 w.t1
      (floatFire w (insOf s) [.b] (List.zipWith (e.2 (rmF w)) (decLanes w (lanesImm w.ty w.imm.toNat))
        (decLanes w (floatLanes w.ty (insOf s).fb (insOf s).hb x)))) := by
  have hexec := exec_floatPairs e he w s
  rw [floatForm, hpred, predicated_always, hib, hpad, streams_of_onlyB (align_pad_onlyB ha hb),
    zip3F_first_two _ _ (by simp [lanesImm])] at hexec
  simp only [genWord_eq_ite] at hexec
  exact firesAs_of_operate hexec

end

/-- Settles O2: each form of the tables carries out a plan over its streams (`streamForm_alignedForms`, `streamForm_aligners`),
and what such a plan makes of stops, unlike levels and a false predicate does not depend on what the form computes. -/
theorem streamAlignment : Obligations.StreamAlignment := by
  refine ⟨fun c hc w s l x y => ?aligned, fun e he => aligns_of_streamForm (streamForm_aligners e he),
    fun e he w s l x => ?int, fun e he w s l x => ?float, oneStreamForms_forward_stop, predicatedOnes_forward_stop⟩
  case aligned =>
    have hform := streamForm_alignedForms c hc w
    exact ⟨firesAs_equal_stops hform, firesAs_predicate_off hform⟩
  case int => exact fun hib hpad hpred => ⟨intPairs_pad_a hib hpad hpred he, intPairs_pad_b hib hpad hpred he⟩
  case float => exact fun hib hpad hpred => ⟨floatPairs_pad_a hib hpad hpred he, floatPairs_pad_b hib hpad hpred he⟩

end Sys2Proof.Proofs.Alignment
end

section
/-! SUPPORT. Bounds and permits: what becomes of a slot's operator state when the head of an operand is taken without a
firing, and the statement about the two steps that do so. -/
namespace Sys2Proof.Proofs.BoundsAndPermits
open Sys2Proof.Machine Sys2Proof.Laws

/-! ## The arms of exec for the two steps -/

@[simp] theorem exec_ctrBoundArrival (isl slot unit : Nat) (s : State) :
    exec (.ctrBoundArrival isl slot unit) s = execCtrBoundArrival isl slot unit s := rfl
@[simp] theorem exec_permitReturn (isl slot unit : Nat) (s : State) :
    exec (.permitReturn isl slot unit) s = execPermitReturn isl slot unit s := rfl

/-! ## The context of a slot and its operator state -/

theorem ctxAt_setCtx_same {s : State} (isl slot : Nat) (c : Ctx) (h : Tab.wf {} s.ctxs = true) :
    ctxAt (setCtx s isl slot c) isl slot = c := by
  unfold ctxAt setCtx
  exact get_set_same {} c (ctxKey isl slot) h

theorem setCtx_ctxs_wf {s : State} (isl slot : Nat) (c : Ctx) (h : Tab.wf {} s.ctxs = true) :
    Tab.wf {} (setCtx s isl slot c).ctxs = true :=
  set_wf {} (ctxKey isl slot) c h

theorem sameMachine_setCtx (s : State) (isl slot : Nat) (c : Ctx) : SameMachine s (setCtx s isl slot c) := by
  simp [SameMachine, setCtx]

theorem sameMachine_trans {s t u : State} (hst : SameMachine s t) (htu : SameMachine t u) : SameMachine s u := by
  unfold SameMachine at *
  simp_all

theorem opWord_setOpWord_same {c : Ctx} (unit i : Nat) (v : Word) (h : Tab.wf 0 c.opst = true) :
    opWord (setOpWord c unit i v) unit i = v :=
  get_set_same 0 v (16 * unit + i) h

theorem opWord_setOpWord_other (c : Ctx) (unit : Nat) {i j : Nat} (v : Word) (hji : j ≠ i) :
    opWord (setOpWord c unit i v) unit j = opWord c unit j :=
  get_set_other 0 v (by omega) c.opst

theorem setOpWord_opst_wf {c : Ctx} (unit i : Nat) (v : Word) (h : Tab.wf 0 c.opst = true) :
    Tab.wf 0 (setOpWord c unit i v).opst = true :=
  set_wf 0 (16 * unit + i) v h

@[simp] theorem popBuf_opst (c : Ctx) (cell key n : Nat) : (popBuf c cell key n).opst = c.opst := by
  simp only [popBuf]
  split <;> rfl

/-! ## A head taken without a firing (R188, R189) -/

section
variable {s : State} {isl slot unit : Nat} (h : Tab.wf {} s.ctxs = true)
include h

theorem takeHead_ctxs_wf (pos : Nat) : Tab.wf {} (takeHead s isl slot unit pos).ctxs = true :=
  setCtx_ctxs_wf isl slot _ h

theorem ctxAt_takeHead_opst (pos : Nat) :
    (ctxAt (takeHead s isl slot unit pos) isl slot).opst = (ctxAt s isl slot).opst := by
  rw [takeHead, modCtx, ctxAt_setCtx_same isl slot _ h, popBuf_opst]

theorem ctxAt_modCtx_takeHead (pos : Nat) (f : Ctx → Ctx) :
    ctxAt (modCtx (takeHead s isl slot unit pos) isl slot f) isl slot = f (ctxAt (takeHead s isl slot unit pos) isl slot) :=
  ctxAt_setCtx_same isl slot _ (takeHead_ctxs_wf h pos)

end

theorem sameMachine_modCtx_takeHead (s : State) (isl slot unit pos : Nat) (f : Ctx → Ctx) :
    SameMachine s (modCtx (takeHead s isl slot unit pos) isl slot f) :=
  sameMachine_trans (sameMachine_setCtx s isl slot _) (sameMachine_setCtx _ isl slot _)

section
variable {s : State} {isl slot unit v : Nat} {w : OpA} (hctxs : Tab.wf {} s.ctxs = true)
  (hopst : Tab.wf 0 (ctxAt s isl slot).opst = true) (hactive : (ctxAt s isl slot).st = .active)
include hctxs hopst hactive

/-- The new bound is pending: word 1 holds it, and bit 0 of word 2 says so (R377). -/
theorem ctrBoundArrival_pends
    (hdec : decodeOp ((ctxAt s isl slot).block.insts.getD unit 0).toNat = .ok (.ctr w)) (hbound : w.imm.toNat / 64 % 2 = 1)
    (hdata : operandIn (ctxAt s isl slot) (unit / 8) (unit % 8) 2 = .data v) :
    ∃ t, exec (.ctrBoundArrival isl slot unit) s = .next t ∧ opWord (ctxAt t isl slot) unit 1 = BitVec.ofNat 32 v ∧
      (opWord (ctxAt t isl slot) unit 2).toNat % 2 = 1 ∧ SameMachine s t := by
  simp only [exec_ctrBoundArrival, execCtrBoundArrival, hdec, hactive, hbound, hdata, and_self, if_true]
  have hopst2 : Tab.wf 0 (ctxAt (takeHead s isl slot unit 2) isl slot).opst = true := by
    rwa [ctxAt_takeHead_opst hctxs]
  refine ⟨_, rfl, ?bound, ?pending, sameMachine_modCtx_takeHead s isl slot unit 2 _⟩
  case bound =>
    rw [ctxAt_modCtx_takeHead hctxs, opWord_setOpWord_other _ _ _ (by decide)]
    exact opWord_setOpWord_same unit 1 _ hopst2
  case pending =>
    rw [ctxAt_modCtx_takeHead hctxs, opWord_setOpWord_same unit 2 _ (setOpWord_opst_wf unit 1 _ ?wf), BitVec.toNat_ofNat]
    · omega
    case wf => exact hopst2

/-- The permit that comes back raises the count, which is below its limit (R378). -/
theorem permitReturn_raises
    (hdec : decodeOp ((ctxAt s isl slot).block.insts.getD unit 0).toNat = .ok (.permit w))
    (hdata : operandIn (ctxAt s isl slot) (unit / 8) (unit % 8) 1 = .data v)
    (hbelow : (opWord (ctxAt s isl slot) unit 0).toNat ≠ w.imm.toNat % 16) :
    ∃ t, exec (.permitReturn isl slot unit) s = .next t ∧
      opWord (ctxAt t isl slot) unit 0 = opWord (ctxAt s isl slot) unit 0 + 1 ∧ SameMachine s t := by
  simp only [exec_permitReturn, execPermitReturn, hdec, hactive, hdata, hbelow, if_true, if_false]
  have hopst1 : Tab.wf 0 (ctxAt (takeHead s isl slot unit 1) isl slot).opst = true := by
    rwa [ctxAt_takeHead_opst hctxs]
  refine ⟨_, rfl, ?count, sameMachine_modCtx_takeHead s isl slot unit 1 _⟩
  rw [ctxAt_modCtx_takeHead hctxs, opWord_setOpWord_same _ _ _ hopst1]
  bv_omega

end

/-- Settles O7: both steps take the head of the operand and write the slot's operator state, nothing else. -/
theorem boundsAndPermits : Obligations.BoundsAndPermits := fun _ _ _ _ _ _ hctxs hopst hactive =>
  ⟨ctrBoundArrival_pends hctxs hopst hactive, permitReturn_raises hctxs hopst hactive⟩

end Sys2Proof.Proofs.BoundsAndPermits
end

section
/-! SUPPORT. Steps: what fetches an instruction runs it, and the statement about what a step runs. -/
namespace Sys2Proof.Proofs.Stepping
open Sys2Proof.Machine

/-! ## Each kind of move -/

section
variable {s s1 : State} {w : Nat} {i : Instr}

/-- The arbiter's choice in an issue cycle (R182, R183, R273): there is a ready slot, or the arbiter would choose none. -/
theorem stepFire_runs {isl cell k : Nat} (hfetch : fetchFire s isl cell k = some (s1, w)) (hdec : decodeOp w = .ok i)
    (hissue : issueCycle s isl = true) (hroom : checkRoom s isl cell = true) (hfailed : cellFailed s isl cell = false)
    (hpick : arbPick (curCtx s1) cell (readySlots s isl cell) = some k) :
    stepFire s isl cell k =
      exec i (modCtx s1 isl s1.cur.slot (fun c => arbAfter c cell (readySlots s isl cell) k eight)) := by
  have hready : readySlots s isl cell ≠ [] := by
    intro hnil
    rw [hnil] at hpick
    exact nomatch hpick
  simp [stepFire, hfetch, hdec, hissue, hroom, hfailed, hready, hpick]

theorem stepFire_of_fetch_none {isl cell k : Nat} (hfetch : fetchFire s isl cell k = none) :
    stepFire s isl cell k = .next s := by
  simp [stepFire, hfetch]

theorem stepBytecode_runs {q : Nat} (hfetch : fetchBytecode s q = some (s1, w)) (hdec : decodeQp w = .ok i) :
    stepBytecode s q = exec i s1 := by
  simp [stepBytecode, hfetch, hdec]

theorem stepIssue_runs {q : Nat} {p : Packet} (hpkt : (queueAt s q).pkt = some p) (hdec : decodePacket p = .ok i) :
    stepIssue s q = exec i { s with cur := { q := q } } := by
  simp [stepIssue, hpkt, hdec]

theorem stepMicro_runs {isl e : Nat} (hfetch : fetchMicro s isl e = some (s1, w)) (hlimit : issueLimited s isl = false)
    (hdec : decodeMicro w = .ok i) : stepMicro s isl e = exec i s1 := by
  simp [stepMicro, hfetch, hlimit, hdec]

theorem stepAct_event (hlive : heldInReset s = false) : stepAct s (.event i) = exec i s := by
  simp only [stepAct]
  split
  · rfl
  · simp [hlive]

end

/-- Settles O58: a step of a machine that is not held in reset does what the head of its agenda says, by the lemma about its
kind of move. -/
theorem stepRunsDecoded : Obligations.StepRunsDecoded := by
  intro s s1 n dt a rest w i hagenda s0 hlive
  have hstep : step s = stepAct s0 a := Package.step_of_agenda hagenda
  rw [hstep]
  refine ⟨?fire, ?idle, ?check, ?input, ?bytecode, ?issue, ?micro, ?event⟩
  case fire =>
    rintro isl cell k rfl hfetch hdec hissue hroom hfailed hpick
    simpa [stepAct, hlive] using stepFire_runs hfetch hdec hissue hroom hfailed hpick
  case idle =>
    rintro isl cell k rfl hfetch
    simpa [stepAct, hlive] using stepFire_of_fetch_none hfetch
  case check =>
    rintro isl cell rfl
    simp [stepAct, hlive]
  case input =>
    rintro x rfl
    simp [stepAct, hlive]
  case bytecode =>
    rintro q rfl hfetch hdec
    simpa [stepAct, hlive] using stepBytecode_runs hfetch hdec
  case issue =>
    rintro q p rfl hpkt hdec
    simpa [stepAct, hlive] using stepIssue_runs hpkt hdec
  case micro =>
    rintro isl e rfl hfetch hlimit hdec
    simpa [stepAct, hlive] using stepMicro_runs hfetch hlimit hdec
  case event =>
    rintro rfl
    exact stepAct_event hlive

end Sys2Proof.Proofs.Stepping
end

section
/-! SUPPORT. Generators and copy engines: how one of several moves is picked, what each move does where nothing stands in its
way, and the statement about their events. -/
namespace Sys2Proof.Proofs.Engines
open Sys2Proof.Machine Sys2Proof.Laws

/-! ## The arms of exec for generators and copy engines -/

@[simp] theorem exec_streamSpecAccept (die ag : Nat) (s : State) :
    exec (.streamSpecAccept die ag) s = execStreamSpecAccept die ag s := rfl
@[simp] theorem exec_streamElement (die ag : Nat) (s : State) :
    exec (.streamElement die ag) s = execStreamElement die ag s := rfl
@[simp] theorem exec_copyRequestStart (die ce : Nat) (s : State) :
    exec (.copyRequestStart die ce) s = execCopyRequestStart die ce s := rfl
@[simp] theorem exec_copyUnit (die ce : Nat) (s : State) : exec (.copyUnit die ce) s = execCopyUnit die ce s := rfl
@[simp] theorem exec_copyResume (die ce : Nat) (s : State) : exec (.copyResume die ce) s = execCopyResume die ce s := rfl

/-! ## Picking one of several (log entry 65) -/

/-- The state after one of `n` has been picked: a free value is drawn where there is a choice. -/
def picked (s : State) (n : Nat) : State := if n = 1 then s else { s with freeCount := s.freeCount + 1 }

theorem pickOf_nil (s : State) : pickOf s [] = (0, s) := rfl

theorem pickOf_singleton (s : State) (j : Nat) : pickOf s [j] = (j, s) := rfl

theorem pickOf_mem (s : State) : ∀ {l : List Nat}, l ≠ [] → ∃ j ∈ l, pickOf s l = (j, picked s l.length)
  | [], h => absurd rfl h
  | [j], _ => ⟨j, List.mem_singleton_self j, rfl⟩
  | a :: b :: l, _ => by
    have hlt : (Config.freeWord s.freeCount).toNat % (a :: b :: l).length < (a :: b :: l).length :=
      Nat.mod_lt _ (Nat.zero_lt_succ _)
    refine ⟨_, List.getElem_mem hlt, ?_⟩
    rw [picked, if_neg (by simp), List.getElem_eq_getD 0]
    rfl

/-- Of a list of moves that is not empty, the number that is picked names one. -/
theorem pickOf_range_getElem {α : Type} (s : State) {ms : List α} (h : ms ≠ []) :
    ∃ n, ∃ m ∈ ms, ms[n]? = some m ∧ pickOf s (List.range ms.length) = (n, picked s ms.length) := by
  obtain ⟨n, hn, hpick⟩ := pickOf_mem s (l := List.range ms.length) (by simpa using h)
  have hlt : n < ms.length := List.mem_range.mp hn
  exact ⟨n, ms[n], List.getElem_mem hlt, List.getElem?_eq_getElem hlt, by simpa using hpick⟩

/-! ## Specifications (R205, R209) -/

/-- Where the request of a generator's stream came from, as its binding gives it. -/
def genSource (s : State) (t die ag : Nat) : Nat :=
  match genRoute s t die ag 0 with
  | some (r, i, σ) => vcSource i σ (endCell (rtEnd r)) (endVc (rtEnd r))
  | none => 0

/-- The words that twelve tokens deliver. -/
def specWords (g : Gen) : List Word := (g.specQ.take 12).map (fun x => BitVec.ofNat 32 x.data.toNat)

section
variable {s : State} {die ag t : Nat} {g : Gen} (hg : s.gens.get {} (64 * die + ag) = g) (hthread : g.thread = some t)
include hg hthread

section
variable (hrun : g.run = none) (hlive : (threadAt s t).stop = none)
include hrun hlive

theorem streamSpecAccept_takes (hlen : 12 ≤ g.specQ.length) (hdata : ∀ x ∈ g.specQ.take 12, x.stop = 0)
    (hok : specOk (specWords g) = true) (hbound : specBound s t die ag (specWords g) = true) :
    exec (.streamSpecAccept die ag) s = .next (tookRequest (setGen s die ag { g with
      specQ := g.specQ.drop 12, run := some { spec := specWords g, deps := depsOf (g.specQ.take 12), no := s.nextAcc } })
      (genSource s t die ag)) := by
  have hnostop : (g.specQ.take 12).any (fun x => x.stop ≠ 0) = false := by simpa using hdata
  simp only [exec_streamSpecAccept, execStreamSpecAccept, hg, hthread, hrun]
  refine (if_neg ?due).trans (if_neg ?good)
  case due => simp [hlive, Nat.not_lt.mpr hlen]
  case good =>
    change ¬(_ ∨ (!specOk (specWords g)) = true ∨ (!specBound s t die ag (specWords g)) = true)
    simp only [hnostop, hok, hbound]
    decide

theorem streamSpecAccept_refuses
    (hbad : (∃ x ∈ g.specQ.take 12, x.stop ≠ 0) ∨
      (12 ≤ g.specQ.length ∧ (specOk (specWords g) = false ∨ specBound s t die ag (specWords g) = false)))
    (hgoes : g.stalled = false) :
    exec (.streamSpecAccept die ag) s =
      .next (raiseUnit (setGen s die ag { g with stalled := true }) t 1 (64 * die + ag) 0 0x9014 0 0) := by
  simp only [exec_streamSpecAccept, execStreamSpecAccept, hg, hthread, hrun]
  refine (if_neg ?due).trans ((if_pos ?refused).trans (if_neg ?goes))
  case goes => simp [hgoes]
  case due =>
    rintro (⟨hshort, hdata⟩ | hstop)
    · rcases hbad with ⟨x, hx, hxs⟩ | ⟨hlen, -⟩
      · exact hxs (by simpa using List.all_eq_true.mp hdata x hx)
      · omega
    · exact hstop hlive
  case refused =>
    rcases hbad with ⟨x, hx, hxs⟩ | ⟨-, hok | hbound⟩
    · exact .inl (List.any_eq_true.mpr ⟨x, hx, by simpa using hxs⟩)
    · exact .inr (.inl (congrArg not hok))
    · exact .inr (.inr (congrArg not hbound))

end

/-! ## The moves of a generator (R206, R236) -/

section
variable {r : Stream} (hrun : g.run = some r)
include hrun

theorem streamElement_idle (hnone : genMoves s t die ag g r = []) : exec (.streamElement die ag) s = .next s := by
  simp [execStreamElement, hg, hthread, hrun, hnone, pickOf_nil]

theorem streamElement_moves (hsome : genMoves s t die ag g r ≠ []) :
    ∃ m ∈ genMoves s t die ag g r, exec (.streamElement die ag) s =
      .next (doMove (picked s (genMoves s t die ag g r).length) t die ag g r m) := by
  obtain ⟨n, m, hm, hget, hpick⟩ := pickOf_range_getElem s hsome
  exact ⟨m, hm, by simp [execStreamElement, hg, hthread, hrun, hpick, hget]⟩

end

end

/-! ### Issue: an element of a read stream that is not a gather (R206) -/

section
variable {u : State} {t die ag : Nat} {g : Gen} {r : Stream} (hemit : r.emit = []) (hmode : spMode r.spec ≠ 1)
  (hlow : lowDim r.spec = 0) (hread : spWrite r.spec = false)
include hemit hmode hlow hread

theorem issue_reads (ks : List Nat) (u1 u2 : State)
    (hkeys : elemKeys u t die ag r.spec (elemAddr r.spec r.elem) = (.ok ks, u1))
    (hhazard : unitHazards u1 g.isl t die (unitNo ag r.no) ks (elemBytes r.spec) (spConsume r.spec) (mergeDeps r.deps []) =
      .ok u2) :
    doMove u t die ag g r .issue = setGen { u2 with nextAcc := u2.nextAcc + 1 } die ag { g with
      run := some (stepWalk { r with pipe := r.pipe ++ [{
        elem := r.elem, keys := ks, left := List.range (elemBytes r.spec / 4), addr := (elemAddr r.spec r.elem).toNat,
        id := u2.nextAcc }] }) } := by
  have hdeps : mergeDeps [] (depsOf []) = [] := rfl
  simp [doMove, issueNext, issueElem, hemit, hmode, hlow, hread, hkeys, hdeps, hhazard]

theorem issue_faults (f : Nat × Nat × Nat) (u1 : State)
    (hkeys : elemKeys u t die ag r.spec (elemAddr r.spec r.elem) = (.error f, u1)) :
    doMove u t die ag g r .issue =
      raiseUnit (setGen u1 die ag { g with stalled := true }) t 1 (64 * die + ag) r.elem f.1 f.2.1 f.2.2 := by
  simp [doMove, issueNext, issueElem, genFault, hemit, hmode, hlow, hread, hkeys]

end

/-! ### Performing the last word of an element, outside host memory -/

section
variable {u : State} {t die ag n k : Nat} {g : Gen} {r : Stream} {p : StreamItem} (hitem : r.pipe[n]? = some p)
  (hleft : p.left = [0]) (hkey : p.keys = [k]) (hhost : k < hostBase)

section
include hkey

theorem partKey_zero : partKey p 0 = k := by simp [partKey, hkey]

include hleft hhost

theorem together_last : together r p 0 = [0] := by
  simp [together, hleft, partKey_zero hkey, Nat.not_le.mpr hhost]

theorem readPart_last {u1 : State} (hgood : readCheck u k 1 = (.good, u1)) :
    readPart u t r p = (.ok { p with left := [], words := p.words.set 0 0 (rdWord u1 k) },
      if spConsume r.spec then setFull u1 k false else u1) := by
  have hpick : pickOf u (if spSync r.spec then p.left.take 1 else p.left) = (0, u) := by simp [hleft, pickOf_singleton]
  simp only [readPart, hpick]
  simp [together_last hleft hkey hhost, partKey_zero hkey, Nat.not_le.mpr hhost, hgood, hleft]

theorem writePart_last :
    writePart u t r p = (.ok { p with left := [] },
      if spSbuf r.spec then setFull (wrWord u k (p.words.get 0 0)) k true else wrWord u k (p.words.get 0 0)) := by
  simp [writePart, hleft, pickOf_singleton, together_last hleft hkey hhost, partKey_zero hkey, Nat.not_le.mpr hhost]

end

include hitem hleft hkey hhost

theorem perform_reads_last (hread : spWrite r.spec = false) {u1 : State} (hgood : readCheck u k 1 = (.good, u1)) :
    let v := if spConsume r.spec then setFull u1 k false else u1
    doMove u t die ag g r (.perform n) = setGen v die ag { g with run := some { r with
      pipe := r.pipe.set n { p with left := [], words := p.words.set 0 0 (rdWord u1 k) },
      deps := if v.pcie.posted.any (fun w => w.id == p.id) then mergeDeps r.deps [p.id] else r.deps } } := by
  simp [doMove, performItem, putPipe, hitem, hread, readPart_last hleft hkey hhost hgood]

theorem perform_writes_last (hwrite : spWrite r.spec = true) :
    let v := wrWord u k (p.words.get 0 0)
    let w := if spSbuf r.spec then setFull v k true else v
    doMove u t die ag g r (.perform n) = setGen w die ag { g with run := some { r with
      pipe := r.pipe.eraseIdx n,
      deps := if w.pcie.posted.any (fun x => x.id == p.id) then mergeDeps r.deps [p.id] else r.deps } } := by
  simp [doMove, performItem, putPipe, hitem, hwrite, writePart_last hleft hkey hhost]

end

/-! ### Emission and the end (R206, R209) -/

section
variable {u v : State} {t die ag : Nat} {g : Gen} {r : Stream}

theorem emit_sends {p : StreamItem} {rest : List StreamItem} (hpipe : r.pipe = p :: rest) (hread : spWrite r.spec = false)
    (hwhole : p.stop ≠ 0 ∨ p.left = [])
    (hsend : unitSend u ((genRoute u t die ag 2).bind (routeDest u)) (itemToks u t die ag g r p) = some v) :
    doMove u t die ag g r .emit = setGen v die ag { g with run := some { r with pipe := rest } } := by
  have hleaves : ¬(spWrite r.spec = true ∨ (p.stop = 0 ∧ p.left ≠ [])) := by
    rw [hread]
    rcases hwhole with hstop | hmoved
    · simp [hstop]
    · simp [hmoved]
  simp [doMove, emitHead, dataSend, putPipe, hpipe, hleaves, hsend]

theorem finish_read (hread : spWrite r.spec = false) :
    doMove u t die ag g r .finish = setGen u die ag { g with run := none } := by
  simp [doMove, endStream, hread]

theorem finish_write (hwrite : spWrite r.spec = true)
    (hsend : unitSend u ((genDone u t die ag).bind (routeDest u))
      [scalarTok 0 (unitDeps u g.isl die (unitNo ag r.no) r.deps)] = some v) :
    doMove u t die ag g r .finish = setGen v die ag { g with run := none } := by
  simp [doMove, endStream, hwrite, hsend]

end

/-! ## Requests of a copy engine (R216) -/

section
variable {s : State} {die ce : Nat} {e : CopyEng} (he : ceAt s (8 * die + ce) = e)
include he

theorem copyRequestStart_starts {r : CopyReq} {q : List CopyReq} (hgather : e.gather = []) (hrun : e.run = none)
    (hnext : e.pendingQ = r :: q) : exec (.copyRequestStart die ce) s =
      .next (setCe s (8 * die + ce) { e with run := some r, pendingQ := q }) := by
  simp [execCopyRequestStart, he, hgather, takeRequests, hrun, hnext]

theorem copyResume_resumes {r : CopyReq} (hrun : e.run = none)
    (hfind : e.aside.find? (fun r => r.fault.isNone && !toSetAside s r) = some r) :
    exec (.copyResume die ce) s =
      .next (setCe s (8 * die + ce) { e with run := some r, aside := e.aside.erase r }) := by
  simp only [exec_copyResume, execCopyResume, he, hrun, hfind]

/-! ## The moves of a copy engine (R216, R236) -/

variable {r : CopyReq} (hrun : e.run = some r)
include hrun

theorem copyUnit_setsAside (hoff : (toSetAside s r && r.fault.isNone && decide (e.aside.length < 8)) = true) :
    exec (.copyUnit die ce) s = .next (setAside s (8 * die + ce) r) := by
  simp only [Bool.and_eq_true, decide_eq_true_eq, and_assoc] at hoff
  simp only [exec_copyUnit, execCopyUnit, he, hrun]
  exact if_pos hoff

variable (hoff : (toSetAside s r && r.fault.isNone && decide (e.aside.length < 8)) = false)
include hoff

theorem copyUnit_keepsRequest :
    exec (.copyUnit die ce) s = .next (execCopyUnit.moveCopy (8 * die + ce) s) := by
  simp only [exec_copyUnit, execCopyUnit, he, hrun]
  refine if_neg fun h => ?_
  simp [h] at hoff

theorem copyUnit_idle (hnone : ceMoves s (8 * die + ce) = []) : exec (.copyUnit die ce) s = .next s := by
  rw [copyUnit_keepsRequest he hrun hoff]
  simp [execCopyUnit.moveCopy, hnone, pickOf_nil]

theorem copyUnit_moves (hsome : ceMoves s (8 * die + ce) ≠ []) :
    ∃ m ∈ ceMoves s (8 * die + ce), exec (.copyUnit die ce) s =
      .next (doCopy (picked s (ceMoves s (8 * die + ce)).length) (8 * die + ce) m) := by
  obtain ⟨n, m, hm, hget, hpick⟩ := pickOf_range_getElem s hsome
  refine ⟨m, hm, ?_⟩
  rw [copyUnit_keepsRequest he hrun hoff]
  simp [execCopyUnit.moveCopy, hpick, hget]

end

/-! ### Units (R216, R218) -/

section
variable {u : State} {i : Nat} {r : CopyReq}

theorem copyIssue_unit {a b : Nat} {u1 u2 : State} (hrun : (ceAt u i).run = some r) (hsrc : epKind r.src ≠ 3)
    (hbuf : r.buf = []) (hread : unitKeyH u i r r.src .read (!r.consume) r.consume = (.ok a, u1))
    (hwrite : unitKeyH u1 i r r.dst .write false true = (.ok b, u2)) :
    doCopy u i .issue = putReq { u2 with nextAcc := u2.nextAcc + 1 } i 0 { r with
      unit := r.unit + 1,
      inFlight := r.inFlight ++ [{ unit := r.unit, src := a, dst := b, id := u2.nextAcc, left := List.range 16,
                                   todo := List.range 16 }] } := by
  have hpad : srcPad u2 r = false := by simp [srcPad, hsrc]
  simp [doCopy, issueUnit, hrun, hsrc, hbuf, hread, hwrite, hpad]

theorem endReq_completes {j : Nat} (hflight : r.inFlight = []) (hfault : r.fault = none) (hall : r.len / 64 ≤ r.unit) :
    endReq u i j r = copyDone (dropReq u i j) r := by
  simp [endReq, hflight, hfault, hall]

section
variable {j : Nat} {c : CopyUnit} (hreq : reqAt (ceAt u i) j = some r)
include hreq

theorem copyUnit_reads {u1 : State} (hleft : c.left ≠ []) (hhost : c.src < hostBase) (hconsume : r.consume = false)
    (hdst : epKind r.dst ≠ 3) (hgood : readCheck u c.src 16 = (.good, u1)) :
    doCopy u i (.unit j c) = putReq u1 i j { r with inFlight := r.inFlight.map (fun x => if x.unit = c.unit then
      { c with left := [], words := (rdWords u1 c.src 16).zipIdx.map (fun y => (y.2, y.1)) } else x) } := by
  simp [doCopy, hreq, performUnit, stepUnit, readUnit, hleft, Nat.not_le.mpr hhost, hgood, hconsume, hdst]

theorem copyUnit_writes (hleft : c.left = []) (hhost : c.dst < hostBase) (hdst : epKind r.dst ≠ 3) :
    let n := c.todo.length
    let w := wrWords u c.dst ((unitWords c).take n)
    let v := if epKind r.dst ≠ 0 then setFulls (writtenBank w c.dst n) c.dst true n
      else if n = 16 then wholeLine (writtenBank w c.dst 16) c.dst else w
    let r1 := { r with inFlight := r.inFlight.filter (fun x => x.unit != c.unit), done := r.done + 1 }
    doCopy u i (.unit j c) = endReq (putReq v i j r1) i j r1 := by
  simp only [doCopy, hreq, performUnit, stepUnit, hleft, if_true, writeUnit, hdst, if_false, Nat.not_le.mpr hhost]

theorem copyFinish_ends (hflight : r.inFlight = []) (hfault : r.fault = none) (hall : r.len / 64 ≤ r.unit) :
    doCopy u i (.finish j) = copyDone (dropReq (putReq u i j r) i j) r := by
  have hnone : { r with inFlight := [] } = r := congrArg (fun l => { r with inFlight := l }) hflight.symm
  simp only [doCopy, hreq]
  rw [hnone, endReq_completes hflight hfault hall]

end

end

/-! ## The events of generators and copy engines -/

/-- Settles O53: each event and each move by the lemma about it above; a move that is made is one of the list because the
number that is picked lies in its range (`pickOf_range_getElem`). -/
theorem generatorAndCopyEvents : Obligations.GeneratorAndCopyEvents := by
  intro s die ag t g toks ws i e drawn src
  refine ⟨fun hthread hrun hlive => ⟨streamSpecAccept_takes rfl hthread hrun hlive,
      streamSpecAccept_refuses rfl hthread hrun hlive⟩,
    fun r hthread hrun => ⟨streamElement_idle rfl hthread hrun, streamElement_moves rfl hthread hrun⟩,
    fun u r => ?generator,
    fun r q => copyRequestStart_starts rfl,
    fun r hrun => ⟨copyUnit_setsAside rfl hrun, copyUnit_idle rfl hrun, copyUnit_moves rfl hrun⟩,
    fun u r => ?engine,
    fun r => copyResume_resumes rfl⟩
  case generator =>
    exact ⟨fun ks u1 u2 hemit hmode hlow hread => issue_reads hemit hmode hlow hread ks u1 u2,
      fun f u1 hemit hmode hlow hread => issue_faults hemit hmode hlow hread f u1,
      fun n p k u1 hitem hleft hkey hhost hread => perform_reads_last hitem hleft hkey hhost hread,
      fun n p k => perform_writes_last, fun p rest v => emit_sends, finish_read, fun v => finish_write⟩
  case engine =>
    exact ⟨fun a b u1 u2 => copyIssue_unit, fun j c u1 hreq => copyUnit_reads hreq, fun j c => copyUnit_writes,
      fun j => copyFinish_ends⟩

end Sys2Proof.Proofs.Engines
end

section
/-! SUPPORT. Accesses and faults: what the results of an operation leave alone as they leave, how an access moves past its queues
and is performed at its home, how waiting ones wake, what becomes of a thread's faults and of their records, and the statement
about these events. -/
namespace Sys2Proof.Proofs.Accesses
open Sys2Proof.Machine Sys2Proof.Laws

/-! ## The arms of exec for accesses and faults -/

@[simp] theorem exec_accessComplete (id : Nat) (ecc : Ecc) (s : State) :
    exec (.accessComplete id ecc) s = execAccessComplete id ecc s := rfl
@[simp] theorem exec_fullEmptyWake (id : Nat) (s : State) : exec (.fullEmptyWake id) s = execFullEmptyWake id s := rfl
@[simp] theorem exec_waitgeWake (id : Nat) (s : State) : exec (.waitgeWake id) s = execWaitgeWake id s := rfl
@[simp] theorem exec_gwaitWake (id : Nat) (s : State) : exec (.gwaitWake id) s = execGwaitWake id s := rfl
@[simp] theorem exec_faultPark (t : Nat) (s : State) : exec (.faultPark t) s = execFaultPark t s := rfl
@[simp] theorem exec_threadStop (t : Nat) (s : State) : exec (.threadStop t) s = execThreadStop t s := rfl
@[simp] theorem exec_fltpop (l : Level) (v : Word) (s : State) : exec (.fltpop l v) s = execFltpop l v s := rfl
@[simp] theorem exec_faultResume (l : Level) (v : Word) (s : State) :
    exec (.faultResume l v) s = execFaultResume l v s := rfl
@[simp] theorem exec_faultTerminate (l : Level) (v : Word) (s : State) :
    exec (.faultTerminate l v) s = execFaultTerminate l v s := rfl

/-! ## Results that leave change no storage (R488) -/

/-- Memory with its full-empty bits, the queues and the rings. -/
def storage (s : State) : Tab Byte × Tab Bool × Tab Queue × Tab Ring := (s.mem, s.full, s.queues, s.rings)

@[simp] theorem storage_modCtx (s : State) (isl σ : Nat) (f : Ctx → Ctx) : storage (modCtx s isl σ f) = storage s := rfl

@[simp] theorem storage_putAcc (s : State) (a : Acc) : storage (putAcc s a) = storage s := rfl

@[simp] theorem storage_dropAcc (s : State) (id : Nat) : storage (dropAcc s id) = storage s := rfl

@[simp] theorem storage_sendTarget (s : State) (isl slot cell srcNo which : Nat) (t : Target) (k : Tok) :
    storage (sendTarget s isl slot cell srcNo which t k) = storage s := by
  unfold sendTarget
  split
  · rfl
  · split <;> rfl
  · rfl

@[simp] theorem storage_sendTokens (isl slot cell srcNo which : Nat) (t : Target) : ∀ (l : List Tok) (s : State),
    storage (sendTokens s isl slot cell srcNo which t l) = storage s
  | [], _ => rfl
  | k :: l, s => by rw [sendTokens, storage_sendTokens isl slot cell srcNo which t l, storage_sendTarget]

@[simp] theorem storage_deliverAt (x : Site) (t0 t1 : Target) (deps : List Nat) : ∀ (l : List (Bool × OutV)) (s : State),
    storage (deliverAt s x t0 t1 deps l) = storage s
  | [], _ => rfl
  | (b, v) :: l, s => by
    have ih := storage_deliverAt x t0 t1 deps l
    cases h : targetOfFlag t0 t1 b with
    | keep k => cases v <;> simp only [deliverAt, h, ih] <;> rfl
    | none | exit | operand | vc => simp only [deliverAt, h, ih, storage_sendTokens]

@[simp] theorem storage_flushSite (x : Site) : ∀ (n : Nat) (s : State), storage (flushSite x n s) = storage s
  | 0, _ => rfl
  | n + 1, s => by
    unfold flushSite
    split
    · rfl
    · split
      · rw [storage_flushSite x n, storage_deliverAt]
        split <;> rfl
      · rfl

@[simp] theorem storage_noteLoad (s : State) (a : Acc) (res : List Word) : storage (noteLoad s a res) = storage s := by
  simp only [noteLoad]
  split <;> rfl

theorem storage_performAcc (s : State) (a : Acc) (res : List Word) : storage (performAcc s a res) = storage s := by
  simp only [performAcc, flushOf, storage_flushSite]
  split <;> simp

theorem performAcc_keeps_storage (s : State) (a : Acc) (res : List Word) :
    (performAcc s a res).mem = s.mem ∧ (performAcc s a res).full = s.full ∧
      (performAcc s a res).queues = s.queues ∧ (performAcc s a res).rings = s.rings := by
  simpa [storage] using storage_performAcc s a res

/-! ## A store changes its own words only -/

theorem rdByte_wrWords_other {b : Nat} : ∀ {ws : List Word} {s : State} {key : Nat}, b < key ∨ key + 4 * ws.length ≤ b →
    rdByte (wrWords s key ws) b = rdByte s b
  | [], _, _, _ => rfl
  | w :: ws, s, key, h => by
    rw [List.length_cons] at h
    rw [wrWords, rdByte_wrWords_other (by omega), wrWord]
    exact rdByte_wrBytes_other s key b _ (by rw [Straits.length_leBytes]; omega)

/-! ## What an access does at its home (R202, R217, R225, R285, R288) -/

section
variable {s : State} {a : Acc}

theorem touch_load (hkind : a.kind = .load) : touch s a = (.done (rdWords s a.addr a.n), s) := by simp [touch, hkind]

theorem touch_store (hkind : a.kind = .store) : touch s a =
    (.done [], if a.space = .cell then clearPoison (wrWords s a.addr a.val) a.addr a.n else wrWords s a.addr a.val) := by
  simp [touch, hkind]

theorem touch_loadFull_full (hkind : a.kind = .loadFull) (hfull : allFull s a.addr a.n = true) : touch s a =
    (.done (rdWords s a.addr a.n), if a.cons then setFulls s a.addr false a.n else s) := by
  simp [touch, hkind, hfull]

theorem touch_loadFull_empty (hkind : a.kind = .loadFull) (hempty : allFull s a.addr a.n = false) :
    touch s a = (.wait, s) := by
  simp [touch, hkind, hempty]

theorem touch_waitGe_poisoned (hkind : a.kind = .waitGe) (hpoison : (rdDword s a.addr).testBit 63 = true) :
    touch s a = (.done [1], s) := by
  simp [touch, hkind, hpoison]

theorem touch_waitGe_reached (hkind : a.kind = .waitGe) (hgood : (rdDword s a.addr).testBit 63 = false)
    (hge : wordsNat a.val ≤ rdDword s a.addr % 2 ^ 63) : touch s a = (.done [0], s) := by
  simp only [touch, hkind, hgood, if_pos hge, Bool.false_eq_true, if_false]

theorem touch_waitGe_below (hkind : a.kind = .waitGe) (hgood : (rdDword s a.addr).testBit 63 = false)
    (hlt : rdDword s a.addr % 2 ^ 63 < wordsNat a.val) : touch s a = (.wait, s) := by
  simp only [touch, hkind, hgood, if_neg (Nat.not_le.mpr hlt), Bool.false_eq_true, if_false]

theorem accReads_load (hkind : a.kind = .load) : accReads a = true := by simp [accReads, hkind]

theorem accReads_store (hkind : a.kind = .store) : accReads a = false := by simp [accReads, hkind]

/-! ### Banks -/

theorem tryCell_load_good {u : State} (hkind : a.kind = .load) (hcheck : readCheck s a.addr a.n = (.good, u)) :
    tryCell s a .ok = (.done (rdWords u a.addr a.n), u) := by
  simp [tryCell, accReads_load hkind, upsetNow, hcheck, touch_load hkind]

theorem tryCell_load_poisoned {j : Nat} {u : State} (hkind : a.kind = .load)
    (hcheck : readCheck s a.addr a.n = (.poisoned j, u)) : tryCell s a .ok = (.fault 0x9033 (a.va + j) 1, u) := by
  simp [tryCell, accReads_load hkind, upsetNow, hcheck]

theorem tryCell_load_bad {u : State} (hkind : a.kind = .load) (hcheck : readCheck s a.addr a.n = (.bad, u)) :
    tryCell s a .ok = (.later, failFiring u a.site a.firing (unitsOf a.addr a.n)) := by
  simp [tryCell, accReads_load hkind, upsetNow, hcheck]

theorem tryCell_store (hkind : a.kind = .store) (hspace : a.space = .cell) : tryCell s a .ok =
    (.done [], writtenBank (clearPoison (wrWords s a.addr a.val) a.addr a.n) a.addr a.n) := by
  simp [tryCell, accReads_store hkind, touch_store hkind, hspace, hkind]

/-! ### HBM4 -/

theorem tryHbm_load_good {u : State} (hkind : a.kind = .load) (hcheck : readCheck s a.addr a.n = (.good, u)) :
    tryHbm s a .ok = (.done (rdWords u a.addr a.n), u) := by
  simp [tryHbm, accReads_load hkind, upsetNow, hcheck, touch_load hkind]

theorem tryHbm_load_bad {f : Found} {u : State} (hkind : a.kind = .load) (hcheck : readCheck s a.addr a.n = (f, u))
    (hbad : f ≠ .good) : tryHbm s a .ok = (.fault 0x9006 a.va 0, u) := by
  cases f <;> simp_all [tryHbm, accReads, upsetNow]

theorem tryHbm_store (hkind : a.kind = .store) (hspace : a.space = .hbm) : tryHbm s a .ok =
    (.done [], if a.n = 16 then wholeLine (writtenBank (wrWords s a.addr a.val) a.addr 16) a.addr
      else wrWords s a.addr a.val) := by
  simp [tryHbm, accReads_store hkind, touch_store hkind, hspace]

/-! ### Host memory (R61) -/

section
variable {u : State} (hkind : a.kind = .load) (hn : a.n ≠ 16)
include hkind hn

theorem tryHost_load_answered (hask : hostAsk s a.part false (a.addr - hostBase) (4 * a.n) = (true, u)) :
    tryHost s a .ok = (.done (rdWords u a.addr a.n), u) := by
  simp [tryHost, accReads_load hkind, hn, hask, touch_load hkind, hkind]

theorem tryHost_load_uncorrectable (hask : hostAsk s a.part false (a.addr - hostBase) (4 * a.n) = (true, u)) :
    tryHost s a .uncorrectable = (.fault 0x9005 a.va 0, u) := by
  simp [tryHost, accReads_load hkind, hn, hask]

theorem tryHost_load_refused (ecc : Ecc) (hask : hostAsk s a.part false (a.addr - hostBase) (4 * a.n) = (false, u)) :
    tryHost s a ecc = (.fault 0x9005 a.va 0, u) := by
  simp [tryHost, accReads_load hkind, hn, hask]

end

/-! ### By the kind of memory -/

section
variable (hrel : a.rel = false) (ecc : Ecc)
include hrel

theorem tryAcc_cell (hspace : a.space = .cell) : tryAcc s a ecc = tryCell s a ecc := by simp [tryAcc, hrel, hspace]
theorem tryAcc_sbuf (hspace : a.space = .sbuf) : tryAcc s a ecc = touch s a := by simp [tryAcc, hrel, hspace]
theorem tryAcc_hbm (hspace : a.space = .hbm) : tryAcc s a ecc = tryHbm s a ecc := by simp [tryAcc, hrel, hspace]
theorem tryAcc_host (hspace : a.space = .host) : tryAcc s a ecc = tryHost s a ecc := by simp [tryAcc, hrel, hspace]

end

end

/-! ## Performing at the home (R226, R230, R278) -/

/-- Nothing keeps the access from being performed at its home: no earlier access of its port to the location is outstanding, the
home can be reached, and the access's firing has not failed. -/
def Unhindered (s : State) (a : Acc) : Prop :=
  portBehind s a = false ∧ reaches s a (homePlace a) = true ∧ hasFailed s a = false

section
variable {s u : State} {a : Acc} {ecc : Ecc} (hfree : Unhindered s a)
include hfree

theorem not_hindered : ¬(portBehind s a = true ∨ (!reaches s a (homePlace a)) = true ∨ hasFailed s a = true) := by
  obtain ⟨hport, hreach, hfail⟩ := hfree
  simp [hport, hreach, hfail]

theorem homeAcc_done {res : List Word} (htry : tryAcc s a ecc = (.done res, u)) : homeAcc s a ecc = performAcc u a res := by
  rw [homeAcc, if_neg (not_hindered hfree), htry]

theorem homeAcc_fault {code addr d1 : Nat} (htry : tryAcc s a ecc = (.fault code addr d1, u)) :
    homeAcc s a ecc = failAcc u a code addr d1 := by
  rw [homeAcc, if_neg (not_hindered hfree), htry]

theorem homeAcc_wait (htry : tryAcc s a ecc = (.wait, u)) : homeAcc s a ecc = waitAcc u a := by
  rw [homeAcc, if_neg (not_hindered hfree), htry]

theorem homeAcc_later (htry : tryAcc s a ecc = (.later, u)) : homeAcc s a ecc = u := by
  rw [homeAcc, if_neg (not_hindered hfree), htry]

end

/-! ## The way to the home (R226 to R228) -/

section
variable {s : State} {id : Nat} {a : Acc} (ha : accAt s id = some a)
include ha

theorem accessComplete_steps (ecc : Ecc) : exec (.accessComplete id ecc) s = .next (stepAcc s a ecc) := by
  simp only [exec_accessComplete, execAccessComplete, ha]

section
variable (hkind : a.kind = .load ∨ a.kind = .store)
include hkind

/-- A load or a store on its way makes the next move of an access. -/
theorem accessComplete_moves (ecc : Ecc) (hphase : a.phase = .issued ∨ a.phase = .island ∨ a.phase = .die) :
    exec (.accessComplete id ecc) s = .next (moveAcc s a ecc) := by
  rw [accessComplete_steps ha]
  rcases hphase with hphase | hphase | hphase <;> rcases hkind with hkind | hkind <;> simp [stepAcc, hphase, hkind]

theorem accessComplete_cell (ecc : Ecc) (hspace : a.space = .cell) (hphase : a.phase = .issued) :
    exec (.accessComplete id ecc) s = .next (homeAcc s a ecc) := by
  rw [accessComplete_moves ha hkind ecc (.inl hphase), moveAcc, if_pos (.inl hspace)]

variable (hspace : a.space = .sbuf ∨ a.space = .hbm ∨ a.space = .host)
include hspace

omit ha hkind in
theorem space_queued : ¬(a.space = .cell ∨ a.space = .sys) := by
  rcases hspace with h | h | h <;> simp [h]

theorem accessComplete_leaves_island (ecc : Ecc) (hphase : a.phase = .issued) (hsent : portUnsent s a = false) :
    exec (.accessComplete id ecc) s = .next (flushOf (lastAcc s { a with phase := .island }) a) := by
  rw [accessComplete_moves ha hkind ecc (.inl hphase), moveAcc, if_neg (space_queued hspace)]
  simp [hphase, hsent]

theorem accessComplete_leaves_die (ecc : Ecc) (hphase : a.phase = .island) (hfirst : dieBehind s a = false) :
    exec (.accessComplete id ecc) s = .next (lastAcc s { a with phase := .die }) := by
  rw [accessComplete_moves ha hkind ecc (.inr (.inl hphase)), moveAcc, if_neg (space_queued hspace)]
  simp [hphase, hfirst]

theorem accessComplete_home (ecc : Ecc) (hphase : a.phase = .die) (hfirst : homeBehind s a = false) :
    exec (.accessComplete id ecc) s = .next (homeAcc s a ecc) := by
  have hnotFull : fullBehind s a = false := by rcases hkind with h | h <;> simp [fullBehind, h]
  rw [accessComplete_moves ha hkind ecc (.inr (.inr hphase)), moveAcc, if_neg (space_queued hspace)]
  simp [hphase, hfirst, hnotFull]

end

end

/-! ### The outcomes by the kind of memory -/

section
variable {s : State} {id : Nat} {a : Acc} (ha : accAt s id = some a) (hrel : a.rel = false) (hfree : Unhindered s a)
include ha hrel hfree

section
variable (hspace : a.space = .cell) (hphase : a.phase = .issued)
include hspace hphase

theorem cell_load_performed {u : State} (hkind : a.kind = .load) (hcheck : readCheck s a.addr a.n = (.good, u)) :
    exec (.accessComplete id .ok) s = .next (performAcc u a (rdWords u a.addr a.n)) := by
  rw [accessComplete_cell ha (.inl hkind) .ok hspace hphase,
    homeAcc_done hfree ((tryAcc_cell hrel .ok hspace).trans (tryCell_load_good hkind hcheck))]

theorem cell_load_poisoned {j : Nat} {u : State} (hkind : a.kind = .load)
    (hcheck : readCheck s a.addr a.n = (.poisoned j, u)) :
    exec (.accessComplete id .ok) s = .next (failAcc u a 0x9033 (a.va + j) 1) := by
  rw [accessComplete_cell ha (.inl hkind) .ok hspace hphase,
    homeAcc_fault hfree ((tryAcc_cell hrel .ok hspace).trans (tryCell_load_poisoned hkind hcheck))]

theorem cell_load_fails {u : State} (hkind : a.kind = .load) (hcheck : readCheck s a.addr a.n = (.bad, u)) :
    exec (.accessComplete id .ok) s = .next (failFiring u a.site a.firing (unitsOf a.addr a.n)) := by
  rw [accessComplete_cell ha (.inl hkind) .ok hspace hphase,
    homeAcc_later hfree ((tryAcc_cell hrel .ok hspace).trans (tryCell_load_bad hkind hcheck))]

theorem cell_store_performed (hkind : a.kind = .store) : exec (.accessComplete id .ok) s =
    .next (performAcc (writtenBank (clearPoison (wrWords s a.addr a.val) a.addr a.n) a.addr a.n) a []) := by
  rw [accessComplete_cell ha (.inr hkind) .ok hspace hphase,
    homeAcc_done hfree ((tryAcc_cell hrel .ok hspace).trans (tryCell_store hkind hspace))]

end

section
variable (hphase : a.phase = .die) (hfirst : homeBehind s a = false)
include hphase hfirst

theorem sbuf_load_performed (hspace : a.space = .sbuf) (hkind : a.kind = .load) :
    exec (.accessComplete id .ok) s = .next (performAcc s a (rdWords s a.addr a.n)) := by
  rw [accessComplete_home ha (.inl hkind) (.inl hspace) .ok hphase hfirst,
    homeAcc_done hfree ((tryAcc_sbuf hrel .ok hspace).trans (touch_load hkind))]

theorem sbuf_store_performed (hspace : a.space = .sbuf) (hkind : a.kind = .store) :
    exec (.accessComplete id .ok) s = .next (performAcc (wrWords s a.addr a.val) a []) := by
  have htouch : touch s a = (.done [], wrWords s a.addr a.val) := by simp [touch_store hkind, hspace]
  rw [accessComplete_home ha (.inr hkind) (.inl hspace) .ok hphase hfirst,
    homeAcc_done hfree ((tryAcc_sbuf hrel .ok hspace).trans htouch)]

theorem hbm_load_performed {u : State} (hspace : a.space = .hbm) (hkind : a.kind = .load)
    (hcheck : readCheck s a.addr a.n = (.good, u)) :
    exec (.accessComplete id .ok) s = .next (performAcc u a (rdWords u a.addr a.n)) := by
  rw [accessComplete_home ha (.inl hkind) (.inr (.inl hspace)) .ok hphase hfirst,
    homeAcc_done hfree ((tryAcc_hbm hrel .ok hspace).trans (tryHbm_load_good hkind hcheck))]

theorem hbm_load_fails {f : Found} {u : State} (hspace : a.space = .hbm) (hkind : a.kind = .load)
    (hcheck : readCheck s a.addr a.n = (f, u)) (hbad : f ≠ .good) :
    exec (.accessComplete id .ok) s = .next (failAcc u a 0x9006 a.va 0) := by
  rw [accessComplete_home ha (.inl hkind) (.inr (.inl hspace)) .ok hphase hfirst,
    homeAcc_fault hfree ((tryAcc_hbm hrel .ok hspace).trans (tryHbm_load_bad hkind hcheck hbad))]

theorem hbm_store_performed (hspace : a.space = .hbm) (hkind : a.kind = .store) : exec (.accessComplete id .ok) s =
    .next (performAcc (if a.n = 16 then wholeLine (writtenBank (wrWords s a.addr a.val) a.addr 16) a.addr
      else wrWords s a.addr a.val) a []) := by
  rw [accessComplete_home ha (.inr hkind) (.inr (.inl hspace)) .ok hphase hfirst,
    homeAcc_done hfree ((tryAcc_hbm hrel .ok hspace).trans (tryHbm_store hkind hspace))]

section
variable {u : State} (hspace : a.space = .host) (hkind : a.kind = .load) (hn : a.n ≠ 16)
include hspace hkind hn

theorem host_load_performed (hask : hostAsk s a.part false (a.addr - hostBase) (4 * a.n) = (true, u)) :
    exec (.accessComplete id .ok) s = .next (performAcc u a (rdWords u a.addr a.n)) := by
  rw [accessComplete_home ha (.inl hkind) (.inr (.inr hspace)) .ok hphase hfirst,
    homeAcc_done hfree ((tryAcc_host hrel .ok hspace).trans (tryHost_load_answered hkind hn hask))]

theorem host_load_poisoned (hask : hostAsk s a.part false (a.addr - hostBase) (4 * a.n) = (true, u)) :
    exec (.accessComplete id .uncorrectable) s = .next (failAcc u a 0x9005 a.va 0) := by
  rw [accessComplete_home ha (.inl hkind) (.inr (.inr hspace)) .uncorrectable hphase hfirst,
    homeAcc_fault hfree ((tryAcc_host hrel .uncorrectable hspace).trans (tryHost_load_uncorrectable hkind hn hask))]

theorem host_load_refused (hask : hostAsk s a.part false (a.addr - hostBase) (4 * a.n) = (false, u)) :
    exec (.accessComplete id .ok) s = .next (failAcc u a 0x9005 a.va 0) := by
  rw [accessComplete_home ha (.inl hkind) (.inr (.inr hspace)) .ok hphase hfirst,
    homeAcc_fault hfree ((tryAcc_host hrel .ok hspace).trans (tryHost_load_refused hkind hn .ok hask))]

end

end

end

/-! ## Waiting accesses (R202, R219, R165) -/

section
variable {s : State} {id : Nat} {a : Acc} (ha : accAt s id = some a) (hphase : a.phase = .waiting)
include ha hphase

theorem wake_tests_again {ok : AccKind → Bool} (go : State → Acc → State) (hok : ok a.kind = true) :
    wake s id ok go = .next (go s a) := by
  simp [wake, ha, hphase, hok]

section
variable (hrel : a.rel = false) (hspace : a.space = .sbuf) (hfree : Unhindered s a)

section
variable (hkind : a.kind = .loadFull)
include hkind

theorem fullEmptyWake_tests : exec (.fullEmptyWake id) s = .next (if fullBehind s a then s else homeAcc s a .ok) :=
  wake_tests_again ha hphase (ok := (· == .loadFull)) (fun s a => if fullBehind s a then s else homeAcc s a .ok)
    (by simp [hkind])

theorem fullEmptyWake_behind (hbehind : fullBehind s a = true) : exec (.fullEmptyWake id) s = .next s := by
  rw [fullEmptyWake_tests ha hphase hkind, if_pos hbehind]

include hrel hspace hfree

theorem fullEmptyWake_full (hfirst : fullBehind s a = false) (hfull : allFull s a.addr a.n = true) :
    exec (.fullEmptyWake id) s =
      .next (performAcc (if a.cons then setFulls s a.addr false a.n else s) a (rdWords s a.addr a.n)) := by
  rw [fullEmptyWake_tests ha hphase hkind, if_neg (Bool.eq_false_iff.mp hfirst),
    homeAcc_done hfree ((tryAcc_sbuf hrel .ok hspace).trans (touch_loadFull_full hkind hfull))]

theorem fullEmptyWake_empty (hfirst : fullBehind s a = false) (hempty : allFull s a.addr a.n = false) :
    exec (.fullEmptyWake id) s = .next (waitAcc s a) := by
  rw [fullEmptyWake_tests ha hphase hkind, if_neg (Bool.eq_false_iff.mp hfirst),
    homeAcc_wait hfree ((tryAcc_sbuf hrel .ok hspace).trans (touch_loadFull_empty hkind hempty))]

end

section
variable (hkind : a.kind = .waitGe)
include hkind

theorem waitgeWake_tests : exec (.waitgeWake id) s = .next (homeAcc s a .ok) :=
  wake_tests_again ha hphase (ok := (· == .waitGe)) (fun s a => homeAcc s a .ok) (by simp [hkind])

include hrel hspace hfree

theorem waitgeWake_poisoned (hpoison : (rdDword s a.addr).testBit 63 = true) :
    exec (.waitgeWake id) s = .next (performAcc s a [1]) := by
  rw [waitgeWake_tests ha hphase hkind,
    homeAcc_done hfree ((tryAcc_sbuf hrel .ok hspace).trans (touch_waitGe_poisoned hkind hpoison))]

theorem waitgeWake_reached (hgood : (rdDword s a.addr).testBit 63 = false)
    (hge : wordsNat a.val ≤ rdDword s a.addr % 2 ^ 63) : exec (.waitgeWake id) s = .next (performAcc s a [0]) := by
  rw [waitgeWake_tests ha hphase hkind,
    homeAcc_done hfree ((tryAcc_sbuf hrel .ok hspace).trans (touch_waitGe_reached hkind hgood hge))]

theorem waitgeWake_below (hgood : (rdDword s a.addr).testBit 63 = false)
    (hlt : rdDword s a.addr % 2 ^ 63 < wordsNat a.val) : exec (.waitgeWake id) s = .next (waitAcc s a) := by
  rw [waitgeWake_tests ha hphase hkind,
    homeAcc_wait hfree ((tryAcc_sbuf hrel .ok hspace).trans (touch_waitGe_below hkind hgood hlt))]

end

end

section
variable {t ph : Nat} {u : State} (hkind : a.kind = .gwait) (hthread : (ctxAt s a.site.isl a.site.slot).thread = some t)
  (hphases : groupWait s t a.addr = .ok (some (ph, u)))
include hkind hthread hphases

/-- The group has moved on: the result leaves if the way back is whole, and stays at the group unit if it is not. -/
theorem gwaitWake_released : exec (.gwaitWake id) s =
    .next (if reaches u a 8 then performAcc u a [BitVec.ofNat 32 ph]
      else putAcc u { a with phase := .die, res := [BitVec.ofNat 32 ph] }) := by
  rw [exec_gwaitWake, execGwaitWake, wake_tests_again ha hphase gwaitAcc (by simp [hkind])]
  simp [gwaitAcc, hthread, hphase, hphases]

end

end

theorem gwait_completes {s : State} {id : Nat} {a : Acc} (ha : accAt s id = some a) (hphase : a.phase = .die)
    (hkind : a.kind = .gwait) (hreach : reaches s a 8 = true) :
    exec (.accessComplete id .ok) s = .next (performAcc s a a.res) := by
  rw [accessComplete_steps ha]
  simp [stepAcc, hphase, hkind, hreach]

/-! ## Faults of a thread (R262, R264) -/

section
variable {s : State} {t : Nat}

theorem faultPark_parks (hsome : (threadAt s t).resumable ≠ []) (hlive : (threadAt s t).stop = none)
    (hst : (threadAt s t).st = .running ∨ (threadAt s t).st = .loading ∨ (threadAt s t).st = .preempted ∨
      (threadAt s t).st = .held) :
    exec (.faultPark t) s =
      .next (if replaying s (threadAt s t) then s else recordFirst (haltThread s t .parked) t) := by
  simp only [exec_faultPark, execFaultPark, if_pos hst]
  cases hreplay : replaying s (threadAt s t) <;> simp [hsome, hlive]

section
variable {r : StopRec} (hstop : (threadAt s t).stop = some r) (hst : (threadAt s t).st ≠ .stopped)
  (hlive : (threadAt s t).st ≠ .free)
include hstop hst hlive

theorem threadStop_halts (hnew : r.parked = false) :
    exec (.threadStop t) s = .next (if replaying s (threadAt s t) then s else stopHalt s t) := by
  simp [execThreadStop, hstop, hst, hlive, hnew]

theorem threadStop_ends (hhalted : r.parked = true)
    (haccs : s.accs.any (fun a => a.thread == t && decide (a.site.isl < 256)) = false) (hupdates : updatesDue s t = false)
    (hcopies : copiesGoing s t = false) (hwrites : writesGoing s t = false)
    (hroom : r.record = false ∨ faultEntries s + (if r.code = 0x9030 then 2 else 1) ≤ 1024) :
    exec (.threadStop t) s = .next (settle (stopEnd s t r)) := by
  have hfits : ¬(r.record = true ∧ 1024 < faultEntries s + (if r.code = 0x9030 then 2 else 1)) := by
    rintro ⟨hrecord, hfull⟩
    rcases hroom with hnone | hroom
    · exact Bool.false_ne_true (hnone ▸ hrecord)
    · exact Nat.not_le.mpr hfull hroom
  simp only [exec_threadStop, execThreadStop, hstop, haccs, hupdates, hcopies, hwrites]
  rw [if_neg (by simp [hst, hlive]), if_neg (by simp [hhalted]), if_neg (by decide), if_neg hfits]

end

end

/-! ## The fault queue (R257, R263) -/

theorem fltpop_delivers {s : State} {l : Level} {v : Word} {r : FaultRec} {q : List FaultRec} (hl : l ≠ .t)
    (hgo : v.toNat.testBit 31 = true) (hpaused : (journalSys s l 0x206010 v).fw.paused = false)
    (hlr : (journalSys s l 0x206010 v).fw.lr ≠ .safe) (hqueue : (journalSys s l 0x206010 v).faults.queue = r :: q)
    (hresumable : r.resumable = true) :
    let u := journalOne (journalSys s l 0x206010 v) (.fault r.fseq r.code)
    exec (.fltpop l v) s = .next { u with faults := { u.faults with queue := q, delivered := u.faults.delivered ++ [r] } } := by
  simp [execFltpop, hl, fltpopWrite, hgo, hpaused, hlr, hqueue, hresumable]

/-- The state once a write of FLTRESP has taken the delivered record that it answers. -/
def withoutRecord (s : State) (v : Nat) (f : FaultRec) : State :=
  { s with faults := { s.faults with respAct := v.testBit 0, delivered := s.faults.delivered.erase f } }

section
variable {s : State} {v : Nat} (hgo : v.testBit 31 = true)
include hgo

theorem fltrespWrite_unknown (hnone : s.faults.delivered.find? (fun f => f.fseq == s.faults.respSeq.toNat) = none) :
    fltrespWrite s v = badResp { s with faults := { s.faults with respAct := v.testBit 0 } } := by
  simp [fltrespWrite, hgo, hnone]

section
variable {f : FaultRec} {r : StopRec} {t : Nat}
  (hfind : s.faults.delivered.find? (fun f => f.fseq == s.faults.respSeq.toNat) = some f) (howner : f.owner = t)
  (hthread : t < 0x1000) (hfault : (threadAt s t).resumable.find? (fun r => r.parked && r.fseq == f.fseq) = some r)
  (hlive : (threadAt s t).stop = none)
include hfind howner hthread hfault hlive

theorem fltrespWrite_answers : fltrespWrite s v =
    if v.testBit 0 then modThread (withoutRecord s v f) t (fun th => { th with
      stop := some { (if r.save then { r with code := 0x9034, detail1 := r.code } else r) with record := r.save, parked := false },
      resumable := th.resumable.filter (fun x => x.fseq != r.fseq || !x.parked) })
    else resumeFault (withoutRecord s v f) t r := by
  have hsame (x : Faults) : threadAt { s with faults := x } t = threadAt s t := rfl
  simp only [fltrespWrite, hgo, hfind, howner, Nat.not_le.mpr hthread, hsame, hfault, hlive]
  rfl

end

end

section
variable {l : Level} (hl : l ≠ .t) (v : Word) (s : State)
include hl

theorem faultResume_writes :
    exec (.faultResume l v) s = .next (fltrespWrite (journalSys s l 0x206014 v) v.toNat) := if_neg hl

theorem faultTerminate_writes :
    exec (.faultTerminate l v) s = .next (fltrespWrite (journalSys s l 0x206014 v) v.toNat) := if_neg hl

end

/-! ## The events of accesses and faults -/

/-- Settles O54: results that leave keep the storage (`storage_performAcc`), a store changes its own words only
(`rdByte_wrWords_other`), an access that nothing hinders ends as its try at the home does (`homeAcc_done`, `homeAcc_fault`,
`homeAcc_wait`, `homeAcc_later`), and each event of a fault by the lemma about it above. -/
theorem accessAndFaultEvents : Obligations.AccessAndFaultEvents := by
  intro s id t l v a th
  refine ⟨performAcc_keeps_storage s, fun _ _ _ => rdByte_wrWords_other,
    fun ha hrel => ⟨?cell, ?way, ?home⟩, ?wakes, ?group, gwait_completes, faultPark_parks,
    fun r hstop hst hlive => ⟨threadStop_halts hstop hst hlive, threadStop_ends hstop hst hlive⟩,
    fun r q hl hgo => fltpop_delivers hl hgo, ?answers⟩
  case cell =>
    intro hspace hphase hport hreach hfail
    have hfree : Unhindered s a := ⟨hport, hreach, hfail⟩
    exact ⟨fun _ => cell_load_performed ha hrel hfree hspace hphase, fun _ _ => cell_load_poisoned ha hrel hfree hspace hphase,
      fun _ => cell_load_fails ha hrel hfree hspace hphase, cell_store_performed ha hrel hfree hspace hphase⟩
  case way =>
    exact fun hspace hkind => ⟨accessComplete_leaves_island ha hkind hspace .ok, accessComplete_leaves_die ha hkind hspace .ok⟩
  case home =>
    intro hphase hfirst hport hreach hfail
    have hfree : Unhindered s a := ⟨hport, hreach, hfail⟩
    refine ⟨sbuf_load_performed ha hrel hfree hphase hfirst, sbuf_store_performed ha hrel hfree hphase hfirst,
      fun f u hspace hkind hcheck => ⟨?_, hbm_load_fails ha hrel hfree hphase hfirst hspace hkind hcheck⟩,
      fun hspace hkind hpart => ?_, fun hspace hkind hline => ?_, fun ok u hspace hkind hn hask => ⟨?_, ?_, ?_⟩⟩
    · rintro rfl
      exact hbm_load_performed ha hrel hfree hphase hfirst hspace hkind hcheck
    · rw [hbm_store_performed ha hrel hfree hphase hfirst hspace hkind, if_neg hpart]
    · rw [hbm_store_performed ha hrel hfree hphase hfirst hspace hkind, if_pos hline]
    · rintro rfl
      exact host_load_performed ha hrel hfree hphase hfirst hspace hkind hn hask
    · rintro rfl
      exact host_load_poisoned ha hrel hfree hphase hfirst hspace hkind hn hask
    · rintro rfl
      exact host_load_refused ha hrel hfree hphase hfirst hspace hkind hn hask
  case wakes =>
    intro ha hphase hrel hport hspace hreach hfail
    have hfree : Unhindered s a := ⟨hport, hreach, hfail⟩
    exact ⟨fullEmptyWake_behind ha hphase,
      fun hkind hfirst => ⟨fullEmptyWake_full ha hphase hrel hspace hfree hkind hfirst,
        fullEmptyWake_empty ha hphase hrel hspace hfree hkind hfirst⟩,
      fun hkind => ⟨waitgeWake_poisoned ha hphase hrel hspace hfree hkind,
        waitgeWake_reached ha hphase hrel hspace hfree hkind, waitgeWake_below ha hphase hrel hspace hfree hkind⟩⟩
  case group =>
    intro ph u ha hphase hkind hthread hphases
    rw [gwaitWake_released ha hphase hkind hthread hphases]
    exact ⟨fun hreach => by rw [if_pos hreach], fun hcut => by rw [if_neg (Bool.eq_false_iff.mp hcut)]⟩
  case answers =>
    intro hl hgo s0 s1
    refine ⟨fun hnone => ?unknown, fun f r hfind howner hthread hfault hlive => ?known⟩
    case unknown => exact (faultResume_writes hl v s).trans (congrArg _ (fltrespWrite_unknown hgo hnone))
    case known =>
      have hanswers := fltrespWrite_answers hgo hfind howner hthread hfault hlive
      refine ⟨fun hgoOn => ?_, fun hend => ?_⟩
      · rw [faultResume_writes hl, hanswers, if_neg (Bool.eq_false_iff.mp hgoOn)]
        rfl
      · rw [faultTerminate_writes hl, hanswers, if_pos hend]
        rfl

end Sys2Proof.Proofs.Accesses
end

section
/-! SUPPORT. Firings: the operator state and the keeps after one, what a firing adds to the state, where a scalar result goes,
what the passing of the check stage leaves alone, and the statement about their effects. -/
namespace Sys2Proof.Proofs.Firings
open Sys2Proof.Machine Sys2Proof.Laws Sys2Proof.Proofs.BoundsAndPermits

/-! ## Operator state words (R255, R268, R360) -/

theorem opst_setOpWord_other (c : Ctx) (n : Nat) {i j : Nat} (v : Word) (hi : i ≠ 16 * n + j) :
    (setOpWord c n j v).opst.get 0 i = c.opst.get 0 i :=
  get_set_other 0 v hi c.opst

theorem opst_setOpWords_other (n : Nat) {i : Nat} : ∀ (l : List (Nat × Word)) (c : Ctx), (∀ e ∈ l, 16 * n + e.1 ≠ i) →
    (setOpWords c n l).opst.get 0 i = c.opst.get 0 i
  | [], _, _ => rfl
  | (j, v) :: l, c, hl => by
    obtain ⟨hj, hl⟩ := List.forall_mem_cons.mp hl
    rw [setOpWords, opst_setOpWords_other n l _ hl, opst_setOpWord_other c n v hj.symm]

theorem setOpWords_opst_wf (n : Nat) : ∀ (l : List (Nat × Word)) {c : Ctx}, Tab.wf 0 c.opst = true →
    Tab.wf 0 (setOpWords c n l).opst = true
  | [], _, h => h
  | (j, v) :: l, _, h => setOpWords_opst_wf n l (setOpWord_opst_wf n j v h)

theorem opst_setOpWords_mem (n : Nat) {e : Nat × Word} : ∀ (l : List (Nat × Word)) {c : Ctx}, Tab.wf 0 c.opst = true →
    (l.map (·.1)).Nodup → e ∈ l → (setOpWords c n l).opst.get 0 (16 * n + e.1) = e.2
  | (j, v) :: l, c, hwf, hnodup, he => by
    obtain ⟨hj, hnodup⟩ := List.nodup_cons.mp hnodup
    rw [setOpWords]
    obtain rfl | he := List.mem_cons.mp he
    · have hl : ∀ e ∈ l, 16 * n + e.1 ≠ 16 * n + j := fun e he heq =>
        hj (Nat.add_left_cancel heq ▸ List.mem_map_of_mem (f := (·.1)) he)
      rw [opst_setOpWords_other n l _ hl]
      exact opWord_setOpWord_same n j v hwf
    · exact opst_setOpWords_mem n l (setOpWord_opst_wf n j v hwf) hnodup he

theorem firingNo_setOpWords (c : Ctx) (n : Nat) {l : List (Nat × Word)} (hl : ∀ e ∈ l, e.1 < 14) :
    firingNo (setOpWords c n l) n = firingNo c n := by
  have hword {i : Nat} (hi : 14 ≤ i) : opWord (setOpWords c n l) n i = opWord c n i :=
    opst_setOpWords_other n l c fun e he => by have := hl e he; omega
  rw [firingNo, hword (by decide), hword (by decide), ← firingNo]

theorem opst_bumpFiring_other (c : Ctx) (n : Nat) {i : Nat} (hlow : i ≠ 16 * n + 14) (hhigh : i ≠ 16 * n + 15) :
    (bumpFiring c n).opst.get 0 i = c.opst.get 0 i := by
  rw [bumpFiring, opst_setOpWord_other _ n _ hhigh, opst_setOpWord_other _ n _ hlow]

/-- The two words hold the next number modulo 2^64. -/
theorem firingNo_bumpFiring {c : Ctx} (n : Nat) (hwf : Tab.wf 0 c.opst = true) :
    firingNo (bumpFiring c n) n = (firingNo c n + 1) % 2 ^ 64 := by
  rw [bumpFiring, firingNo, opWord_setOpWord_other _ n _ (by decide), opWord_setOpWord_same n 14 _ hwf,
    opWord_setOpWord_same n 15 _ (setOpWord_opst_wf n 14 _ hwf), BitVec.toNat_ofNat, BitVec.toNat_ofNat]
  omega

theorem setOpWords_opst_congr (n : Nat) : ∀ (l : List (Nat × Word)) {c d : Ctx}, c.opst = d.opst →
    (setOpWords c n l).opst = (setOpWords d n l).opst
  | [], _, _, h => h
  | (j, v) :: l, _, _, h => setOpWords_opst_congr n l (congrArg (·.set 0 (16 * n + j) v) h)

theorem firingNo_congr {c d : Ctx} (n : Nat) (h : c.opst = d.opst) : firingNo c n = firingNo d n := by
  simp only [firingNo, opWord, h]

theorem bumpFiring_opst_congr (n : Nat) {c d : Ctx} (h : c.opst = d.opst) : (bumpFiring c n).opst = (bumpFiring d n).opst := by
  simp only [bumpFiring, setOpWord, firingNo_congr n h, h]

/-! ## The context after a firing (R182, R255, R278) -/

@[simp] theorem eatAll_opst (cell k : Nat) (beats : Nat × Nat) : ∀ (l : List Pos) (c : Ctx),
    (eatAll c cell k beats l).opst = c.opst
  | [], _ => rfl
  | q :: l, c => by rw [eatAll, eatAll_opst cell k beats l, popBuf_opst]

@[simp] theorem popBuf_keeps (c : Ctx) (cell key n : Nat) : (popBuf c cell key n).keeps = c.keeps := by
  simp only [popBuf]
  split <;> rfl

@[simp] theorem eatAll_keeps (cell k : Nat) (beats : Nat × Nat) : ∀ (l : List Pos) (c : Ctx),
    (eatAll c cell k beats l).keeps = c.keeps
  | [], _ => rfl
  | q :: l, c => by rw [eatAll, eatAll_keeps cell k beats l, popBuf_keeps]

@[simp] theorem setOpWords_keeps (n : Nat) : ∀ (l : List (Nat × Word)) (c : Ctx), (setOpWords c n l).keeps = c.keeps
  | [], _ => rfl
  | (j, v) :: l, c => setOpWords_keeps n l (setOpWord c n j v)

@[simp] theorem bumpFiring_keeps (c : Ctx) (n : Nat) : (bumpFiring c n).keeps = c.keeps := rfl

@[simp] theorem recordHist_opst (c : Ctx) (cell k : Nat) (taken : List Tok) : (recordHist c cell k taken).opst = c.opst := by
  simp only [recordHist]

@[simp] theorem recordHist_keeps (c : Ctx) (cell k : Nat) (taken : List Tok) : (recordHist c cell k taken).keeps = c.keeps := by
  simp only [recordHist]

theorem fireCtx_keeps (c : Ctx) (cell k : Nat) (f : Fire) : (fireCtx c cell k f).keeps = c.keeps := by
  cases h : f.keepsState <;> simp [fireCtx, h]

/-- Of what a firing does to its context only the words written and the firing number reach the operator state. -/
theorem fireCtx_opst (c : Ctx) (cell k : Nat) (f : Fire) :
    (fireCtx c cell k f).opst = (bumpFiring (setOpWords c (8 * cell + k) f.st) (8 * cell + k)).opst := by
  have heat (d : Ctx) (taken : List Tok) (beats : Nat × Nat) (hd : d.opst = c.opst) :
      (eatAll (recordHist d cell k taken) cell k beats f.eat).opst = c.opst := by simp [hd]
  cases h : f.keepsState <;> simp only [fireCtx, h, if_true] <;>
    exact bumpFiring_opst_congr _ (setOpWords_opst_congr _ f.st (heat _ _ _ rfl))

section
variable {c : Ctx} {cell k : Nat} {f : Fire}

theorem opst_fireCtx_other {i : Nat} (hst : ∀ e ∈ f.st, 16 * (8 * cell + k) + e.1 ≠ i) (hlow : i ≠ 16 * (8 * cell + k) + 14)
    (hhigh : i ≠ 16 * (8 * cell + k) + 15) : (fireCtx c cell k f).opst.get 0 i = c.opst.get 0 i := by
  rw [fireCtx_opst, opst_bumpFiring_other _ _ hlow hhigh, opst_setOpWords_other _ _ _ hst]

theorem opst_fireCtx_written (hwf : Tab.wf 0 c.opst = true) (hst : ∀ e ∈ f.st, e.1 < 14) (hnodup : (f.st.map (·.1)).Nodup)
    {e : Nat × Word} (he : e ∈ f.st) : (fireCtx c cell k f).opst.get 0 (16 * (8 * cell + k) + e.1) = e.2 := by
  have hlow := hst e he
  rw [fireCtx_opst, opst_bumpFiring_other _ _ (by omega) (by omega), opst_setOpWords_mem _ _ hwf hnodup he]

theorem firingNo_fireCtx (hwf : Tab.wf 0 c.opst = true) (hst : ∀ e ∈ f.st, e.1 < 14) :
    firingNo (fireCtx c cell k f) (8 * cell + k) = (firingNo c (8 * cell + k) + 1) % 2 ^ 64 := by
  rw [firingNo_congr _ (fireCtx_opst c cell k f), firingNo_bumpFiring _ (setOpWords_opst_wf _ f.st hwf),
    firingNo_setOpWords c _ hst]

end

/-! ## Tokens sent (R307) -/

/-- Sending adds to the tail of what is in flight and changes nothing else. -/
def Sends (s t : State) : Prop := ∃ l, t = { s with flights := s.flights ++ l }

theorem sends_refl (s : State) : Sends s s := ⟨[], by rw [List.append_nil]⟩

theorem sends_trans {s t u : State} (hst : Sends s t) (htu : Sends t u) : Sends s u := by
  obtain ⟨l, rfl⟩ := hst
  obtain ⟨m, rfl⟩ := htu
  exact ⟨l ++ m, by rw [List.append_assoc]⟩

theorem sends_sendTarget (s : State) (isl slot cell srcNo which : Nat) (t : Target) (k : Tok) :
    Sends s (sendTarget s isl slot cell srcNo which t k) := by
  unfold sendTarget
  split
  · exact ⟨_, rfl⟩
  · split
    · exact ⟨_, rfl⟩
    · exact sends_refl s
  · exact sends_refl s

theorem sends_sendTokens (isl slot cell srcNo which : Nat) (t : Target) : ∀ (l : List Tok) (s : State),
    Sends s (sendTokens s isl slot cell srcNo which t l)
  | [], s => sends_refl s
  | k :: l, s => sends_trans (sends_sendTarget s isl slot cell srcNo which t k) (sends_sendTokens isl slot cell srcNo which t l _)

/-- Outputs none of which goes to a keep are sent. -/
theorem sends_deliverAt (x : Site) (t0 t1 : Target) (deps : List Nat) : ∀ (outs : List (Bool × OutV)) (s : State),
    (∀ o ∈ outs, ∀ k, targetOfFlag t0 t1 o.1 ≠ .keep k) → Sends s (deliverAt s x t0 t1 deps outs)
  | [], s, _ => sends_refl s
  | (b, v) :: outs, s, hkeep => by
    obtain ⟨hb, houts⟩ := List.forall_mem_cons.mp hkeep
    have ih (u : State) : Sends u (deliverAt u x t0 t1 deps outs) := sends_deliverAt x t0 t1 deps outs u houts
    cases h : targetOfFlag t0 t1 b with
    | keep k => exact absurd h (hb k)
    | none | exit | operand | vc =>
      simp only [deliverAt, h]
      exact sends_trans (sends_sendTokens _ _ _ _ _ _ _ s) (ih _)

theorem tokenOuts_not_keep (t0 t1 : Target) (outs : List (Bool × OutV)) :
    ∀ o ∈ tokenOuts t0 t1 outs, ∀ k, targetOfFlag t0 t1 o.1 ≠ .keep k := by
  intro o ho k hk
  have hpass := (List.mem_filter.mp ho).2
  simp [hk] at hpass

/-- A vector or beats for a keep draw a free value (R307); nothing else of the state changes. -/
theorem keepWrites_draws (t0 t1 : Target) : ∀ (outs : List (Bool × OutV)) (s : State),
    ∃ n, (keepWrites s t0 t1 outs).2 = { s with freeCount := n }
  | [], s => ⟨s.freeCount, rfl⟩
  | (b, v) :: outs, s => by
    have ih := keepWrites_draws t0 t1 outs
    cases h : targetOfFlag t0 t1 b with
    | keep k =>
      cases v with
      | sc y => simpa only [keepWrites, h] using ih s
      | stop l => simpa only [keepWrites, h] using ih s
      | vec | beats =>
        obtain ⟨n, hn⟩ := ih { s with freeCount := s.freeCount + 1 }
        exact ⟨n, by simp only [keepWrites, h, drawWord, hn]⟩
    | none | exit | operand | vc => simpa only [keepWrites, h] using ih s

/-! ## Tokens held in the check stage (R273) -/

theorem holdFrom_append (tag : Nat) (fl l : List Flight) :
    holdFrom fl.length tag (fl ++ l) = fl ++ l.map (fun f => { f with chk := some tag }) := by
  simp [holdFrom]

theorem holdBack_append (p : Nat) (fl l : List Flight) : holdBack fl.length p (fl ++ l) = fl ++ holdBack.rest p false l := by
  simp [holdBack]

theorem chk_holdBack_rest {o : Option Nat} (p : Nat) : ∀ (l : List Flight) (seen : Bool), (∀ x ∈ l, x.chk = o) →
    ∀ x ∈ holdBack.rest p seen l, x.chk = o
  | [], _, _ => nofun
  | f :: l, seen, hl => by
    obtain ⟨hf, hl⟩ := List.forall_mem_cons.mp hl
    have ih (seen : Bool) := chk_holdBack_rest p l seen hl
    rw [holdBack.rest]
    split
    · refine List.forall_mem_cons.mpr ⟨?_, ih true⟩
      split <;> exact hf
    · exact List.forall_mem_cons.mpr ⟨hf, ih seen⟩

/-- Holding back moves sent tokens behind others: what was in flight before stays, and the sent ones stay in the stage. -/
theorem foldl_holdBack_append (held : Nat × Nat → Prop) [DecidablePred held] (fl : List Flight) {o : Option Nat} :
    ∀ (needs : List (Nat × Nat)) (l : List Flight), (∀ x ∈ l, x.chk = o) →
      ∃ l', needs.foldl (fun fl' e => if held e then holdBack fl.length e.1 fl' else fl') (fl ++ l) = fl ++ l' ∧
        ∀ x ∈ l', x.chk = o
  | [], l, hl => ⟨l, rfl, hl⟩
  | e :: needs, l, hl => by
    rw [List.foldl_cons]
    split
    · rw [holdBack_append]
      exact foldl_holdBack_append held fl needs _ (chk_holdBack_rest e.1 l false hl)
    · exact foldl_holdBack_append held fl needs l hl

theorem holdWide_append (s : State) (needs : List (Nat × Nat)) (fl l : List Flight) {o : Option Nat} (hl : ∀ x ∈ l, x.chk = o) :
    ∃ l', holdWide s fl.length needs (fl ++ l) = fl ++ l' ∧ ∀ x ∈ l', x.chk = o :=
  foldl_holdBack_append (fun e => mostRoom s s.cur.isl s.cur.slot e.1 < needAt needs e.1) fl needs l hl

/-! ## What a firing does to the machine (R255, R273, R307) -/

/-- The record of a firing in its cell's check stage. -/
def firingRec (s : State) (t0 t1 : Target) (f : Fire) : ChkRec :=
  { tag := s.nextChk, isl := s.cur.isl, slot := s.cur.slot, cell := s.cur.cell, k := s.cur.k,
    firing := firingNo (curCtx s) (curSlotNo s), cycle := s.cycle, exit := f.exit,
    keeps := (keepWrites s t0 t1 f.outs).1, accNo := s.nextAcc }

/-- The state after a firing: its context is as `fireCtx` says, its record is the newest in the check stage, `l` is sent and `n`
free values are drawn. -/
def fired (s : State) (t0 t1 : Target) (f : Fire) (n : Nat) (l : List Flight) : State :=
  { s with freeCount := n, chks := s.chks ++ [firingRec s t0 t1 f], nextChk := s.nextChk + 1,
           ctxs := s.ctxs.set {} (ctxKey s.cur.isl s.cur.slot) (fireCtx (curCtx s) s.cur.cell s.cur.k f),
           flights := s.flights ++ l }

/-- The state of a firing before its tokens are sent. -/
def recorded (s : State) (t0 t1 : Target) (f : Fire) : State :=
  modCtx { (keepWrites s t0 t1 f.outs).2 with chks := s.chks ++ [firingRec s t0 t1 f], nextChk := s.nextChk + 1 }
    s.cur.isl s.cur.slot (fun c => fireCtx c s.cur.cell s.cur.k f)

theorem recorded_eq_fired (s : State) (t0 t1 : Target) (f : Fire) : ∃ n, recorded s t0 t1 f = fired s t0 t1 f n [] := by
  obtain ⟨n, hdraw⟩ := keepWrites_draws t0 t1 f.outs s
  refine ⟨n, ?_⟩
  rw [recorded, hdraw, fired, List.append_nil]
  rfl

theorem commit_eq (s : State) (t0 t1 : Target) (f : Fire) :
    ∃ deps, commit s t0 t1 f =
      let s2 := deliver (recorded s t0 t1 f) t0 t1 deps (tokenOuts t0 t1 f.outs)
      let fl := holdFrom s.flights.length s.nextChk s2.flights
      { s2 with flights := if room s t0 t1 f.outs then fl
                           else holdWide s s.flights.length (outNeeds s t0 t1 f.outs) fl } :=
  ⟨liveDeps s s.cur.isl (fireDeps (curCtx s) s.cur.cell s.cur.k f), rfl⟩

/-- A firing does what `fired` says, with every token it sends held in the check stage. -/
theorem commit_eq_fired (s : State) (t0 t1 : Target) (f : Fire) :
    ∃ n l, commit s t0 t1 f = fired s t0 t1 f n l ∧ ∀ x ∈ l, x.chk = some s.nextChk := by
  obtain ⟨n, hrecorded⟩ := recorded_eq_fired s t0 t1 f
  obtain ⟨deps, hcommit⟩ := commit_eq s t0 t1 f
  obtain ⟨l, hsends⟩ : Sends (fired s t0 t1 f n []) (deliver (fired s t0 t1 f n []) t0 t1 deps (tokenOuts t0 t1 f.outs)) :=
    sends_deliverAt _ t0 t1 deps _ _ (tokenOuts_not_keep t0 t1 f.outs)
  have hsent : (fired s t0 t1 f n []).flights ++ l = s.flights ++ l := congrArg (· ++ l) (List.append_nil s.flights)
  have hheld : ∀ x ∈ l.map (fun x => { x with chk := some s.nextChk }), x.chk = some s.nextChk :=
    List.forall_mem_map.mpr fun _ _ => rfl
  rw [hrecorded, hsends] at hcommit
  simp only [hsent, holdFrom_append] at hcommit
  split at hcommit
  · exact ⟨n, _, hcommit, hheld⟩
  · obtain ⟨l', hwide, hheld'⟩ := holdWide_append s (outNeeds s t0 t1 f.outs) s.flights _ hheld
    rw [hwide] at hcommit
    exact ⟨n, l', hcommit, hheld'⟩

/-! ## Where a scalar result goes (R307) -/

theorem arriveAs_fields (c : Ctx) (slotNo pos : Nat) (t : Tok) : (arriveAs c slotNo pos t).stop = t.stop ∧
    (arriveAs c slotNo pos t).src = t.src ∧ (arriveAs c slotNo pos t).deps = t.deps := by
  unfold arriveAs
  split
  · exact ⟨rfl, rfl, rfl⟩
  · split
    · split <;> exact ⟨rfl, rfl, rfl⟩
    · split <;> exact ⟨rfl, rfl, rfl⟩
    · exact ⟨rfl, rfl, rfl⟩

/-- The token that a scalar result at T0 is as it enters an operand (R172). -/
def operandTok (s : State) (pos : Pos) (n : BitVec 7) (v : Nat) (deps : List Nat) : Tok :=
  arriveAs (curCtx s) n.toNat pos.code { scalarTok v deps with src := 2 * curSlotNo s }

theorem operandTok_fields (s : State) (pos : Pos) (n : BitVec 7) (v : Nat) (deps : List Nat) :
    (operandTok s pos n v deps).stop = 0 ∧ (operandTok s pos n v deps).src = 2 * curSlotNo s ∧
      (operandTok s pos n v deps).deps = deps :=
  arriveAs_fields _ _ _ _

section
variable {s : State} {v : Nat} {deps : List Nat}

theorem keepOf_setKeep_same {c : Ctx} (cell k : Nat) (w : Word) (h : Tab.wf 0 c.keeps = true) :
    keepOf (setKeep c cell k w) cell k = w :=
  get_set_same 0 w (8 * cell + k) h

theorem deliver_scalar_keep {k : BitVec 3} (hctxs : Tab.wf {} s.ctxs = true) (hkeeps : Tab.wf 0 (curCtx s).keeps = true) :
    keepOf (curCtx (deliver s (.keep k) .none deps [(false, .sc v)])) s.cur.cell k.toNat = BitVec.ofNat 32 v ∧
      (deliver s (.keep k) .none deps [(false, .sc v)]).flights = s.flights := by
  have hdeliver : deliver s (.keep k) .none deps [(false, .sc v)] =
      setCtx s s.cur.isl s.cur.slot (setKeep (curCtx s) s.cur.cell k.toNat (BitVec.ofNat 32 v)) := rfl
  have hctx : curCtx (deliver s (.keep k) .none deps [(false, .sc v)]) = setKeep (curCtx s) s.cur.cell k.toNat (BitVec.ofNat 32 v) := by
    rw [hdeliver]
    exact ctxAt_setCtx_same s.cur.isl s.cur.slot _ hctxs
  exact ⟨by rw [hctx, keepOf_setKeep_same _ _ _ hkeeps], by rw [hdeliver]; rfl⟩

theorem behind_of_not_heldBack {isl slot place src : Nat} (h : heldBack s isl slot place src = false) :
    behind s isl slot place src = place := by
  simp [behind, h]

theorem deliver_scalar_operand {pos : Pos} {n : BitVec 7}
    (hfree : heldBack s s.cur.isl s.cur.slot (opKey n.toNat pos.code) (2 * curSlotNo s) = false) :
    ∃ tok, (deliver s (.operand pos n) .none deps [(false, .sc v)]).flights = s.flights ++
        [{ dest := .buf s.cur.isl s.cur.slot (opKey n.toNat pos.code), tok := tok, isl := s.cur.isl, slot := s.cur.slot,
           place := opKey n.toNat pos.code }] ∧
      tok.stop = 0 ∧ tok.src = 2 * curSlotNo s ∧ tok.deps = deps := by
  obtain ⟨hstop, hsrc, hdeps⟩ := operandTok_fields s pos n v deps
  have hdeliver : deliver s (.operand pos n) .none deps [(false, .sc v)] =
      sendTo s s.cur.isl s.cur.slot (behind s s.cur.isl s.cur.slot (opKey n.toNat pos.code) (operandTok s pos n v deps).src)
        (.buf s.cur.isl s.cur.slot (opKey n.toNat pos.code)) (operandTok s pos n v deps) := rfl
  refine ⟨_, ?_, hstop, hsrc, hdeps⟩
  rw [hdeliver, hsrc, behind_of_not_heldBack hfree]
  rfl

theorem deliver_scalar_vc {x : BitVec 5} {d : Dest} (hdest : vcDest s (curCtx s) s.cur.isl s.cur.cell x.toNat = some d)
    (hfree : heldBack s s.cur.isl s.cur.slot (placeOf s.cur.isl s.cur.cell x.toNat d) (256 + x.toNat) = false) :
    (deliver s (.vc x) .none deps [(false, .sc v)]).flights = s.flights ++
      [{ dest := d, tok := { scalarTok v deps with src := 256 + x.toNat }, isl := s.cur.isl, slot := s.cur.slot,
         place := placeOf s.cur.isl s.cur.cell x.toNat d }] := by
  have hdeliver : deliver s (.vc x) .none deps [(false, .sc v)] =
      sendTarget s s.cur.isl s.cur.slot s.cur.cell (curSlotNo s) 0 (.vc x) (scalarTok v deps) := rfl
  have hdest : vcDest s (ctxAt s s.cur.isl s.cur.slot) s.cur.isl s.cur.cell x.toNat = some d := hdest
  simp only [hdeliver, sendTarget, hdest, behind_of_not_heldBack hfree, sendTo]

end

/-! ## Passing the check stage (R190, R273, R359) -/

/-- A firing's record, tokens and requests leave the check stage. -/
def leaveStage (s : State) (r : ChkRec) : State :=
  { s with
    chks := s.chks.filter (fun x => x.tag != r.tag),
    flights := s.flights.map (fun f => if f.chk = some r.tag then { f with chk := none } else f),
    accs := s.accs.map (fun a => if a.chk = some r.tag then
      { a with chk := none, phase := if a.phase = .check then .issued else a.phase } else a) }

/-- The context with a firing's keeps written. -/
def keepsWritten (c : Ctx) (cell : Nat) (l : List (Nat × Word)) : Ctx := l.foldl (fun c e => setKeep c cell e.1 e.2) c

/-- A firing's keeps are written as it passes. -/
def passKeeps (s : State) (r : ChkRec) : State :=
  if r.keeps = [] then leaveStage s r
  else setCtx (leaveStage s r) r.isl r.slot (keepsWritten (ctxAt s r.isl r.slot) r.cell r.keeps)

/-- A firing that writes no bank words, pushes no entry and answers no call. -/
structure OnlyTokens (r : ChkRec) : Prop where
  push : r.push = none
  ret : r.ret = none
  area : r.area = []

theorem passFiring_eq {s : State} {r : ChkRec} (h : OnlyTokens r) :
    passFiring s r = r.exit.elim (passKeeps s r) (nameExit (passKeeps s r) r) := by
  obtain ⟨hpush, hret, harea⟩ := h
  cases hexit : r.exit <;> simp only [passFiring, hpush, hret, harea, hexit, List.foldl_nil] <;> rfl

/-- The exit, or the fault that it raises, reaches a thread and nothing else. -/
theorem nameExit_threads (s : State) (r : ChkRec) (x : Nat) :
    ∃ th, nameExit s r x = { s with sched := { s.sched with threads := th } } := by
  have hfault (site : Site) (firing code addr d1 d2 : Nat) :
      ∃ th, raiseAt s site firing code addr d1 d2 = { s with sched := { s.sched with threads := th } } := by
    simp only [raiseAt]
    split <;> exact ⟨_, rfl⟩
  simp only [nameExit]
  split
  · exact ⟨_, rfl⟩
  · split
    · exact hfault _ _ _ _ _ _
    · split
      · exact ⟨_, rfl⟩
      · split
        · exact ⟨_, rfl⟩
        · exact hfault _ _ _ _ _ _

/-- After the keeps are written only threads change. -/
theorem passFiring_threads {s : State} {r : ChkRec} (h : OnlyTokens r) :
    ∃ th, passFiring s r = { passKeeps s r with sched := { s.sched with threads := th } } := by
  have hsched : (passKeeps s r).sched = s.sched := by unfold passKeeps; split <;> rfl
  rw [passFiring_eq h, ← hsched]
  cases r.exit with
  | none => exact ⟨_, rfl⟩
  | some x => exact nameExit_threads (passKeeps s r) r x

section
variable {s : State} {r : ChkRec}

theorem passKeeps_flights_accs (s : State) (r : ChkRec) :
    (passKeeps s r).flights = (leaveStage s r).flights ∧ (passKeeps s r).accs = (leaveStage s r).accs := by
  unfold passKeeps
  split <;> exact ⟨rfl, rfl⟩

theorem leaveStage_flights : ∀ x ∈ (leaveStage s r).flights, x.chk ≠ some r.tag := by
  refine List.forall_mem_map.mpr fun f _ => ?_
  split
  · exact nofun
  · assumption

theorem leaveStage_accs : ∀ a ∈ (leaveStage s r).accs, a.chk ≠ some r.tag := by
  refine List.forall_mem_map.mpr fun a _ => ?_
  split
  · exact nofun
  · assumption

theorem sameMachine_passKeeps (s : State) (r : ChkRec) : SameMachine s (passKeeps s r) := by
  have hleave : SameMachine s (leaveStage s r) := by simp [SameMachine, leaveStage]
  unfold passKeeps
  split
  · exact hleave
  · exact sameMachine_trans hleave (sameMachine_setCtx _ r.isl r.slot _)

variable (h : OnlyTokens r)
include h

theorem sameMachine_passFiring : SameMachine s (passFiring s r) := by
  obtain ⟨th, hpass⟩ := passFiring_threads (s := s) h
  refine sameMachine_trans (sameMachine_passKeeps s r) ?_
  rw [hpass]
  simp [SameMachine]

theorem ctxAt_passFiring (isl slot : Nat) : ctxAt (passFiring s r) isl slot = ctxAt (passKeeps s r) isl slot := by
  obtain ⟨th, hpass⟩ := passFiring_threads (s := s) h
  rw [hpass]
  rfl

theorem passFiring_flights : ∀ x ∈ (passFiring s r).flights, x.chk ≠ some r.tag := by
  obtain ⟨th, hpass⟩ := passFiring_threads (s := s) h
  rw [hpass]
  exact (passKeeps_flights_accs s r).1 ▸ leaveStage_flights

theorem passFiring_accs : ∀ a ∈ (passFiring s r).accs, a.chk ≠ some r.tag := by
  obtain ⟨th, hpass⟩ := passFiring_threads (s := s) h
  rw [hpass]
  exact (passKeeps_flights_accs s r).2 ▸ leaveStage_accs

theorem keepOf_passFiring {k : Nat} {v : Word} (hkeep : r.keeps = [(k, v)]) (hctxs : Tab.wf {} s.ctxs = true)
    (hwf : Tab.wf 0 (ctxAt s r.isl r.slot).keeps = true) : keepOf (ctxAt (passFiring s r) r.isl r.slot) r.cell k = v := by
  have hstage : Tab.wf {} (leaveStage s r).ctxs = true := hctxs
  rw [ctxAt_passFiring h, passKeeps, if_neg (by simp [hkeep]), ctxAt_setCtx_same _ _ _ hstage, hkeep]
  exact keepOf_setKeep_same r.cell k v hwf

end

/-! ### The exit named (R190) -/

/-- The thread of a context and the exits that are enabled in it. -/
def exitView (c : Ctx) : Option Nat × Nat := (c.thread, c.exen)

@[simp] theorem exitView_keepsWritten (cell : Nat) : ∀ (l : List (Nat × Word)) (c : Ctx),
    exitView (keepsWritten c cell l) = exitView c
  | [], _ => rfl
  | e :: l, c => exitView_keepsWritten cell l (setKeep c cell e.1 e.2)

/-- A context of a thread differs from the default, so that it is listed whatever the form of the table. -/
theorem ctxAt_setCtx_of_thread (s : State) (isl slot : Nat) {c : Ctx} {t : Nat} (hc : c.thread = some t) :
    ctxAt (setCtx s isl slot c) isl slot = c := by
  have hne : c ≠ {} := by
    rintro rfl
    exact nomatch hc
  rw [ctxAt, setCtx, Tab.set, if_neg hne]
  exact get_put_same {} c (ctxKey isl slot) s.ctxs

theorem threadAt_modThread {s : State} (t : Nat) (f : Thread → Thread) (h : Tab.wf {} s.sched.threads = true) :
    threadAt (modThread s t f) t = f (threadAt s t) :=
  get_set_same _ _ t h

theorem exitView_passKeeps {s : State} {r : ChkRec} {t : Nat} (hthread : (ctxAt s r.isl r.slot).thread = some t) :
    exitView (ctxAt (passKeeps s r) r.isl r.slot) = exitView (ctxAt s r.isl r.slot) := by
  have hview := exitView_keepsWritten r.cell r.keeps (ctxAt s r.isl r.slot)
  have hkept : (keepsWritten (ctxAt s r.isl r.slot) r.cell r.keeps).thread = some t := (congrArg (·.1) hview).trans hthread
  unfold passKeeps
  split
  · rfl
  · rw [ctxAt_setCtx_of_thread _ _ _ hkept, hview]

theorem passKeeps_threads (s : State) (r : ChkRec) : (passKeeps s r).sched.threads = s.sched.threads := by
  unfold passKeeps
  split <;> rfl

theorem nameExit_enabled {s : State} {r : ChkRec} {x t : Nat} (hthread : (ctxAt s r.isl r.slot).thread = some t)
    (hen : (ctxAt s r.isl r.slot).exen.testBit x = true) (hnone : (threadAt s t).exit = none) :
    nameExit s r x = modThread s t (fun th => { th with exit := some x }) := by
  simp [nameExit, hthread, hen, hnone]

theorem passFiring_exit {s : State} {r : ChkRec} (h : OnlyTokens r) {e t : Nat} (hexit : r.exit = some e)
    (hthread : (ctxAt s r.isl r.slot).thread = some t) (hen : (ctxAt s r.isl r.slot).exen.testBit e = true)
    (hwf : Tab.wf {} s.sched.threads = true) (hnone : (threadAt s t).exit = none) :
    (threadAt (passFiring s r) t).exit = some e := by
  have hview := exitView_passKeeps (r := r) hthread
  have hsame : threadAt (passKeeps s r) t = threadAt s t := by rw [threadAt, passKeeps_threads, ← threadAt]
  have hname := nameExit_enabled (s := passKeeps s r) (r := r) (x := e) ((congrArg (·.1) hview).trans hthread)
    ((congrArg (·.2.testBit e) hview).trans hen) (hsame ▸ hnone)
  rw [passFiring_eq h, hexit, Option.elim_some, hname, threadAt_modThread t _ (by rwa [passKeeps_threads])]

/-! ## The effects of a firing -/

theorem passOldest_eq {s : State} {isl cell : Nat} {r : ChkRec} {l : List ChkRec} (hold : unchecked s isl cell = r :: l)
    (hmay : mayPass s r = true) : passOldest s isl cell = passFiring s r := by
  simp [passOldest, passIf, hold, hmay]

section
variable {s : State} {t0 t1 : Target} {f : Fire} {n : Nat} {l : List Flight}

theorem sameMachine_fired : SameMachine s (fired s t0 t1 f n l) := by simp [SameMachine, fired]

theorem curCtx_fired (h : Tab.wf {} s.ctxs = true) :
    curCtx (fired s t0 t1 f n l) = fireCtx (curCtx s) s.cur.cell s.cur.k f :=
  ctxAt_setCtx_same s.cur.isl s.cur.slot _ h

theorem ctxAt_fired_other {isl slot : Nat} (h : ctxKey isl slot ≠ ctxKey s.cur.isl s.cur.slot) :
    ctxAt (fired s t0 t1 f n l) isl slot = ctxAt s isl slot :=
  get_set_other _ _ h s.ctxs

end

/-- Settles O11: a firing does what `fired` says (`commit_eq_fired`), its context is as `fireCtx` says, a scalar result goes where
its target says, and a firing that passes the check stage does what `passFiring_threads` allows. -/
theorem firingEffects : Obligations.FiringEffects := by
  refine ⟨fun s t0 t1 f => ?frame, fun s t0 t1 f hctxs hopst hst => ?number, fun s t v deps => ?result,
    fun s isl cell r rest hlive hmay hold hpush hret harea => ?pass⟩
  case frame =>
    obtain ⟨n, l, hcommit, hheld⟩ := commit_eq_fired s t0 t1 f
    rw [hcommit]
    refine ⟨sameMachine_fired, rfl, rfl, List.take_left' rfl, ?held, rfl, rfl, fun hctxs => ?keeps,
      fun _ _ => ctxAt_fired_other, rfl, fun hctxs i hst hlow hhigh => ?kept, fun hctxs hopst hst hnodup e he => ?written⟩
    case held => exact (List.drop_left' rfl : (s.flights ++ l).drop s.flights.length = l).symm ▸ hheld
    case keeps => rw [curCtx_fired hctxs, fireCtx_keeps]
    case kept =>
      rw [curCtx_fired hctxs]
      exact opst_fireCtx_other hst hlow hhigh
    case written =>
      rw [curCtx_fired hctxs]
      exact opst_fireCtx_written hopst hst hnodup he
  case number =>
    obtain ⟨n, l, hcommit, -⟩ := commit_eq_fired s t0 t1 f
    rw [hcommit, curCtx_fired hctxs]
    exact firingNo_fireCtx hopst hst
  case result =>
    refine ⟨?keep, ?operand, ?vc, ?none⟩
    case keep =>
      rintro k rfl hctxs hkeeps
      exact deliver_scalar_keep hctxs hkeeps
    case operand =>
      rintro pos n rfl hfree
      exact deliver_scalar_operand hfree
    case vc =>
      rintro x d rfl hdest hfree
      exact deliver_scalar_vc hdest hfree
    case none =>
      rintro rfl
      rfl
  case pass =>
    have htokens : OnlyTokens r := ⟨hpush, hret, harea⟩
    rw [passOldest_eq hold hmay]
    refine ⟨?step, passFiring_flights htokens, passFiring_accs htokens, sameMachine_passFiring htokens,
      fun k v => keepOf_passFiring htokens, fun e t => passFiring_exit htokens⟩
    simp [stepAct, hlive, passOldest_eq hold hmay]

end Sys2Proof.Proofs.Firings
end
